-- ==== Sys2Proof/Word.lean ====
section
/-! DEFINITION. The word types of the GV8-A256: bytes, 64-bit registers, and the package's counts (R10, R95). -/

namespace Sys2Proof

/-- One byte of memory. -/
abbrev Byte := BitVec 8

/-- One 64-bit register, slot or record word (R95). -/
abbrev Word := BitVec 64

/-- Cores of the package (R10). -/
abbrev numCores : Nat := 256
/-- Groves of the package (R10). -/
abbrev numGroves : Nat := 64
/-- Stacks of the package (R10). -/
abbrev numStacks : Nat := 8
/-- Partitions, one per virtual function (R396). -/
abbrev numParts : Nat := 16
/-- Lamore links (R303). -/
abbrev numLinks : Nat := 18

end Sys2Proof
end

