-- ==== Sys2Proof/Syntax.lean ====
section
/-! DEFINITION. The syntax of the GV8-A256: the fields of an instruction word (R29), the data that a host step carries,
and `Instr`, one constructor for each row of the opcode table (R35, R36 and the agents' steps). -/

namespace Sys2Proof

/-- The lengths of an instruction by LEN (R26): 64, 96 and 128 bits. A pad word (LEN 11) is no instruction (R28). -/
inductive Len where
  | w64
  | w96
  | w128
  deriving DecidableEq, Repr

/-- The operand fields of an instruction word, common to every opcode (R29, R30). `ext` holds the extension word:
zero in the 64-bit form, bits [31:0] in the 96-bit form, all of it in the 128-bit form. -/
structure Operands where
  len   : Len
  lah   : BitVec 4
  d     : BitVec 5
  a     : BitVec 5
  b     : BitVec 5
  c     : BitVec 5
  fn    : BitVec 8
  imm22 : BitVec 22
  ext   : BitVec 64
  deriving DecidableEq, Repr

/-- A write of the host driver, or an outstanding store, to a configuration register (R312, R332, R398, R399). -/
inductive RegWrite where
  /-- NODEID through the physical function (R312). -/
  | nodeId (v : Word)
  /-- ADMIT[n] through the physical function (R312). -/
  | admission (node : Nat) (v : Word)
  /-- A word of partition p's device-register block other than GROVES (R399). -/
  | partition (part word : Nat) (v : Word)
  /-- A host mailbox register of VF p (R398). -/
  | mailbox (part offset : Nat) (v : Word)
  /-- A register of the power and telemetry block, stored by the host (R332). -/
  | power (offset : Nat) (v : Word)
  /-- The outstanding store k, addressed to the power and telemetry block (R332). -/
  | store (k : Nat)
  deriving DecidableEq, Repr

/-- One `.ctx` directive of a load image (R391, R354). -/
structure ImageCtx where
  row   : Nat
  pc    : BitVec 32
  state : BitVec 4
  gang  : BitVec 12
  mode  : Bool
  regs  : List (Nat × Word)
  deriving DecidableEq, Repr

/-- The part of a load image that belongs to one core (R391): its rows, context rows and core register values. -/
structure ImageCore where
  core  : Nat
  rows  : List (Nat × List Byte)
  ctxs  : List ImageCtx
  ksets : List (Nat × Word)
  deriving DecidableEq, Repr

/-- One `.gang` directive (R185, R231): the descriptor's fields and the range of its lease; an option that is not given is none,
and `members` is MEMBERS when it is given. -/
structure ImageGang where
  gang    : Nat
  cls     : BitVec 3
  members : Option (BitVec 16)
  lease   : Option (Nat × Nat)
  handler : Option (BitVec 32)
  aperiod : Option (BitVec 32)
  aoffset : Option (BitVec 32)
  alead   : Option (BitVec 16)
  wdbudget : Option Word
  deriving DecidableEq, Repr

/-- A load image as the loader places it (R394, R395). `ptes` are the page-table entries that the host driver writes
(stack, stack-local address, entry); `data` holds bytes by virtual address. -/
structure Image where
  part     : Nat
  codeBase : Word
  code     : List Byte
  ptes     : List (Nat × Nat × Word)
  data     : List (Nat × List Byte)
  gangs    : List ImageGang
  cores    : List ImageCore
  deriving DecidableEq, Repr

/-- The steps of the part. The first 157 constructors are the instructions of the opcode map (R35, R36); the others are
the steps of its agents, each whole and indivisible. -/
inductive Instr where
  /-- NOP: Issues and changes nothing but PC. (R129) -/
  | nop (o : Operands)
  /-- HINT_GATHER: Holds the row for up to k cycles while a same-block lower-PC row of the grove runs. (R130) -/
  | hintGather (o : Operands)
  /-- HINT_FETCH: Asks the grove fetch port to bring the block at pc + imm into the instruction cache. (R131) -/
  | hintFetch (o : Operands)
  /-- PBR: Writes bt with a PC-relative target and VALID 1. (R132) -/
  | pbr (o : Operands)
  /-- PBR_REGISTER: Writes bt with target wa + imm and VALID 1. (R132) -/
  | pbrRegister (o : Operands)
  /-- BR: Branches unconditionally through bt, raising BT when VALID is 0. (R134) -/
  | br (o : Operands)
  /-- B_CC: Compares two registers and branches through bt when the condition holds. (R134) -/
  | bCc (o : Operands)
  /-- BI_CC: Compares a register with an immediate and branches through bt when the condition holds. (R134) -/
  | biCc (o : Operands)
  /-- LOOP: Decrements the counter and branches through bt when it is not zero. (R134) -/
  | loop (o : Operands)
  /-- J: Jumps to pc + imm. (R135) -/
  | j (o : Operands)
  /-- CALL: Writes the return PC to wd and jumps to pc + imm. (R135) -/
  | call (o : Operands)
  /-- JR: Jumps to wa + imm. (R135) -/
  | jr (o : Operands)
  /-- CALLR: Writes the return PC to wd and jumps to the old wa + imm. (R135) -/
  | callr (o : Operands)
  /-- YIELD: Closes the row to READY if any unshed READY row exists, else acts as nop. (R112) -/
  | yield (o : Operands)
  /-- HALT: Drains pending operations, sets STATE HALT with PC at the halt, and closes the row. (R7) -/
  | halt (o : Operands)
  /-- WAIT_CLASP: Completes if the clasp is not armed, otherwise blocks the row in WAIT on the clasp. (R137) -/
  | waitClasp (o : Operands)
  /-- WAIT_ALL: Completes if every tag of the mask is set, otherwise reserves a wait entry and blocks. (R137) -/
  | waitAll (o : Operands)
  /-- WAIT_ANY: Completes if any tag of the mask is set, otherwise reserves a wait entry and blocks. (R137) -/
  | waitAny (o : Operands)
  /-- WAIT_UNTIL: Completes if TIME has reached wa + imm, otherwise reserves a wait entry and blocks. (R137) -/
  | waitUntil (o : Operands)
  /-- TRAP: Raises TRAPI with the given code. (R139) -/
  | trap (o : Operands)
  /-- BRK: Raises BRK for a debug handler. (R139) -/
  | brk (o : Operands)
  /-- TRET: Clears BUSY, restores bt.VALID from BTV and resumes at the saved point or at wa. (R123) -/
  | tret (o : Operands)
  /-- ADD: Writes x + y. (R140) -/
  | add (o : Operands)
  /-- SUB: Writes x − y. (R140) -/
  | sub (o : Operands)
  /-- AND: Writes x AND y. (R140) -/
  | and (o : Operands)
  /-- OR: Writes x OR y. (R140) -/
  | or (o : Operands)
  /-- XOR: Writes x XOR y. (R140) -/
  | xor (o : Operands)
  /-- ANDN: Writes x AND NOT y. (R140) -/
  | andn (o : Operands)
  /-- SHL: Shifts left by y mod n. (R140) -/
  | shl (o : Operands)
  /-- SHR: Shifts right logically by y mod n. (R140) -/
  | shr (o : Operands)
  /-- SAR: Shifts right arithmetically by y mod n. (R140) -/
  | sar (o : Operands)
  /-- ROL: Rotates left by y mod n. (R140) -/
  | rol (o : Operands)
  /-- MUL: Writes the low n bits of the product and holds the row 2 cc. (R140) -/
  | mul (o : Operands)
  /-- MULH: Writes the high n bits of the signed or unsigned product. (R140) -/
  | mulh (o : Operands)
  /-- DIV: Long-latency quotient, with defined results for division by zero and overflow. (R141) -/
  | div (o : Operands)
  /-- REM: Long-latency remainder with the sign of x. (R141) -/
  | rem (o : Operands)
  /-- MIN: Writes the smaller operand, signed or unsigned. (R140) -/
  | min (o : Operands)
  /-- MAX: Writes the larger operand, signed or unsigned. (R140) -/
  | max (o : Operands)
  /-- CMP_CC: Writes 1 if the integer condition holds, else 0. (R142) -/
  | cmpCc (o : Operands)
  /-- SEL: Writes wa if wc is non-zero, else wb. (R142) -/
  | sel (o : Operands)
  /-- LI: Loads an immediate of 22, 32 or 64 bits. (R142) -/
  | li (o : Operands)
  /-- LEA: Writes wa + wb·2^k + imm. (R142) -/
  | lea (o : Operands)
  /-- BEXT: Extracts a bit field, zero- or sign-extended. (R143) -/
  | bext (o : Operands)
  /-- BINS: Inserts the low bits of wb into a field of wa. (R143) -/
  | bins (o : Operands)
  /-- CLZ: Counts leading zero bits. (R144) -/
  | clz (o : Operands)
  /-- CTZ: Counts trailing zero bits. (R144) -/
  | ctz (o : Operands)
  /-- POPC: Counts set bits. (R144) -/
  | popc (o : Operands)
  /-- MADD: Writes x·y + z modulo 2^n and holds the row 2 cc. (R144) -/
  | madd (o : Operands)
  /-- FADD: FP32 addition with one rounding. (R146) -/
  | fadd (o : Operands)
  /-- FSUB: FP32 subtraction with one rounding. (R146) -/
  | fsub (o : Operands)
  /-- FMUL: FP32 multiplication with one rounding. (R146) -/
  | fmul (o : Operands)
  /-- FFMA: FP32 fused multiply-add rounded once. (R146) -/
  | ffma (o : Operands)
  /-- FDIV: Long-latency FP32 division. (R146) -/
  | fdiv (o : Operands)
  /-- FSQRT: Long-latency FP32 square root. (R146) -/
  | fsqrt (o : Operands)
  /-- FMIN: FP32 minimum that ignores a single NaN. (R147) -/
  | fmin (o : Operands)
  /-- FMAX: FP32 maximum that ignores a single NaN. (R147) -/
  | fmax (o : Operands)
  /-- FCMP_CC: Writes 1 if the floating condition holds, else 0. (R148) -/
  | fcmpCc (o : Operands)
  /-- FCVT: Converts between FP32, BF16 and integers by the selected kind. (R149) -/
  | fcvt (o : Operands)
  /-- FSGN: Copies the sign of wb onto wa. (R150) -/
  | fsgn (o : Operands)
  /-- FSGN_N: Copies the negated sign of wb onto wa. (R150) -/
  | fsgnN (o : Operands)
  /-- FSGN_X: Gives wa the exclusive-or of both signs. (R150) -/
  | fsgnX (o : Operands)
  /-- FCLASS: Writes one bit for the class of the FP32 operand. (R151) -/
  | fclass (o : Operands)
  /-- LD: Long-latency global load, optionally acquire. (R152) -/
  | ld (o : Operands)
  /-- ST: Global store, optionally release, held outstanding until accepted. (R152) -/
  | st (o : Operands)
  /-- LR: Load from the core's row space. (R152) -/
  | lr (o : Operands)
  /-- SR: Store to the core's row space, a control request at slot 0 of a context row. (R152) -/
  | sr (o : Operands)
  /-- LDM: Loads up to 8 registers from row space or global memory. (R156) -/
  | ldm (o : Operands)
  /-- STM: Stores up to 8 registers, delivering a record whole at engine windows. (R156) -/
  | stm (o : Operands)
  /-- PF: Prefetches a global line into the grove slice. (R157) -/
  | pf (o : Operands)
  /-- FENCE: Orders earlier accesses of the predecessor set before later ones of the successor set at a scope. (R158) -/
  | fence (o : Operands)
  /-- FENCE_LB: Orders row-space and loop-back accesses to the row's own array. (R159) -/
  | fenceLb (o : Operands)
  /-- LOCK: Pins a line in the issuing grove's slice against the quota. (R160) -/
  | lock (o : Operands)
  /-- UNLOCK: Releases a pinned line and its quota unit. (R161) -/
  | unlock (o : Operands)
  /-- GRESIZE: Sets the grove's number of scratch ways. (R162) -/
  | gresize (o : Operands)
  /-- WB: Writes back dirty lines of a range in the scoped slices. (R163) -/
  | wb (o : Operands)
  /-- INV: Writes back and invalidates lines of a range in the scoped slices. (R163) -/
  | inv (o : Operands)
  /-- AMO_ADD: Atomic add returning the old value. (R165) -/
  | amoAdd (o : Operands)
  /-- AMO_AND: Atomic AND returning the old value. (R165) -/
  | amoAnd (o : Operands)
  /-- AMO_OR: Atomic OR returning the old value. (R165) -/
  | amoOr (o : Operands)
  /-- AMO_XOR: Atomic XOR returning the old value. (R165) -/
  | amoXor (o : Operands)
  /-- AMO_MIN: Atomic signed minimum. (R165) -/
  | amoMin (o : Operands)
  /-- AMO_MAX: Atomic signed maximum. (R165) -/
  | amoMax (o : Operands)
  /-- AMO_MINN: Atomic unsigned minimum. (R165) -/
  | amoMinn (o : Operands)
  /-- AMO_MAXN: Atomic unsigned maximum. (R165) -/
  | amoMaxn (o : Operands)
  /-- AMO_SWAP: Atomic swap. (R165) -/
  | amoSwap (o : Operands)
  /-- ACAS: Atomic compare-and-swap returning the old value. (R166) -/
  | acas (o : Operands)
  /-- FAMO_ADD: Atomic FP32 add. (R167) -/
  | famoAdd (o : Operands)
  /-- FAMO_MIN: Atomic FP32 minimum under the fmin rule. (R167) -/
  | famoMin (o : Operands)
  /-- FAMO_MAX: Atomic FP32 maximum under the fmax rule. (R167) -/
  | famoMax (o : Operands)
  /-- FAMO_ADD2: Atomic add of a pair of BF16 lanes. (R167) -/
  | famoAdd2 (o : Operands)
  /-- CLARM: Arms the row's clasp, optionally timed, and evaluates it at once. (R169) -/
  | clarm (o : Operands)
  /-- TAGCLR: Clears the masked tags of the core. (R173) -/
  | tagclr (o : Operands)
  /-- TAGFFR: Takes and clears the lowest set masked tag. (R173) -/
  | tagffr (o : Operands)
  /-- GBAR: Arrives at the gang barrier and waits for the episode's release. (R175) -/
  | gbar (o : Operands)
  /-- GBAR_ARRIVE: Arrives at the gang barrier and continues. (R175) -/
  | gbarArrive (o : Operands)
  /-- GBAR_WAIT: Waits for the release of the episode of the row's entry. (R175) -/
  | gbarWait (o : Operands)
  /-- GSET: Resolves a guard slot to TRUE or FALSE, releasing held engine work. (R180) -/
  | gset (o : Operands)
  /-- GSET_CLR: Returns a guard slot to PEND. (R180) -/
  | gsetClr (o : Operands)
  /-- KGET: Reads a core register. (R181) -/
  | kget (o : Operands)
  /-- KSET: Writes a core register under the checks of R47. (R181) -/
  | kset (o : Operands)
  /-- SEND: Posts registers as a remote write with optional count and acknowledgement tag. (R316) -/
  | send (o : Operands)
  /-- POST: Posts 8 registers to a mailbox ring of a core. (R318) -/
  | post (o : Operands)
  /-- SIG: Sends a count to a clasp. (R322) -/
  | sig (o : Operands)
  /-- LAUNCH: Enters a task header from row space into the partition's queue and waits for placement. (R297) -/
  | launch (o : Operands)
  /-- RESPUB: Writes a residency entry of the core or grove. (R292) -/
  | respub (o : Operands)
  /-- RESDROP: Invalidates a residency entry. (R292) -/
  | resdrop (o : Operands)
  /-- RESQ: Reads a word of a residency entry. (R292) -/
  | resq (o : Operands)
  /-- RADD: Adds two rows lane by lane. (R193) -/
  | radd (o : Operands)
  /-- RSUB: Subtracts two rows lane by lane. (R193) -/
  | rsub (o : Operands)
  /-- RMUL: Multiplies two rows lane by lane. (R193) -/
  | rmul (o : Operands)
  /-- RFMA: Fused multiply-add of three rows. (R193) -/
  | rfma (o : Operands)
  /-- RMAX: Lane-wise maximum of two rows. (R193) -/
  | rmax (o : Operands)
  /-- RMIN: Lane-wise minimum of two rows. (R193) -/
  | rmin (o : Operands)
  /-- RABS: Lane-wise absolute value. (R193) -/
  | rabs (o : Operands)
  /-- RNEG: Lane-wise negation. (R193) -/
  | rneg (o : Operands)
  /-- RSCAL: Lane-wise A·s + c with scalar operands. (R193) -/
  | rscal (o : Operands)
  /-- RCMP_CC: Writes an all-ones or zero mask per lane by the condition. (R194) -/
  | rcmpCc (o : Operands)
  /-- RSEL: Selects lanes of A or B by a mask row. (R195) -/
  | rsel (o : Operands)
  /-- RSUM: Tree sum of lanes into bytes 0–3 of D. (R196) -/
  | rsum (o : Operands)
  /-- RMAXR: Tree maximum of lanes into bytes 0–3 of D. (R196) -/
  | rmaxr (o : Operands)
  /-- RDOT: Tree dot product of two rows into bytes 0–3 of D. (R196) -/
  | rdot (o : Operands)
  /-- RSCAN: Prefix sums of lanes by the fixed tree. (R197) -/
  | rscan (o : Operands)
  /-- RCVT: Converts lanes between types, into or from a part. (R198) -/
  | rcvt (o : Operands)
  /-- RQNT: Quantises blocks of 32 lanes with E8M0 scales. (R200) -/
  | rqnt (o : Operands)
  /-- RDQNT: Dequantises lanes with E8M0 block scales. (R201) -/
  | rdqnt (o : Operands)
  /-- RPACK: Packs two source rows into one narrower row. (R199) -/
  | rpack (o : Operands)
  /-- RUNPK: Unpacks one row into rows D and D+1. (R199) -/
  | runpk (o : Operands)
  /-- REXP2: BF16 lane-wise 2^x, correctly rounded. (R202) -/
  | rexp2 (o : Operands)
  /-- RLOG2: BF16 lane-wise log2 x. (R202) -/
  | rlog2 (o : Operands)
  /-- RRCP: BF16 lane-wise reciprocal. (R202) -/
  | rrcp (o : Operands)
  /-- RRSQRT: BF16 lane-wise reciprocal square root. (R202) -/
  | rrsqrt (o : Operands)
  /-- RPERM: Permutes lanes by an index row. (R203) -/
  | rperm (o : Operands)
  /-- RBCAST: Broadcasts one lane to all lanes. (R203) -/
  | rbcast (o : Operands)
  /-- RMOV: Copies lanes of a row. (R203) -/
  | rmov (o : Operands)
  /-- RCLR: Clears lanes of a row. (R203) -/
  | rclr (o : Operands)
  /-- RIOTA: Writes wa + i into lane i. (R203) -/
  | riota (o : Operands)
  /-- RBIT_AND: Lane-wise AND of two integer rows. (R204) -/
  | rbitAnd (o : Operands)
  /-- RBIT_OR: Lane-wise OR of two integer rows. (R204) -/
  | rbitOr (o : Operands)
  /-- RBIT_XOR: Lane-wise XOR of two integer rows. (R204) -/
  | rbitXor (o : Operands)
  /-- RBIT_ANDN: Lane-wise A AND NOT B. (R204) -/
  | rbitAndn (o : Operands)
  /-- RBIT_NOT: Lane-wise NOT of A. (R204) -/
  | rbitNot (o : Operands)
  /-- RSH_SHL: Lane-wise logical shift left. (R204) -/
  | rshShl (o : Operands)
  /-- RSH_SHR: Lane-wise logical shift right. (R204) -/
  | rshShr (o : Operands)
  /-- RSH_SAR: Lane-wise arithmetic shift right. (R204) -/
  | rshSar (o : Operands)
  /-- RSH_ROL: Lane-wise rotate left. (R204) -/
  | rshRol (o : Operands)
  /-- RGET: Reads one lane of a row into a register. (R205) -/
  | rget (o : Operands)
  /-- RSET: Writes a register value into one lane of a row. (R205) -/
  | rset (o : Operands)
  /-- GSTOP: Sets SUP on a gang and waits until it is stopped. (R371) -/
  | gstop (o : Operands)
  /-- GSTOP_P: Stops every other gang of the partition. (R371) -/
  | gstopP (o : Operands)
  /-- GRESUME: Clears SUP on a gang and resumes it if no mark remains. (R373) -/
  | gresume (o : Operands)
  /-- GRESUME_P: Clears SUP on every other gang of the partition. (R373) -/
  | gresumeP (o : Operands)
  /-- LEASE: Installs a lease record on a gang, starting revocation of removed rights. (R91) -/
  | lease (o : Operands)
  /-- TLBINV: Invalidates the partition's translations and advances its generation. (R92) -/
  | tlbinv (o : Operands)
  /-- DLHARVEST: Merges every dirty log of the partition into the page tables. (R93) -/
  | dlharvest (o : Operands)
  /-- ROWPOOL: Adds rows to or removes rows from a core's launch pool. (R295) -/
  | rowpool (o : Operands)
  /-- PREQ: Sets the core's requested operating point. (R347) -/
  | preq (o : Operands)
  /-- MCALL: Requests an energy or alert service from the management controller. (R353) -/
  | mcall (o : Operands)
  /-- LONG_LATENCY_COMPLETION: A pending long-latency operation completes and writes its result or reports a deferred fault. (R113) -/
  | longLatencyCompletion (core row k : Nat)
  /-- STORE_ACCEPTANCE: The receiver accepts or refuses an outstanding global store. (R154) -/
  | storeAcceptance (k : Nat)
  /-- TRAP_ENTRY: After draining, a trapping row vectors to its handler or is ended. (R122) -/
  | trapEntry (core row : Nat)
  /-- ENGINE_TRAP_DELIVERY: A pending ENGINE trap is taken by its row at a boundary. (R125) -/
  | engineTrapDelivery (core row : Nat)
  /-- ACTIVATION: The scheduler opens the head of the lowest unshed READY FIFO into a latch. (R111) -/
  | activation (core : Nat)
  /-- ROW_CLOSE: A closing row's latch write-back ends and the latch frees. (R109) -/
  | rowClose (core row : Nat)
  /-- QUANTUM_EXPIRY: An open row's instruction count reaches QUANTUM with a competing READY row, and the row closes. (R112) -/
  | quantumExpiry (core row : Nat)
  /-- AGING: A READY row's time in its FIFO reaches AGELIM and it counts as class 0. (R111) -/
  | aging (core cycles : Nat)
  /-- CONTROL_REQUEST: A store to slot 0 of a context row is applied at the target by the state table. (R103) -/
  | controlRequest (k : Nat)
  /-- OUTSIDE_ACCESS: An outside load, store or atomic to a context or open row is applied at a boundary. (R105) -/
  | outsideAccess (k : Nat)
  /-- CLASP_ARRIVAL: An arrival adds to a clasp's COUNT, saturating, and the clasp is evaluated. (R170) -/
  | claspArrival (k : Nat)
  /-- CLASP_DEADLINE: A timed clasp's deadline passes and the clasp is evaluated. (R171) -/
  | claspDeadline (core row : Nat)
  /-- TIME_WAKE: The timebase reaches a wait.until time and the row becomes READY. (R138) -/
  | timeWake (core row : Nat)
  /-- BARRIER_RELEASE: At the release instant every entry of the episode is released and waiting members resume. (R176) -/
  | barrierRelease (part gang : Nat)
  /-- BARRIER_REREAD: Every 1 µs the combiners reread the descriptor of a held episode and complete it if valid. (R175) -/
  | barrierReread (part gang : Nat)
  /-- REVOCATION_COMPLETE: When every member is stopped or at gbar the revoked ranges are removed and the lease target signalled. (R91) -/
  | revocationComplete (part gang : Nat)
  /-- MATRIX_COMMAND_STORE: A 64-byte command store enters the matrix queue. (R212) -/
  | matrixCommandStore (k : Nat)
  /-- WLOAD: Reads and latches a weight set, metadata and scales. (R217) -/
  | wload (core : Nat)
  /-- MRUN: Checks and begins a run of injections through the latched weights. (R219) -/
  | mrun (core : Nat)
  /-- MRUN_TIMED_START: A TIMED MRUN's START time is reached and it begins injecting. (R17) -/
  | mrunTimedStart (core : Nat)
  /-- INJECTION: An injection is granted and reads its activation rows. (R219) -/
  | injection (core : Nat)
  /-- C_ROW_WRITE: 160 cc after an injection, its FP32 results are written to the C row. (R219) -/
  | cRowWrite (core : Nat)
  /-- MZERO: Writes zero rows. (R220) -/
  | mzero (core : Nat)
  /-- MSYNC: Waits for all earlier commands and signals. (R220) -/
  | msync (core : Nat)
  /-- MFILL: Makes filler injections that draw current only. (R220) -/
  | mfill (core : Nat)
  /-- MNOP: Completes at once and signals. (R220) -/
  | mnop (core : Nat)
  /-- RESUME: Control MNOP that clears HALT of a halted matrix queue. (R221) -/
  | resume (core : Nat)
  /-- FLUSH: Control MNOP that discards queued matrix commands. (R221) -/
  | flush (core : Nat)
  /-- SLEW_STEP: At each 4-cycle step boundary the limiter sets the grant allowance, floor and fillers. (R228) -/
  | slewStep (grove : Nat)
  /-- HEAD: A store to a channel HEAD register starts a chain or clears the channel. (R236) -/
  | head (k : Nat)
  /-- STOP: A STOP value stored to HEAD stops an active or held channel. (R236) -/
  | stop (k : Nat)
  /-- LINEAR: A transfer record copies LEN bytes. (R242) -/
  | linear (core ch : Nat)
  /-- TENSOR: A transfer record moves a tensor window through a layout record. (R243) -/
  | tensor (core ch : Nat)
  /-- GATHER: A transfer record fetches items named by an index row. (R248) -/
  | gather (core ch : Nat)
  /-- SCATTER: A transfer record writes or combines items at indexed places. (R248) -/
  | scatter (core ch : Nat)
  /-- EXPAND: A transfer record decodes compressed weights into array rows. (R250) -/
  | expand (core ch : Nat)
  /-- REPL: A transfer record writes data into bank-engine operand buffers. (R251) -/
  | repl (core ch : Nat)
  /-- CALL_RECORD_STORE: A 64-byte store to a call window enqueues a call. (R265) -/
  | callRecordStore (k : Nat)
  /-- GEMV: Bank engines multiply the stack's matrix share by a vector. (R274) -/
  | gemv (stack : Nat)
  /-- GEMV_ACCUMULATE: GEMV adding to the prior destination lanes. (R274) -/
  | gemvAccumulate (stack : Nat)
  /-- GEMV_BATCH: GEMV over up to 8 vectors. (R274) -/
  | gemvBatch (stack : Nat)
  /-- AXPY: Updates the stack's elements y := a·x + y. (R275) -/
  | axpy (stack : Nat)
  /-- GATHER_ROWS: Copies indexed table rows into array rows. (R276) -/
  | gatherRows (stack : Nat)
  /-- EXPAND_ENTRY: Decodes the stack's weight stream into device memory. (R277) -/
  | expandEntry (stack : Nat)
  /-- REDUCE_MAX: Finds the largest FP32 element held by the stack and its index. (R278) -/
  | reduceMax (stack : Nat)
  /-- CALL_ABORT: A revocation or stop ends a call at a burst boundary with ABORTED. (R283) -/
  | callAbort (stack : Nat)
  /-- BROADCAST_WRITE: A store to a stack's broadcast window writes all 64 operand buffers. (R263) -/
  | broadcastWrite (k : Nat)
  /-- HEARTWOOD_SWAP: A pending bank swap takes effect between calls. (R284) -/
  | heartwoodSwap (stack : Nat)
  /-- TASK_HEADER_STORE: A 64-byte store to a dispatch header window enqueues a header. (R289) -/
  | taskHeaderStore (k : Nat)
  /-- PLACEMENT: The dispatcher scores cores, lends a pool row and launches or refuses a header. (R296) -/
  | placement (part : Nat)
  /-- WRITE: A WRITE message is checked and applied at the destination, with optional count and ACK. (R316) -/
  | write (k : Nat)
  /-- READ: A READ message is served at the destination unit and answered with RESP. (R324) -/
  | read (k : Nat)
  /-- RESP: A response delivers read data or an old atomic value with status. (R324) -/
  | resp (k : Nat)
  /-- ATOMIC: An ATOMIC message is performed once at its unit. (R324) -/
  | atomic (k : Nat)
  /-- COUNT: A COUNT message adds n to a clasp and returns an ACK. (R322) -/
  | count (k : Nat)
  /-- POST_MESSAGE: A POST message is checked against the destination ring. (R318) -/
  | postMessage (k : Nat)
  /-- RING_APPEND: When room exists an entry is written, TAILIDX advanced and the owner clasp counted. (R318) -/
  | ringAppend (core ring : Nat)
  /-- ACK: An acknowledgement returns status and may set the sender's tag. (R317) -/
  | ack (k : Nat)
  /-- NAK: A NAK makes the sender resend every unacknowledged flit. (R305) -/
  | nak (link : Nat)
  /-- LINK_RETRAIN: A link retrains alone after 16 resends or on command. (R307) -/
  | linkRetrain (link : Nat)
  /-- BEACON: A beacon flit updates the timebase offset toward the parent. (R328) -/
  | beacon (link : Nat)
  /-- BEACON_SEND: Every 10 µs each link end sends a beacon. (R328) -/
  | beaconSend (link : Nat)
  /-- TIMEBASE_STALE: 100 µs without a parent beacon sets STALE and holds the rate. (R330) -/
  | timebaseStale
  /-- ROUTE_WRITE: A ROUTE write takes effect once the old link has drained for that node. (R314) -/
  | routeWrite (node : Nat) (v : Word)
  /-- TPARENT_WRITE: A TPARENT write selects the timebase parent link. (R329) -/
  | tparentWrite (v : Word)
  /-- REGISTER_WRITE: A write to a register without behaviour of its own, checked for range and reserved bits. (R332) -/
  | registerWrite (w : RegWrite)
  /-- TELEMETRY_FRAME: An accepted frame sets the allowed fraction, shed mask, CADENCE and point cap. (R340) -/
  | telemetryFrame (bytes : List Byte)
  /-- REPLAY: A 32-byte store to REPLAY delivers one frame. (R337) -/
  | replay (k : Nat)
  /-- TCTL: A write to TCTL sets replay mode, restarting the stale interval. (R337) -/
  | tctl (k : Nat)
  /-- COMMIT: Checks the staged curve set and applies it from the next frame. (R338) -/
  | commit (k : Nat)
  /-- TELEMETRY_STALE: 200 µs without a usable frame sets STALE. (R336) -/
  | telemetryStale
  /-- SHED_DEADLINE: At SHEDDL after a mark, gangs of a still-shed class not at a barrier are stopped. (R341) -/
  | shedDeadline (cls : Nat)
  /-- OPERATING_POINT_CHANGE: A grove's change of operating point completes. (R346) -/
  | operatingPointChange (grove : Nat)
  /-- SENSOR_READ: Every 50 µs each sensor is read and its level updated. (R350) -/
  | sensorRead (n : Nat) (temp : BitVec 16)
  /-- IDLE_ENTRY: After 1 µs of quiescence a grove enters G1, G2 or G3. (R349) -/
  | idleEntry (grove : Nat)
  /-- GROVE_WAKE: A grove wakes on arrival, restore or timed wake and serves held accesses. (R349) -/
  | groveWake (grove : Nat)
  /-- WATCHDOG_CHECK: Every 1 µs the gang's WDCNT is compared with WDBUDGET. (R380) -/
  | watchdogCheck (part gang : Nat)
  /-- WATCHDOG_EXPIRY: An expired watchdog ends every member and engine work of the gang. (R381) -/
  | watchdogExpiry (part gang : Nat)
  /-- DIRTY_LOG_MERGE: When a log half fills the log agent sets D bits and frees the half. (R88) -/
  | dirtyLogMerge (core half : Nat)
  /-- REMAP_ADD: The management controller remaps an atom after four correctable errors. (R86) -/
  | remapAdd (stack : Nat) (atom : Nat)
  /-- FAULT_RECORD_APPEND: A held fault record is appended as the ring frees, with KIND 8 for drops. (R368) -/
  | faultRecordAppend (part : Nat)
  /-- SWAP_OUT: SWAPOP 1 stops and saves a partition into its swap area. (R375) -/
  | swapOut (part : Nat)
  /-- SWAP_RESTORE: SWAPOP 2 restores a swapped partition and resumes its gangs. (R378) -/
  | swapRestore (part : Nat)
  /-- GROVES: A host write assigns groves to a partition. (R400) -/
  | groves (part : Nat) (v : Word)
  /-- FUNCTION_LEVEL_RESET: An FLR of a VF stops and ends every gang of its partition. (R400) -/
  | functionLevelReset (part : Nat)
  /-- HOST_UNIT_WRITE: A host write TLP through a unit window acts as a supervisor access. (R397) -/
  | hostUnitWrite (part : Option Nat) (offset : Nat) (data : List Byte)
  /-- MAILBOX_INTERRUPT: A release store to TAILVA raises the MSI-X vector once performed at the host. (R398) -/
  | mailboxInterrupt (k : Nat)
  /-- CHECKPOINT: Streams every stack's DRAM to a REGION 01 range. (R403) -/
  | checkpoint (part : Nat) (base : Word)
  /-- FIRMWARE_UPDATE: A signed image is verified and activated in the inactive bank. (R405) -/
  | firmwareUpdate (stack : Option Nat) (image : List Byte)
  /-- GROVE_REPLACE: A grove is retired to the spare through swap-out and restore. (R406) -/
  | groveReplace (grove : Nat) (spare : Nat)
  /-- ATTESTATION: Returns a signed report of firmware, heartwood and droop measurements. (R407) -/
  | attestation (nonce : List Byte)
  /-- COLD_RESET: Brings the device up through firmware, training and PCIe. (R402) -/
  | coldReset
  /-- WARM_RESET: Brings the device up after CRIT keeping the timebase. (R402) -/
  | warmReset
  /-- LOAD_IMAGE: The loader places data, descriptors, rows, core registers and code, then starts READY rows. (R395) -/
  | loadImage (image : Image)
  /-- FLIT: A flit arrives at a link end: its CRC and SEQ are checked, a bad or out-of-sequence flit is dropped and answered with a NAK, and its ACK and credits are taken. (R305) -/
  | flit (link : Nat) (bytes : List Byte)
  deriving DecidableEq, Repr

/-- The operand fields of an instruction word; none for a step of an agent. -/
def Instr.operands? : Instr → Option Operands
  | .nop o => some o
  | .hintGather o => some o
  | .hintFetch o => some o
  | .pbr o => some o
  | .pbrRegister o => some o
  | .br o => some o
  | .bCc o => some o
  | .biCc o => some o
  | .loop o => some o
  | .j o => some o
  | .call o => some o
  | .jr o => some o
  | .callr o => some o
  | .yield o => some o
  | .halt o => some o
  | .waitClasp o => some o
  | .waitAll o => some o
  | .waitAny o => some o
  | .waitUntil o => some o
  | .trap o => some o
  | .brk o => some o
  | .tret o => some o
  | .add o => some o
  | .sub o => some o
  | .and o => some o
  | .or o => some o
  | .xor o => some o
  | .andn o => some o
  | .shl o => some o
  | .shr o => some o
  | .sar o => some o
  | .rol o => some o
  | .mul o => some o
  | .mulh o => some o
  | .div o => some o
  | .rem o => some o
  | .min o => some o
  | .max o => some o
  | .cmpCc o => some o
  | .sel o => some o
  | .li o => some o
  | .lea o => some o
  | .bext o => some o
  | .bins o => some o
  | .clz o => some o
  | .ctz o => some o
  | .popc o => some o
  | .madd o => some o
  | .fadd o => some o
  | .fsub o => some o
  | .fmul o => some o
  | .ffma o => some o
  | .fdiv o => some o
  | .fsqrt o => some o
  | .fmin o => some o
  | .fmax o => some o
  | .fcmpCc o => some o
  | .fcvt o => some o
  | .fsgn o => some o
  | .fsgnN o => some o
  | .fsgnX o => some o
  | .fclass o => some o
  | .ld o => some o
  | .st o => some o
  | .lr o => some o
  | .sr o => some o
  | .ldm o => some o
  | .stm o => some o
  | .pf o => some o
  | .fence o => some o
  | .fenceLb o => some o
  | .lock o => some o
  | .unlock o => some o
  | .gresize o => some o
  | .wb o => some o
  | .inv o => some o
  | .amoAdd o => some o
  | .amoAnd o => some o
  | .amoOr o => some o
  | .amoXor o => some o
  | .amoMin o => some o
  | .amoMax o => some o
  | .amoMinn o => some o
  | .amoMaxn o => some o
  | .amoSwap o => some o
  | .acas o => some o
  | .famoAdd o => some o
  | .famoMin o => some o
  | .famoMax o => some o
  | .famoAdd2 o => some o
  | .clarm o => some o
  | .tagclr o => some o
  | .tagffr o => some o
  | .gbar o => some o
  | .gbarArrive o => some o
  | .gbarWait o => some o
  | .gset o => some o
  | .gsetClr o => some o
  | .kget o => some o
  | .kset o => some o
  | .send o => some o
  | .post o => some o
  | .sig o => some o
  | .launch o => some o
  | .respub o => some o
  | .resdrop o => some o
  | .resq o => some o
  | .radd o => some o
  | .rsub o => some o
  | .rmul o => some o
  | .rfma o => some o
  | .rmax o => some o
  | .rmin o => some o
  | .rabs o => some o
  | .rneg o => some o
  | .rscal o => some o
  | .rcmpCc o => some o
  | .rsel o => some o
  | .rsum o => some o
  | .rmaxr o => some o
  | .rdot o => some o
  | .rscan o => some o
  | .rcvt o => some o
  | .rqnt o => some o
  | .rdqnt o => some o
  | .rpack o => some o
  | .runpk o => some o
  | .rexp2 o => some o
  | .rlog2 o => some o
  | .rrcp o => some o
  | .rrsqrt o => some o
  | .rperm o => some o
  | .rbcast o => some o
  | .rmov o => some o
  | .rclr o => some o
  | .riota o => some o
  | .rbitAnd o => some o
  | .rbitOr o => some o
  | .rbitXor o => some o
  | .rbitAndn o => some o
  | .rbitNot o => some o
  | .rshShl o => some o
  | .rshShr o => some o
  | .rshSar o => some o
  | .rshRol o => some o
  | .rget o => some o
  | .rset o => some o
  | .gstop o => some o
  | .gstopP o => some o
  | .gresume o => some o
  | .gresumeP o => some o
  | .lease o => some o
  | .tlbinv o => some o
  | .dlharvest o => some o
  | .rowpool o => some o
  | .preq o => some o
  | .mcall o => some o
  | .longLatencyCompletion _ _ _ => none
  | .storeAcceptance _ => none
  | .trapEntry _ _ => none
  | .engineTrapDelivery _ _ => none
  | .activation _ => none
  | .rowClose _ _ => none
  | .quantumExpiry _ _ => none
  | .aging _ _ => none
  | .controlRequest _ => none
  | .outsideAccess _ => none
  | .claspArrival _ => none
  | .claspDeadline _ _ => none
  | .timeWake _ _ => none
  | .barrierRelease _ _ => none
  | .barrierReread _ _ => none
  | .revocationComplete _ _ => none
  | .matrixCommandStore _ => none
  | .wload _ => none
  | .mrun _ => none
  | .mrunTimedStart _ => none
  | .injection _ => none
  | .cRowWrite _ => none
  | .mzero _ => none
  | .msync _ => none
  | .mfill _ => none
  | .mnop _ => none
  | .resume _ => none
  | .flush _ => none
  | .slewStep _ => none
  | .head _ => none
  | .stop _ => none
  | .linear _ _ => none
  | .tensor _ _ => none
  | .gather _ _ => none
  | .scatter _ _ => none
  | .expand _ _ => none
  | .repl _ _ => none
  | .callRecordStore _ => none
  | .gemv _ => none
  | .gemvAccumulate _ => none
  | .gemvBatch _ => none
  | .axpy _ => none
  | .gatherRows _ => none
  | .expandEntry _ => none
  | .reduceMax _ => none
  | .callAbort _ => none
  | .broadcastWrite _ => none
  | .heartwoodSwap _ => none
  | .taskHeaderStore _ => none
  | .placement _ => none
  | .write _ => none
  | .read _ => none
  | .resp _ => none
  | .atomic _ => none
  | .count _ => none
  | .postMessage _ => none
  | .ringAppend _ _ => none
  | .ack _ => none
  | .nak _ => none
  | .linkRetrain _ => none
  | .beacon _ => none
  | .beaconSend _ => none
  | .timebaseStale => none
  | .routeWrite _ _ => none
  | .tparentWrite _ => none
  | .registerWrite _ => none
  | .telemetryFrame _ => none
  | .replay _ => none
  | .tctl _ => none
  | .commit _ => none
  | .telemetryStale => none
  | .shedDeadline _ => none
  | .operatingPointChange _ => none
  | .sensorRead _ _ => none
  | .idleEntry _ => none
  | .groveWake _ => none
  | .watchdogCheck _ _ => none
  | .watchdogExpiry _ _ => none
  | .dirtyLogMerge _ _ => none
  | .remapAdd _ _ => none
  | .faultRecordAppend _ => none
  | .swapOut _ => none
  | .swapRestore _ => none
  | .groves _ _ => none
  | .functionLevelReset _ => none
  | .hostUnitWrite _ _ _ => none
  | .mailboxInterrupt _ => none
  | .checkpoint _ _ => none
  | .firmwareUpdate _ _ => none
  | .groveReplace _ _ => none
  | .attestation _ => none
  | .coldReset => none
  | .warmReset => none
  | .loadImage _ => none
  | .flit _ _ => none

end Sys2Proof
end

