-- ==== Sys2Proof/Machine/Operands.lean ====
section
/-! DEFINITION. Every operand form of an instruction word: immediates (R30), the FN sub-maps (R37 to R45) as named
accessors of `Operands`, and the types of the row ALU (R44, R50). -/

namespace Sys2Proof

/-- Length of an instruction in 4-byte units (R26). -/
def Len.units : Len → Nat
  | .w64 => 2
  | .w96 => 3
  | .w128 => 4

/-- The LEN field (R26). -/
def Len.code : Len → BitVec 2
  | .w64 => 0
  | .w96 => 1
  | .w128 => 2

/-- `imm` of R30. -/
def Operands.imm (o : Operands) : Word :=
  match o.len with
  | .w64 => o.imm22.signExtend 64
  | .w96 => (o.ext.setWidth 32).signExtend 64
  | .w128 => o.ext

/-- `imm2` of R30. -/
def Operands.imm2 (o : Operands) : BitVec 22 :=
  match o.len with
  | .w64 => 0
  | .w96 => o.imm22
  | .w128 => o.imm22

/-- FN bits [lo + n − 1 : lo] as a number. -/
def Operands.fnAt (o : Operands) (lo n : Nat) : Nat := o.fn.toNat / 2 ^ lo % 2 ^ n

/-- IMM22 bits [lo + n − 1 : lo] as a number. -/
def Operands.immAt (o : Operands) (lo n : Nat) : Nat := o.imm22.toNat / 2 ^ lo % 2 ^ n

/-- Register numbers named by the fields D, A, B and C (R29, R32). -/
def Operands.rd (o : Operands) : Nat := o.d.toNat
def Operands.ra (o : Operands) : Nat := o.a.toNat
def Operands.rb (o : Operands) : Nat := o.b.toNat
def Operands.rc (o : Operands) : Nat := o.c.toNat

/-- FN[7]: the integer operand is `imm` (R37). -/
def Operands.useImm (o : Operands) : Bool := o.fnAt 7 1 == 1
/-- FN[6]: 32-bit operation (R37, R134, R144). -/
def Operands.is32 (o : Operands) : Bool := o.fnAt 6 1 == 1
/-- FN[0]: unsigned (R37), or sign-extend of `bext` (R143). -/
def Operands.fn0 (o : Operands) : Bool := o.fnAt 0 1 == 1
/-- FN[2:0]: condition code (R38), width (R40) or register count − 1 (R45). -/
def Operands.cc (o : Operands) : Nat := o.fnAt 0 3
/-- FN[7:5]: rounding mode (R39), or the condition or operation of R44. -/
def Operands.rm (o : Operands) : Nat := o.fnAt 5 3
/-- FN[3]: acquire, release, global form or count form (R40, R45). -/
def Operands.fn3 (o : Operands) : Bool := o.fnAt 3 1 == 1
/-- FN[4]: overflow mode of the row ALU (R44), 64-bit atomic (R42), acknowledgement of `send` (R45). -/
def Operands.fn4 (o : Operands) : Bool := o.fnAt 4 1 == 1
/-- FN[6:4]: scope of an acquire load or release store (R40). -/
def Operands.memScope (o : Operands) : Nat := o.fnAt 4 3
/-- Registers moved by `ldm`, `stm` and `send` (R45). -/
def Operands.count (o : Operands) : Nat := o.fnAt 0 3 + 1
/-- FN[6:5] of an atomic: 0 plain, 1 acquire, 2 release, 3 acquire-release (R42). -/
def Operands.order (o : Operands) : Nat := o.fnAt 5 2
/-- FN[7] of an atomic: row space (R42). -/
def Operands.rowSpace (o : Operands) : Bool := o.fnAt 7 1 == 1
/-- IMM22[2:0]: the scope of a fence or an atomic (R41, R42). -/
def Operands.immScope (o : Operands) : Nat := o.immAt 0 3

/-- Bytes of a width code of `ld` and `lr` (R40). -/
def loadSize (code : Nat) : Nat :=
  if code ≤ 1 then 1 else if code ≤ 3 then 2 else if code ≤ 5 then 4 else 8
/-- Sign-extending width codes of `ld` and `lr` (R40). -/
def loadSigned (code : Nat) : Bool := code == 0 || code == 2 || code == 4
/-- Bytes of a width code of `st` and `sr` (R40). -/
def storeSize (code : Nat) : Nat := 2 ^ code

/-- Address offset of a load, store or prefetch form: `imm` in every length (R40). -/
def Operands.offset (o : Operands) : Word := o.imm
/-- Address offset of an atomic, `send` or `sig`: none in the 64-bit form (R42, R315). -/
def Operands.extOffset (o : Operands) : Word :=
  match o.len with
  | .w64 => 0
  | .w96 => o.imm
  | .w128 => o.imm

/-- Lanes of a row by type code (R44, R50). -/
def lanesOf (t : Nat) : Nat :=
  if t = 0 then 64 else if t = 1 then 128 else if t = 2 then 256 else if t = 3 then 256
  else if t = 4 then 512 else if t = 5 then 256 else if t = 6 then 128 else 64
/-- Lane width in bits by type code (R44, R50). -/
def widthOf (t : Nat) : Nat := 2048 / lanesOf t
/-- Type codes 0 to 4 are floating (R44). -/
def isFloatType (t : Nat) : Bool := t < 5

/-- FN[3:0]: the type, or the destination type, of a row ALU form (R44). -/
def Operands.ty (o : Operands) : Nat := o.fnAt 0 4
/-- C[3:0]: the source type of a conversion (R44). -/
def Operands.srcTy (o : Operands) : Nat := o.c.toNat % 16
/-- The row offsets of the 96-bit row ALU form (R44). -/
def Operands.rowOff (o : Operands) (k : Nat) : Nat :=
  match o.len with
  | .w96 => o.ext.toNat / 2 ^ (8 * k) % 256
  | .w64 => 0
  | .w128 => 0
/-- The lane limit, IMM22 (R188). -/
def Operands.limit (o : Operands) : Nat := o.imm22.toNat
/-- L of R188: the lane limit, or n when it is 0. -/
def Operands.lanes (o : Operands) (n : Nat) : Nat := if o.limit = 0 then n else o.limit

end Sys2Proof
end

