-- ==== Sys2Proof/Machine/Forms.lean ====
section
/-! DEFINITION. The form of every instruction: its opcode (R35, R36), the lengths allowed, and the fields, FN values and
immediates it admits (R31 to R45 and the strips of the instruction chapters). `WellFormed` and the decoder use these. -/

namespace Sys2Proof

/-- Only the named fields may be non-zero (R31). -/
def onlyFields (d a b c : Bool) (o : Operands) : Bool :=
  (d || o.d == 0) && (a || o.a == 0) && (b || o.b == 0) && (c || o.c == 0)
/-- LAH is zero on a short instruction (R31). -/
def short (o : Operands) : Bool := o.lah == 0
/-- IMM22 is zero in a longer form of an instruction that reads no `imm2` (R30). -/
def plainImm (o : Operands) : Bool := o.len == .w64 || o.imm22 == 0
/-- IMM22 bits from `n` upward are zero. -/
def immHigh (o : Operands) (n : Nat) : Bool := o.imm22.toNat < 2 ^ n
/-- The registers from `d` on, `n` of them, hold none of w1 to w3 (R33). -/
def noReserved (d n : Nat) : Bool := !((d ≤ 1 && 1 < d + n) || (d ≤ 2 && 2 < d + n) || (d ≤ 3 && 3 < d + n))
/-- D is written, so it names none of w1 to w3 (R33). -/
def writesD (o : Operands) : Bool := noReserved o.rd 1
/-- FN of `b.cc` and `bi.cc` (R35, R38). -/
def branchFn (o : Operands) : Bool := o.cc < 6 && o.fnAt 3 3 == 0 && o.fnAt 7 1 == 0
/-- The immediate form reads no register B; the register form is 64 bits long with IMM22 zero (R37). -/
def immOrReg (o : Operands) : Bool :=
  if o.useImm then o.b == 0 && plainImm o else o.len == .w64 && o.imm22 == 0
/-- The integer sub-map (R37). -/
def integerForm (unsignedOk : Bool) (o : Operands) : Bool :=
  onlyFields true true true false o && writesD o && o.fnAt 1 5 == 0 && (unsignedOk || !o.fn0) && immOrReg o
/-- FN holds only the 32-bit bit (R35). -/
def only32 (o : Operands) : Bool := o.fnAt 0 6 == 0 && o.fnAt 7 1 == 0
/-- FN holds only a rounding mode 0 to 4 (R39, R145). -/
def floatFn (o : Operands) : Bool := o.fnAt 0 5 == 0 && o.rm < 5
/-- pos and len of `bext` and `bins` (R143). -/
def bitField (o : Operands) : Bool :=
  immHigh o 13 && 1 ≤ o.immAt 6 7 && o.immAt 0 6 + o.immAt 6 7 ≤ 64
/-- FN of `fcvt` (R43). -/
def convertFn (o : Operands) : Bool :=
  let k := o.fnAt 0 4
  !o.fn4 && k ≤ 9 && (if k == 4 || k == 5 || k == 9 then o.rm == 0 else o.rm < 5)
/-- FN[7:3] of `ld` and `st` (R40). -/
def orderFn (o : Operands) : Bool :=
  o.fnAt 7 1 == 0 && (if o.fn3 then o.memScope < 6 else o.memScope == 0)
/-- The atomic sub-map with operation `op` (R42). -/
def atomicForm (op : Nat) (o : Operands) : Bool :=
  o.fnAt 0 4 == op && immHigh o 3 && o.immScope < 6 && (o.order != 0 || o.immScope == 0)
/-- Fields of `send` (R45, R315). -/
def sendForm (o : Operands) : Bool :=
  o.fnAt 7 1 == 0 && immHigh o 18 && o.ra + o.count ≤ 32 &&
  (if o.fn3 then o.immAt 0 12 != 0 else o.c == 0 && o.immAt 0 12 == 0) &&
  (o.fn4 || o.immAt 12 6 == 0)
/-- FN of the common row ALU sub-map (R44). -/
def rowFn (o : Operands) : Bool := o.ty < 8 && o.rm < 5
/-- FN of the forms that carry only a type (R44). -/
def moveFn (o : Operands) : Bool := o.ty < 8 && o.fnAt 4 4 == 0
/-- FN of `rbit` and `rsh` with operation `op` (R44). -/
def bitsFn (op : Nat) (o : Operands) : Bool :=
  o.rm == op && !o.fn4 && (o.ty == 5 || o.ty == 6 || o.ty == 7)
/-- C holds a source type (R44, R187). -/
def srcType (o : Operands) : Bool := o.c.toNat < 8
/-- Types of `rqnt`: narrow type and wide type (R187). -/
def quantTypes (narrow wide : Nat) : Bool := 2 ≤ narrow && narrow ≤ 5 && wide ≤ 1
/-- Only fields that name rows carry an offset in the extension word (R186). -/
def rowOffs (d a b c : Bool) (o : Operands) : Bool :=
  (d || o.rowOff 0 == 0) && (a || o.rowOff 1 == 0) && (b || o.rowOff 2 == 0) && (c || o.rowOff 3 == 0)
/-- The lane limit lies within the lanes the form can write (R188). -/
def laneLimit (n : Nat) (o : Operands) : Bool := o.limit ≤ n

/-- The opcode of an instruction word (R35, R36); none for a step of an agent. -/
def Instr.opcode? : Instr → Option (BitVec 8)
  | .nop _ => some 0x01
  | .hintGather _ => some 0x02
  | .hintFetch _ => some 0x02
  | .pbr _ => some 0x03
  | .pbrRegister _ => some 0x03
  | .br _ => some 0x04
  | .bCc _ => some 0x05
  | .biCc _ => some 0x06
  | .loop _ => some 0x07
  | .j _ => some 0x08
  | .call _ => some 0x09
  | .jr _ => some 0x0A
  | .callr _ => some 0x0A
  | .yield _ => some 0x0B
  | .halt _ => some 0x0C
  | .waitClasp _ => some 0x0D
  | .waitAll _ => some 0x0D
  | .waitAny _ => some 0x0D
  | .waitUntil _ => some 0x0D
  | .trap _ => some 0x0E
  | .brk _ => some 0x0F
  | .tret _ => some 0x0F
  | .add _ => some 0x10
  | .sub _ => some 0x11
  | .and _ => some 0x12
  | .or _ => some 0x13
  | .xor _ => some 0x14
  | .andn _ => some 0x15
  | .shl _ => some 0x16
  | .shr _ => some 0x17
  | .sar _ => some 0x18
  | .rol _ => some 0x19
  | .mul _ => some 0x1A
  | .mulh _ => some 0x1B
  | .div _ => some 0x1C
  | .rem _ => some 0x1D
  | .min _ => some 0x1E
  | .max _ => some 0x1F
  | .cmpCc _ => some 0x20
  | .sel _ => some 0x21
  | .li _ => some 0x22
  | .lea _ => some 0x23
  | .bext _ => some 0x24
  | .bins _ => some 0x25
  | .clz _ => some 0x26
  | .ctz _ => some 0x27
  | .popc _ => some 0x28
  | .madd _ => some 0x29
  | .fadd _ => some 0x30
  | .fsub _ => some 0x31
  | .fmul _ => some 0x32
  | .ffma _ => some 0x33
  | .fdiv _ => some 0x34
  | .fsqrt _ => some 0x35
  | .fmin _ => some 0x36
  | .fmax _ => some 0x37
  | .fcmpCc _ => some 0x38
  | .fcvt _ => some 0x39
  | .fsgn _ => some 0x3A
  | .fsgnN _ => some 0x3A
  | .fsgnX _ => some 0x3A
  | .fclass _ => some 0x3B
  | .ld _ => some 0x40
  | .st _ => some 0x41
  | .lr _ => some 0x42
  | .sr _ => some 0x43
  | .ldm _ => some 0x44
  | .stm _ => some 0x45
  | .pf _ => some 0x46
  | .fence _ => some 0x47
  | .fenceLb _ => some 0x48
  | .lock _ => some 0x49
  | .unlock _ => some 0x4A
  | .gresize _ => some 0x4B
  | .wb _ => some 0x4C
  | .inv _ => some 0x4D
  | .amoAdd _ => some 0x50
  | .amoAnd _ => some 0x50
  | .amoOr _ => some 0x50
  | .amoXor _ => some 0x50
  | .amoMin _ => some 0x50
  | .amoMax _ => some 0x50
  | .amoMinn _ => some 0x50
  | .amoMaxn _ => some 0x50
  | .amoSwap _ => some 0x50
  | .acas _ => some 0x51
  | .famoAdd _ => some 0x52
  | .famoMin _ => some 0x52
  | .famoMax _ => some 0x52
  | .famoAdd2 _ => some 0x52
  | .clarm _ => some 0x60
  | .tagclr _ => some 0x61
  | .tagffr _ => some 0x62
  | .gbar _ => some 0x63
  | .gbarArrive _ => some 0x63
  | .gbarWait _ => some 0x63
  | .gset _ => some 0x64
  | .gsetClr _ => some 0x64
  | .kget _ => some 0x65
  | .kset _ => some 0x66
  | .send _ => some 0x70
  | .post _ => some 0x71
  | .sig _ => some 0x72
  | .launch _ => some 0x73
  | .respub _ => some 0x74
  | .resdrop _ => some 0x75
  | .resq _ => some 0x76
  | .radd _ => some 0x80
  | .rsub _ => some 0x81
  | .rmul _ => some 0x82
  | .rfma _ => some 0x83
  | .rmax _ => some 0x84
  | .rmin _ => some 0x85
  | .rabs _ => some 0x86
  | .rneg _ => some 0x87
  | .rscal _ => some 0x88
  | .rcmpCc _ => some 0x89
  | .rsel _ => some 0x8A
  | .rsum _ => some 0x8B
  | .rmaxr _ => some 0x8C
  | .rdot _ => some 0x8D
  | .rscan _ => some 0x8E
  | .rcvt _ => some 0x8F
  | .rqnt _ => some 0x90
  | .rdqnt _ => some 0x91
  | .rpack _ => some 0x92
  | .runpk _ => some 0x93
  | .rexp2 _ => some 0x94
  | .rlog2 _ => some 0x95
  | .rrcp _ => some 0x96
  | .rrsqrt _ => some 0x97
  | .rperm _ => some 0x98
  | .rbcast _ => some 0x99
  | .rmov _ => some 0x9A
  | .rclr _ => some 0x9B
  | .riota _ => some 0x9C
  | .rbitAnd _ => some 0x9D
  | .rbitOr _ => some 0x9D
  | .rbitXor _ => some 0x9D
  | .rbitAndn _ => some 0x9D
  | .rbitNot _ => some 0x9D
  | .rshShl _ => some 0x9E
  | .rshShr _ => some 0x9E
  | .rshSar _ => some 0x9E
  | .rshRol _ => some 0x9E
  | .rget _ => some 0x9F
  | .rset _ => some 0xA0
  | .gstop _ => some 0xC0
  | .gstopP _ => some 0xC0
  | .gresume _ => some 0xC1
  | .gresumeP _ => some 0xC1
  | .lease _ => some 0xC2
  | .tlbinv _ => some 0xC3
  | .dlharvest _ => some 0xC4
  | .rowpool _ => some 0xC5
  | .preq _ => some 0xC6
  | .mcall _ => some 0xC7
  | .longLatencyCompletion _ _ _ => none
  | .storeAcceptance _ => none
  | .trapEntry _ _ => none
  | .engineTrapDelivery _ _ => none
  | .activation _ => none
  | .rowClose _ _ => none
  | .quantumExpiry _ _ => none
  | .aging _ _ => none
  | .controlRequest _ => none
  | .outsideAccess _ => none
  | .claspArrival _ => none
  | .claspDeadline _ _ => none
  | .timeWake _ _ => none
  | .barrierRelease _ _ => none
  | .barrierReread _ _ => none
  | .revocationComplete _ _ => none
  | .matrixCommandStore _ => none
  | .wload _ => none
  | .mrun _ => none
  | .mrunTimedStart _ => none
  | .injection _ => none
  | .cRowWrite _ => none
  | .mzero _ => none
  | .msync _ => none
  | .mfill _ => none
  | .mnop _ => none
  | .resume _ => none
  | .flush _ => none
  | .slewStep _ => none
  | .head _ => none
  | .stop _ => none
  | .linear _ _ => none
  | .tensor _ _ => none
  | .gather _ _ => none
  | .scatter _ _ => none
  | .expand _ _ => none
  | .repl _ _ => none
  | .callRecordStore _ => none
  | .gemv _ => none
  | .gemvAccumulate _ => none
  | .gemvBatch _ => none
  | .axpy _ => none
  | .gatherRows _ => none
  | .expandEntry _ => none
  | .reduceMax _ => none
  | .callAbort _ => none
  | .broadcastWrite _ => none
  | .heartwoodSwap _ => none
  | .taskHeaderStore _ => none
  | .placement _ => none
  | .write _ => none
  | .read _ => none
  | .resp _ => none
  | .atomic _ => none
  | .count _ => none
  | .postMessage _ => none
  | .ringAppend _ _ => none
  | .ack _ => none
  | .nak _ => none
  | .linkRetrain _ => none
  | .beacon _ => none
  | .beaconSend _ => none
  | .timebaseStale => none
  | .routeWrite _ _ => none
  | .tparentWrite _ => none
  | .registerWrite _ => none
  | .telemetryFrame _ => none
  | .replay _ => none
  | .tctl _ => none
  | .commit _ => none
  | .telemetryStale => none
  | .shedDeadline _ => none
  | .operatingPointChange _ => none
  | .sensorRead _ _ => none
  | .idleEntry _ => none
  | .groveWake _ => none
  | .watchdogCheck _ _ => none
  | .watchdogExpiry _ _ => none
  | .dirtyLogMerge _ _ => none
  | .remapAdd _ _ => none
  | .faultRecordAppend _ => none
  | .swapOut _ => none
  | .swapRestore _ => none
  | .groves _ _ => none
  | .functionLevelReset _ => none
  | .hostUnitWrite _ _ _ => none
  | .mailboxInterrupt _ => none
  | .checkpoint _ _ => none
  | .firmwareUpdate _ _ => none
  | .groveReplace _ _ => none
  | .attestation _ => none
  | .coldReset => none
  | .warmReset => none
  | .loadImage _ => none
  | .flit _ _ => none

/-- The lengths an opcode allows (R35). -/
def lenAllowed (op : Nat) (l : Len) : Bool :=
  if op = 0x0D || op = 0x22 || op = 0x61 || op = 0x62 then true
  else if op = 0x03 || op = 0x06 || op = 0x08 || op = 0x09 || (0x10 ≤ op && op ≤ 0x20) || op = 0x23
    || (0x40 ≤ op && op ≤ 0x46) || op = 0x49 || op = 0x4A || (0x50 ≤ op && op ≤ 0x52)
    || (0x70 ≤ op && op ≤ 0x72) || (0x80 ≤ op && op ≤ 0xA0) || op = 0xC7 then l != .w128
  else l == .w64

/-- The field checks of an instruction word after its opcode, length and mode (R34); a step of an agent has none. -/
def Instr.formOk : Instr → Bool
  | .nop o => short o && onlyFields false false false false o && o.fn == 0 && o.imm22 == 0
  | .hintGather o => short o && onlyFields false false false false o && o.fn == 0 && immHigh o 8
  | .hintFetch o => short o && onlyFields false false false false o && o.fn == 1
  | .pbr o => short o && onlyFields false false false false o && o.fn == 0 && plainImm o
  | .pbrRegister o => short o && onlyFields false true false false o && o.fn == 1 && plainImm o
  | .br o => short o && onlyFields false false false false o && o.fn == 0 && o.imm22 == 0
  | .bCc o => short o && onlyFields false true true false o && branchFn o && o.imm22 == 0
  | .biCc o => short o && onlyFields false true false false o && branchFn o && plainImm o
  | .loop o => short o && onlyFields true false false false o && writesD o && o.fn == 0 && o.imm22 == 0
  | .j o => short o && onlyFields false false false false o && o.fn == 0 && plainImm o
  | .call o => short o && onlyFields true false false false o && writesD o && o.fn == 0 && plainImm o
  | .jr o => short o && onlyFields false true false false o && o.fn == 0
  | .callr o => short o && onlyFields true true false false o && writesD o && o.fn == 1
  | .yield o => short o && onlyFields false false false false o && o.fn == 0 && o.imm22 == 0
  | .halt o => short o && onlyFields false false false false o && o.fn == 0 && o.imm22 == 0
  | .waitClasp o => short o && onlyFields false false false false o && o.fn == 0 && o.imm22 == 0 && o.len == .w64
  | .waitAll o => short o && onlyFields false true false false o && o.fn == 1 && plainImm o
  | .waitAny o => short o && onlyFields false true false false o && o.fn == 2 && plainImm o
  | .waitUntil o => short o && onlyFields false true false false o && o.fn == 3 && plainImm o
  | .trap o => short o && onlyFields false false false false o && o.fn == 0 && immHigh o 8
  | .brk o => short o && onlyFields false false false false o && o.fn == 0 && o.imm22 == 0
  | .tret o => short o && onlyFields false true false false o && o.fn == 1 && o.imm22 == 0
  | .add o => short o && integerForm false o
  | .sub o => short o && integerForm false o
  | .and o => short o && integerForm false o
  | .or o => short o && integerForm false o
  | .xor o => short o && integerForm false o
  | .andn o => short o && integerForm false o
  | .shl o => short o && integerForm false o
  | .shr o => short o && integerForm false o
  | .sar o => short o && integerForm false o
  | .rol o => short o && integerForm false o
  | .mul o => short o && integerForm false o
  | .mulh o => short o && integerForm true o
  | .div o => integerForm true o
  | .rem o => integerForm true o
  | .min o => short o && integerForm true o
  | .max o => short o && integerForm true o
  | .cmpCc o => short o && onlyFields true true true false o && writesD o && o.cc < 6 && o.fnAt 3 3 == 0 && immOrReg o
  | .sel o => short o && onlyFields true true true true o && writesD o && o.fn == 0 && o.imm22 == 0
  | .li o => short o && onlyFields true false false false o && writesD o && o.fn == 0 && plainImm o
  | .lea o => short o && onlyFields true true true false o && writesD o && o.fnAt 2 6 == 0 && plainImm o
  | .bext o => short o && onlyFields true true false false o && writesD o && o.fnAt 1 7 == 0 && bitField o
  | .bins o => short o && onlyFields true true true false o && writesD o && o.fn == 0 && bitField o
  | .clz o => short o && onlyFields true true false false o && writesD o && only32 o && o.imm22 == 0
  | .ctz o => short o && onlyFields true true false false o && writesD o && only32 o && o.imm22 == 0
  | .popc o => short o && onlyFields true true false false o && writesD o && only32 o && o.imm22 == 0
  | .madd o => short o && onlyFields true true true true o && writesD o && only32 o && o.imm22 == 0
  | .fadd o => short o && onlyFields true true true false o && writesD o && floatFn o && o.imm22 == 0
  | .fsub o => short o && onlyFields true true true false o && writesD o && floatFn o && o.imm22 == 0
  | .fmul o => short o && onlyFields true true true false o && writesD o && floatFn o && o.imm22 == 0
  | .ffma o => short o && onlyFields true true true true o && writesD o && floatFn o && o.imm22 == 0
  | .fdiv o => onlyFields true true true false o && writesD o && floatFn o && o.imm22 == 0
  | .fsqrt o => onlyFields true true false false o && writesD o && floatFn o && o.imm22 == 0
  | .fmin o => short o && onlyFields true true true false o && writesD o && o.fn == 0 && o.imm22 == 0
  | .fmax o => short o && onlyFields true true true false o && writesD o && o.fn == 0 && o.imm22 == 0
  | .fcmpCc o => short o && onlyFields true true true false o && writesD o && o.fnAt 3 5 == 0 && o.imm22 == 0
  | .fcvt o => short o && onlyFields true true false false o && writesD o && convertFn o && o.imm22 == 0
  | .fsgn o => short o && onlyFields true true true false o && writesD o && o.fn == 0 && o.imm22 == 0
  | .fsgnN o => short o && onlyFields true true true false o && writesD o && o.fn == 1 && o.imm22 == 0
  | .fsgnX o => short o && onlyFields true true true false o && writesD o && o.fn == 2 && o.imm22 == 0
  | .fclass o => short o && onlyFields true true false false o && writesD o && o.fn == 0 && o.imm22 == 0
  | .ld o => onlyFields true true false false o && writesD o && o.cc < 7 && orderFn o && plainImm o
  | .st o => short o && onlyFields false true true false o && o.cc < 4 && orderFn o && plainImm o
  | .lr o => onlyFields true true false false o && writesD o && o.cc < 7 && o.fnAt 3 5 == 0 && plainImm o
  | .sr o => short o && onlyFields false true true false o && o.cc < 4 && o.fnAt 3 5 == 0 && plainImm o
  | .ldm o => onlyFields true true false false o && o.fnAt 4 4 == 0 && o.rd + o.count ≤ 32 && noReserved o.rd o.count && plainImm o
  | .stm o => short o && onlyFields true true false false o && o.fnAt 4 4 == 0 && o.rd + o.count ≤ 32 && plainImm o
  | .pf o => short o && onlyFields false true false false o && o.fnAt 1 7 == 0 && plainImm o
  | .fence o => short o && onlyFields false false false false o && o.fnAt 6 2 == 0 && o.fnAt 0 3 != 0 && o.fnAt 3 3 != 0 && immHigh o 3 && o.immScope < 6
  | .fenceLb o => short o && onlyFields false false false false o && o.fn == 0 && o.imm22 == 0
  | .lock o => onlyFields true true false false o && writesD o && o.fn == 0 && plainImm o
  | .unlock o => short o && onlyFields true true false false o && writesD o && o.fn == 0 && plainImm o
  | .gresize o => onlyFields true true false false o && writesD o && o.fn == 0 && o.imm22 == 0
  | .wb o => short o && onlyFields false true true false o && o.fnAt 3 5 == 0 && o.cc < 6 && o.imm22 == 0
  | .inv o => short o && onlyFields false true true false o && o.fnAt 3 5 == 0 && o.cc < 6 && o.imm22 == 0
  | .amoAdd o => onlyFields true true true false o && writesD o && atomicForm 0 o
  | .amoAnd o => onlyFields true true true false o && writesD o && atomicForm 1 o
  | .amoOr o => onlyFields true true true false o && writesD o && atomicForm 2 o
  | .amoXor o => onlyFields true true true false o && writesD o && atomicForm 3 o
  | .amoMin o => onlyFields true true true false o && writesD o && atomicForm 4 o
  | .amoMax o => onlyFields true true true false o && writesD o && atomicForm 5 o
  | .amoMinn o => onlyFields true true true false o && writesD o && atomicForm 6 o
  | .amoMaxn o => onlyFields true true true false o && writesD o && atomicForm 7 o
  | .amoSwap o => onlyFields true true true false o && writesD o && atomicForm 8 o
  | .acas o => onlyFields true true true true o && writesD o && atomicForm 0 o
  | .famoAdd o => onlyFields true true true false o && writesD o && atomicForm 0 o && !o.fn4
  | .famoMin o => onlyFields true true true false o && writesD o && atomicForm 1 o && !o.fn4
  | .famoMax o => onlyFields true true true false o && writesD o && atomicForm 2 o && !o.fn4
  | .famoAdd2 o => onlyFields true true true false o && writesD o && atomicForm 3 o && !o.fn4
  | .clarm o => short o && onlyFields false true false false o && o.fn == 0 && immHigh o 16
  | .tagclr o => short o && onlyFields false true false false o && o.fn == 0 && plainImm o
  | .tagffr o => short o && onlyFields true true false false o && writesD o && o.fn == 0 && plainImm o
  | .gbar o => short o && onlyFields false false false false o && o.fn == 0 && o.imm22 == 0
  | .gbarArrive o => short o && onlyFields false false false false o && o.fn == 1 && o.imm22 == 0
  | .gbarWait o => short o && onlyFields false false false false o && o.fn == 2 && o.imm22 == 0
  | .gset o => short o && onlyFields false true false false o && o.fn == 0 && immHigh o 4 && o.immAt 0 4 != 0
  | .gsetClr o => short o && onlyFields false false false false o && o.fn == 1 && immHigh o 4 && o.immAt 0 4 != 0
  | .kget o => short o && onlyFields true false false false o && writesD o && o.fn == 0 && immHigh o 10
  | .kset o => short o && onlyFields false true false false o && o.fn == 0 && immHigh o 10
  | .send o => short o && onlyFields false true true true o && sendForm o
  | .post o => short o && onlyFields false true true false o && o.fnAt 2 6 == 0 && o.ra ≤ 24 && plainImm o
  | .sig o => short o && onlyFields false false true false o && o.fnAt 2 6 == 0 && immHigh o 12 && o.immAt 0 12 != 0
  | .launch o => onlyFields true true false false o && writesD o && o.fn == 0
  | .respub o => short o && onlyFields false true true true o && o.fn == 0 && immHigh o 7
  | .resdrop o => short o && onlyFields false false false false o && o.fn == 0 && immHigh o 7
  | .resq o => onlyFields true true false false o && writesD o && o.fn == 0 && immHigh o 8
  | .radd o => onlyFields true true true false o && rowFn o && rowOffs true true true false o && laneLimit (lanesOf o.ty) o
  | .rsub o => onlyFields true true true false o && rowFn o && rowOffs true true true false o && laneLimit (lanesOf o.ty) o
  | .rmul o => onlyFields true true true false o && rowFn o && rowOffs true true true false o && laneLimit (lanesOf o.ty) o
  | .rfma o => onlyFields true true true true o && rowFn o && rowOffs true true true true o && laneLimit (lanesOf o.ty) o
  | .rmax o => onlyFields true true true false o && rowFn o && rowOffs true true true false o && laneLimit (lanesOf o.ty) o
  | .rmin o => onlyFields true true true false o && rowFn o && rowOffs true true true false o && laneLimit (lanesOf o.ty) o
  | .rabs o => onlyFields true true false false o && rowFn o && rowOffs true true false false o && laneLimit (lanesOf o.ty) o
  | .rneg o => onlyFields true true false false o && rowFn o && rowOffs true true false false o && laneLimit (lanesOf o.ty) o
  | .rscal o => onlyFields true true true true o && rowFn o && rowOffs true true false false o && laneLimit (lanesOf o.ty) o
  | .rcmpCc o => onlyFields true true true false o && o.rm < 6 && !o.fn4 && o.ty < 8 && rowOffs true true true false o && laneLimit (lanesOf o.ty) o
  | .rsel o => onlyFields true true true true o && moveFn o && rowOffs true true true true o && laneLimit (lanesOf o.ty) o
  | .rsum o => onlyFields true true false false o && rowFn o && rowOffs true true false false o && laneLimit (lanesOf o.ty) o
  | .rmaxr o => onlyFields true true false false o && rowFn o && rowOffs true true false false o && laneLimit (lanesOf o.ty) o
  | .rdot o => onlyFields true true true false o && rowFn o && rowOffs true true true false o && laneLimit (lanesOf o.ty) o
  | .rscan o => onlyFields true true false false o && rowFn o && rowOffs true true false false o && laneLimit (lanesOf o.ty) o
  | .rcvt o => onlyFields true true true true o && rowFn o && srcType o && rowOffs true true false false o && laneLimit (Nat.min (lanesOf o.ty) (lanesOf o.srcTy)) o
  | .rqnt o => onlyFields true true true true o && rowFn o && srcType o && quantTypes o.ty o.srcTy && rowOffs true true true false o && laneLimit (Nat.min (lanesOf o.ty) (lanesOf o.srcTy)) o && o.limit % 32 == 0
  | .rdqnt o => onlyFields true true true true o && rowFn o && srcType o && quantTypes o.srcTy o.ty && rowOffs true true true false o && laneLimit (Nat.min (lanesOf o.ty) (lanesOf o.srcTy)) o && o.limit % 32 == 0
  | .rpack o => onlyFields true true true true o && rowFn o && srcType o && lanesOf o.ty == 2 * lanesOf o.srcTy && rowOffs true true true false o && o.limit == 0
  | .runpk o => onlyFields true true false true o && rowFn o && srcType o && lanesOf o.srcTy == 2 * lanesOf o.ty && rowOffs true true false false o && o.limit == 0
  | .rexp2 o => onlyFields true true false false o && o.rm == 0 && o.ty == 1 && rowOffs true true false false o && laneLimit (lanesOf o.ty) o
  | .rlog2 o => onlyFields true true false false o && o.rm == 0 && o.ty == 1 && rowOffs true true false false o && laneLimit (lanesOf o.ty) o
  | .rrcp o => onlyFields true true false false o && o.rm == 0 && o.ty == 1 && rowOffs true true false false o && laneLimit (lanesOf o.ty) o
  | .rrsqrt o => onlyFields true true false false o && o.rm == 0 && o.ty == 1 && rowOffs true true false false o && laneLimit (lanesOf o.ty) o
  | .rperm o => onlyFields true true true false o && moveFn o && o.ty != 4 && rowOffs true true true false o && laneLimit (lanesOf o.ty) o
  | .rbcast o => onlyFields true true true false o && moveFn o && rowOffs true true false false o && laneLimit (lanesOf o.ty) o
  | .rmov o => onlyFields true true false false o && moveFn o && rowOffs true true false false o && laneLimit (lanesOf o.ty) o
  | .rclr o => onlyFields true false false false o && moveFn o && rowOffs true false false false o && laneLimit (lanesOf o.ty) o
  | .riota o => onlyFields true true false false o && rowFn o && rowOffs true false false false o && laneLimit (lanesOf o.ty) o
  | .rbitAnd o => onlyFields true true true false o && bitsFn 0 o && rowOffs true true true false o && laneLimit (lanesOf o.ty) o
  | .rbitOr o => onlyFields true true true false o && bitsFn 1 o && rowOffs true true true false o && laneLimit (lanesOf o.ty) o
  | .rbitXor o => onlyFields true true true false o && bitsFn 2 o && rowOffs true true true false o && laneLimit (lanesOf o.ty) o
  | .rbitAndn o => onlyFields true true true false o && bitsFn 3 o && rowOffs true true true false o && laneLimit (lanesOf o.ty) o
  | .rbitNot o => onlyFields true true false false o && bitsFn 4 o && rowOffs true true false false o && laneLimit (lanesOf o.ty) o
  | .rshShl o => onlyFields true true true false o && bitsFn 0 o && rowOffs true true false false o && laneLimit (lanesOf o.ty) o
  | .rshShr o => onlyFields true true true false o && bitsFn 1 o && rowOffs true true false false o && laneLimit (lanesOf o.ty) o
  | .rshSar o => onlyFields true true true false o && bitsFn 2 o && rowOffs true true false false o && laneLimit (lanesOf o.ty) o
  | .rshRol o => onlyFields true true true false o && bitsFn 3 o && rowOffs true true false false o && laneLimit (lanesOf o.ty) o
  | .rget o => onlyFields true true true false o && writesD o && moveFn o && rowOffs false true false false o && o.limit == 0
  | .rset o => onlyFields true true true false o && moveFn o && rowOffs true false false false o && o.limit == 0
  | .gstop o => short o && onlyFields true true false false o && writesD o && o.fn == 0 && o.imm22 == 0
  | .gstopP o => short o && onlyFields true false false false o && writesD o && o.fn == 1 && o.imm22 == 0
  | .gresume o => short o && onlyFields true true false false o && writesD o && o.fn == 0 && o.imm22 == 0
  | .gresumeP o => short o && onlyFields true false false false o && writesD o && o.fn == 1 && o.imm22 == 0
  | .lease o => short o && onlyFields true true true false o && writesD o && o.fn == 0 && o.imm22 == 0
  | .tlbinv o => short o && onlyFields true true true false o && writesD o && o.fn == 0 && o.imm22 == 0
  | .dlharvest o => short o && onlyFields true false false false o && writesD o && o.fn == 0 && o.imm22 == 0
  | .rowpool o => short o && onlyFields true true true false o && writesD o && o.fn == 0 && o.imm22 == 0
  | .preq o => short o && onlyFields true true false false o && writesD o && o.fn == 0 && o.imm22 == 0
  | .mcall o => short o && onlyFields true true false false o && writesD o && o.fn == 0 && immHigh o 8
  | .longLatencyCompletion _ _ _ => true
  | .storeAcceptance _ => true
  | .trapEntry _ _ => true
  | .engineTrapDelivery _ _ => true
  | .activation _ => true
  | .rowClose _ _ => true
  | .quantumExpiry _ _ => true
  | .aging _ _ => true
  | .controlRequest _ => true
  | .outsideAccess _ => true
  | .claspArrival _ => true
  | .claspDeadline _ _ => true
  | .timeWake _ _ => true
  | .barrierRelease _ _ => true
  | .barrierReread _ _ => true
  | .revocationComplete _ _ => true
  | .matrixCommandStore _ => true
  | .wload _ => true
  | .mrun _ => true
  | .mrunTimedStart _ => true
  | .injection _ => true
  | .cRowWrite _ => true
  | .mzero _ => true
  | .msync _ => true
  | .mfill _ => true
  | .mnop _ => true
  | .resume _ => true
  | .flush _ => true
  | .slewStep _ => true
  | .head _ => true
  | .stop _ => true
  | .linear _ _ => true
  | .tensor _ _ => true
  | .gather _ _ => true
  | .scatter _ _ => true
  | .expand _ _ => true
  | .repl _ _ => true
  | .callRecordStore _ => true
  | .gemv _ => true
  | .gemvAccumulate _ => true
  | .gemvBatch _ => true
  | .axpy _ => true
  | .gatherRows _ => true
  | .expandEntry _ => true
  | .reduceMax _ => true
  | .callAbort _ => true
  | .broadcastWrite _ => true
  | .heartwoodSwap _ => true
  | .taskHeaderStore _ => true
  | .placement _ => true
  | .write _ => true
  | .read _ => true
  | .resp _ => true
  | .atomic _ => true
  | .count _ => true
  | .postMessage _ => true
  | .ringAppend _ _ => true
  | .ack _ => true
  | .nak _ => true
  | .linkRetrain _ => true
  | .beacon _ => true
  | .beaconSend _ => true
  | .timebaseStale => true
  | .routeWrite _ _ => true
  | .tparentWrite _ => true
  | .registerWrite _ => true
  | .telemetryFrame _ => true
  | .replay _ => true
  | .tctl _ => true
  | .commit _ => true
  | .telemetryStale => true
  | .shedDeadline _ => true
  | .operatingPointChange _ => true
  | .sensorRead _ _ => true
  | .idleEntry _ => true
  | .groveWake _ => true
  | .watchdogCheck _ _ => true
  | .watchdogExpiry _ _ => true
  | .dirtyLogMerge _ _ => true
  | .remapAdd _ _ => true
  | .faultRecordAppend _ => true
  | .swapOut _ => true
  | .swapRestore _ => true
  | .groves _ _ => true
  | .functionLevelReset _ => true
  | .hostUnitWrite _ _ _ => true
  | .mailboxInterrupt _ => true
  | .checkpoint _ _ => true
  | .firmwareUpdate _ _ => true
  | .groveReplace _ _ => true
  | .attestation _ => true
  | .coldReset => true
  | .warmReset => true
  | .loadImage _ => true
  | .flit _ _ => true

end Sys2Proof
end

