-- ==== Sys2Proof/WellFormed.lean ====
section
/-! DEFINITION. Well-formed instructions: an instruction word's fields are those its form admits (R31 to R45), and a step
of an agent names a core, grove, stack, link or partition of the package (R10). -/

namespace Sys2Proof

/-- The extension holds only the bits its length gives it (R30). -/
def Operands.extOk (o : Operands) : Bool :=
  match o.len with
  | .w64 => o.ext == 0
  | .w96 => o.ext.toNat < 2 ^ 32
  | .w128 => true

/-- The units a step of an agent names exist (R10, R235, R303, R396). -/
def Instr.unitsOk : Instr → Bool
  | .longLatencyCompletion c r _ | .trapEntry c r | .engineTrapDelivery c r | .rowClose c r | .quantumExpiry c r
  | .claspDeadline c r | .timeWake c r => c < numCores && r < 4096
  | .activation c | .aging c _ | .wload c | .mrun c | .mrunTimedStart c | .injection c | .cRowWrite c | .mzero c
  | .msync c | .mfill c | .mnop c | .resume c | .flush c | .dirtyLogMerge c _ => c < numCores
  | .linear c ch | .tensor c ch | .gather c ch | .scatter c ch | .expand c ch | .repl c ch | .ringAppend c ch =>
    c < numCores && ch < 4
  | .slewStep g | .operatingPointChange g | .idleEntry g | .groveWake g | .groveReplace g _ => g < numGroves
  | .gemv s | .gemvAccumulate s | .gemvBatch s | .axpy s | .gatherRows s | .expandEntry s | .reduceMax s
  | .callAbort s | .heartwoodSwap s | .remapAdd s _ => s < numStacks
  | .nak l | .linkRetrain l | .beacon l | .beaconSend l | .flit l _ => l < numLinks
  | .barrierRelease p g | .barrierReread p g | .revocationComplete p g | .watchdogCheck p g | .watchdogExpiry p g =>
    p < numParts && g < 4096
  | .placement p | .faultRecordAppend p | .swapOut p | .swapRestore p | .groves p _ | .functionLevelReset p
  | .checkpoint p _ => p < numParts
  | .sensorRead n _ => n < 96
  | .shedDeadline k => k < 8
  | .routeWrite n _ => n < 0x3FF
  | .hostUnitWrite (some p) _ _ => p < numParts
  | .firmwareUpdate (some s) _ => s < numStacks
  | .loadImage im => im.part < numParts && im.codeBase.toNat % 4096 == 0 && im.codeBase.toNat < 2 ^ 57
  | _ => true

/-- An instruction the machine may meet: its opcode allows its length, and its fields pass the decode checks. -/
def Instr.wellFormed (i : Instr) : Bool :=
  match i.opcode?, i.operands? with
  | some op, some o => o.extOk && lenAllowed op.toNat o.len && i.formOk
  | _, _ => i.unitsOk

/-- Well-formedness as a proposition. -/
abbrev WellFormed (i : Instr) : Prop := i.wellFormed = true

end Sys2Proof
end

