-- ==== Sys2Proof/Decode.lean ====
section
/-! DEFINITION. The decoder (R26 to R45), total on any bytes and rejecting by name, and after it the encoder. -/

namespace Sys2Proof

/-- Why the decoder refuses a word, in the order of R34. -/
inductive Reject where
  /-- The instruction crosses a 32-byte boundary: LEN (R27). -/
  | crossesBlock
  /-- LEN 11 with a non-zero bit above it: ILL (R28). -/
  | badPad
  /-- OP is not in the opcode map: ILL (R35). -/
  | undefinedOpcode
  /-- The opcode does not allow the length: ILL (R31). -/
  | badLength
  /-- OP 0xC0 to 0xC7 in user mode: PRIV (R34). -/
  | privileged
  /-- An unused field is non-zero, an FN value is reserved, LAH on a short instruction, or w1 to w3 as a destination: ILL (R31, R33). -/
  | malformed
  /-- Fewer bytes than the word needs; a fetch never ends so. -/
  | tooShort
  deriving DecidableEq, Repr

/-- What a decoder finds at a PC. -/
inductive Decoded where
  /-- A legal pad word (R28). -/
  | pad
  /-- An instruction. -/
  | instr (i : Instr)
  deriving DecidableEq, Repr

/-- The instruction that OP and FN select, with its fields unchecked; none where the sub-map defines none (R35, R36). -/
def build (op fn : Nat) (o : Operands) : Option Instr :=
  match op with
  | 0x01 => some (.nop o)
  | 0x02 =>
    match fn with
    | 0 => some (.hintGather o)
    | 1 => some (.hintFetch o)
    | _ => none
  | 0x03 =>
    match fn with
    | 0 => some (.pbr o)
    | 1 => some (.pbrRegister o)
    | _ => none
  | 0x04 => some (.br o)
  | 0x05 => some (.bCc o)
  | 0x06 => some (.biCc o)
  | 0x07 => some (.loop o)
  | 0x08 => some (.j o)
  | 0x09 => some (.call o)
  | 0x0A =>
    match fn with
    | 0 => some (.jr o)
    | 1 => some (.callr o)
    | _ => none
  | 0x0B => some (.yield o)
  | 0x0C => some (.halt o)
  | 0x0D =>
    match fn with
    | 0 => some (.waitClasp o)
    | 1 => some (.waitAll o)
    | 2 => some (.waitAny o)
    | 3 => some (.waitUntil o)
    | _ => none
  | 0x0E => some (.trap o)
  | 0x0F =>
    match fn with
    | 0 => some (.brk o)
    | 1 => some (.tret o)
    | _ => none
  | 0x10 => some (.add o)
  | 0x11 => some (.sub o)
  | 0x12 => some (.and o)
  | 0x13 => some (.or o)
  | 0x14 => some (.xor o)
  | 0x15 => some (.andn o)
  | 0x16 => some (.shl o)
  | 0x17 => some (.shr o)
  | 0x18 => some (.sar o)
  | 0x19 => some (.rol o)
  | 0x1A => some (.mul o)
  | 0x1B => some (.mulh o)
  | 0x1C => some (.div o)
  | 0x1D => some (.rem o)
  | 0x1E => some (.min o)
  | 0x1F => some (.max o)
  | 0x20 => some (.cmpCc o)
  | 0x21 => some (.sel o)
  | 0x22 => some (.li o)
  | 0x23 => some (.lea o)
  | 0x24 => some (.bext o)
  | 0x25 => some (.bins o)
  | 0x26 => some (.clz o)
  | 0x27 => some (.ctz o)
  | 0x28 => some (.popc o)
  | 0x29 => some (.madd o)
  | 0x30 => some (.fadd o)
  | 0x31 => some (.fsub o)
  | 0x32 => some (.fmul o)
  | 0x33 => some (.ffma o)
  | 0x34 => some (.fdiv o)
  | 0x35 => some (.fsqrt o)
  | 0x36 => some (.fmin o)
  | 0x37 => some (.fmax o)
  | 0x38 => some (.fcmpCc o)
  | 0x39 => some (.fcvt o)
  | 0x3A =>
    match fn with
    | 0 => some (.fsgn o)
    | 1 => some (.fsgnN o)
    | 2 => some (.fsgnX o)
    | _ => none
  | 0x3B => some (.fclass o)
  | 0x40 => some (.ld o)
  | 0x41 => some (.st o)
  | 0x42 => some (.lr o)
  | 0x43 => some (.sr o)
  | 0x44 => some (.ldm o)
  | 0x45 => some (.stm o)
  | 0x46 => some (.pf o)
  | 0x47 => some (.fence o)
  | 0x48 => some (.fenceLb o)
  | 0x49 => some (.lock o)
  | 0x4A => some (.unlock o)
  | 0x4B => some (.gresize o)
  | 0x4C => some (.wb o)
  | 0x4D => some (.inv o)
  | 0x50 =>
    match fn % 16 with
    | 0 => some (.amoAdd o)
    | 1 => some (.amoAnd o)
    | 2 => some (.amoOr o)
    | 3 => some (.amoXor o)
    | 4 => some (.amoMin o)
    | 5 => some (.amoMax o)
    | 6 => some (.amoMinn o)
    | 7 => some (.amoMaxn o)
    | 8 => some (.amoSwap o)
    | _ => none
  | 0x51 => some (.acas o)
  | 0x52 =>
    match fn % 16 with
    | 0 => some (.famoAdd o)
    | 1 => some (.famoMin o)
    | 2 => some (.famoMax o)
    | 3 => some (.famoAdd2 o)
    | _ => none
  | 0x60 => some (.clarm o)
  | 0x61 => some (.tagclr o)
  | 0x62 => some (.tagffr o)
  | 0x63 =>
    match fn with
    | 0 => some (.gbar o)
    | 1 => some (.gbarArrive o)
    | 2 => some (.gbarWait o)
    | _ => none
  | 0x64 =>
    match fn with
    | 0 => some (.gset o)
    | 1 => some (.gsetClr o)
    | _ => none
  | 0x65 => some (.kget o)
  | 0x66 => some (.kset o)
  | 0x70 => some (.send o)
  | 0x71 => some (.post o)
  | 0x72 => some (.sig o)
  | 0x73 => some (.launch o)
  | 0x74 => some (.respub o)
  | 0x75 => some (.resdrop o)
  | 0x76 => some (.resq o)
  | 0x80 => some (.radd o)
  | 0x81 => some (.rsub o)
  | 0x82 => some (.rmul o)
  | 0x83 => some (.rfma o)
  | 0x84 => some (.rmax o)
  | 0x85 => some (.rmin o)
  | 0x86 => some (.rabs o)
  | 0x87 => some (.rneg o)
  | 0x88 => some (.rscal o)
  | 0x89 => some (.rcmpCc o)
  | 0x8A => some (.rsel o)
  | 0x8B => some (.rsum o)
  | 0x8C => some (.rmaxr o)
  | 0x8D => some (.rdot o)
  | 0x8E => some (.rscan o)
  | 0x8F => some (.rcvt o)
  | 0x90 => some (.rqnt o)
  | 0x91 => some (.rdqnt o)
  | 0x92 => some (.rpack o)
  | 0x93 => some (.runpk o)
  | 0x94 => some (.rexp2 o)
  | 0x95 => some (.rlog2 o)
  | 0x96 => some (.rrcp o)
  | 0x97 => some (.rrsqrt o)
  | 0x98 => some (.rperm o)
  | 0x99 => some (.rbcast o)
  | 0x9A => some (.rmov o)
  | 0x9B => some (.rclr o)
  | 0x9C => some (.riota o)
  | 0x9D =>
    match fn / 32 with
    | 0 => some (.rbitAnd o)
    | 1 => some (.rbitOr o)
    | 2 => some (.rbitXor o)
    | 3 => some (.rbitAndn o)
    | 4 => some (.rbitNot o)
    | _ => none
  | 0x9E =>
    match fn / 32 with
    | 0 => some (.rshShl o)
    | 1 => some (.rshShr o)
    | 2 => some (.rshSar o)
    | 3 => some (.rshRol o)
    | _ => none
  | 0x9F => some (.rget o)
  | 0xA0 => some (.rset o)
  | 0xC0 =>
    match fn with
    | 0 => some (.gstop o)
    | 1 => some (.gstopP o)
    | _ => none
  | 0xC1 =>
    match fn with
    | 0 => some (.gresume o)
    | 1 => some (.gresumeP o)
    | _ => none
  | 0xC2 => some (.lease o)
  | 0xC3 => some (.tlbinv o)
  | 0xC4 => some (.dlharvest o)
  | 0xC5 => some (.rowpool o)
  | 0xC6 => some (.preq o)
  | 0xC7 => some (.mcall o)
  | _ => none

/-- The opcode is in the opcode map (R35). -/
def opDefined (op : Nat) : Bool :=
  (0x01 ≤ op && op ≤ 0x29) || (0x30 ≤ op && op ≤ 0x3B) || (0x40 ≤ op && op ≤ 0x4D) || (0x50 ≤ op && op ≤ 0x52)
    || (0x60 ≤ op && op ≤ 0x66) || (0x70 ≤ op && op ≤ 0x76) || (0x80 ≤ op && op ≤ 0xA0) || (0xC0 ≤ op && op ≤ 0xC7)

/-- LEN of a first word (R26); none for a pad. -/
def lenOf (first : Word) : Option Len :=
  match (first.extractLsb' 0 2).toNat with
  | 0 => some .w64
  | 1 => some .w96
  | 2 => some .w128
  | _ => none

/-- The extension word as a form of this length reads it (R30). -/
def extOf (l : Len) (ext : Word) : Word :=
  match l with
  | .w64 => 0
  | .w96 => (ext.setWidth 32).setWidth 64
  | .w128 => ext

/-- The fields of a first word (R29). -/
def fieldsOf (l : Len) (first ext : Word) : Operands :=
  { len := l, lah := first.extractLsb' 10 4, d := first.extractLsb' 14 5, a := first.extractLsb' 19 5,
    b := first.extractLsb' 24 5, c := first.extractLsb' 29 5, fn := first.extractLsb' 34 8,
    imm22 := first.extractLsb' 42 22, ext := extOf l ext }

/-- The checks of R34 after the fetch checks, on the first word and the extension; `user` is MODE 0. -/
def decodeWord (user : Bool) (first ext : Word) : Except Reject Instr :=
  match lenOf first with
  | none => .error .badPad
  | some l =>
    let op := (first.extractLsb' 2 8).toNat
    if !opDefined op then .error .undefinedOpcode
    else if !lenAllowed op l then .error .badLength
    else if user && 0xC0 ≤ op && op ≤ 0xC7 then .error .privileged
    else
      let o := fieldsOf l first ext
      match build op o.fn.toNat o with
      | none => .error .malformed
      | some i => if i.formOk then .ok i else .error .malformed

/-- Little-endian value of bytes (R2). -/
def leNat : List Byte → Nat
  | [] => 0
  | b :: bs => b.toNat + 256 * leNat bs

/-- The little-endian bytes of a value, `n` of them (R2). -/
def leBytes : Nat → Nat → List Byte
  | 0, _ => []
  | n + 1, v => BitVec.ofNat 8 v :: leBytes n (v / 256)

/-- Bytes an instruction of this LEN takes (R26). -/
def Len.bytes (l : Len) : Nat := 4 * l.units

/-- The decoder on the bytes at a PC whose offset in its 32-byte block is `off` (R26 to R34). -/
def decodeBytes (user : Bool) (off : Nat) (bs : List Byte) : Except Reject Decoded :=
  if bs.length < 4 then .error .tooShort
  else
    let unit := leNat (bs.take 4)
    match lenOf (BitVec.ofNat 64 unit) with
    | none => if unit = 3 then .ok .pad else .error .badPad
    | some l =>
      if 32 < off + l.bytes then .error .crossesBlock
      else if bs.length < l.bytes then .error .tooShort
      else
        match decodeWord user (BitVec.ofNat 64 (leNat (bs.take 8))) (BitVec.ofNat 64 (leNat ((bs.drop 8).take 8))) with
        | .error r => .error r
        | .ok i => .ok (.instr i)

/-- The first word of an instruction with opcode `op` (R29). -/
def encodeFirst (op : BitVec 8) (o : Operands) : Word :=
  (o.imm22 ++ o.fn ++ o.c ++ o.b ++ o.a ++ o.d ++ o.lah ++ op ++ o.len.code).setWidth 64

/-- The words of an instruction: the first word and the extension, zero where the form has none (R29, R30). None for a
step of an agent, which has no encoding. -/
def encode (i : Instr) : Option (Word × Word) :=
  match i.opcode?, i.operands? with
  | some op, some o => some (encodeFirst op o, o.ext)
  | _, _ => none

/-- The bytes of an instruction as they lie in memory (R26). -/
def encodeBytes (i : Instr) : List Byte :=
  match encode i, i.operands? with
  | some (f, e), some o => leBytes 8 f.toNat ++ leBytes (o.len.bytes - 8) e.toNat
  | _, _ => []

/-- The instruction that the decoder reads, in supervisor mode at the start of a block, from an instruction whose bits
are `w`, numbered as the opcode table numbers them; every bit from `nbits` upward is zero. -/
def decodeTableWord (nbits w : Nat) : Option Instr :=
  match decodeBytes false 0 (leBytes 16 (w % 2 ^ nbits)) with
  | .ok (.instr i) => some i
  | .ok .pad => none
  | .error _ => none

end Sys2Proof
end

