-- ==== Sys2Proof/Machine/Bits.lean ====
section
/-! DEFINITION. Bit fields of words, sign extension, and lists of words in memory order (R2, R5). -/

namespace Sys2Proof.Machine

/-- Bits [lo + n − 1 : lo] of a word as a number. -/
def bitsAt (w : Word) (lo n : Nat) : Nat := w.toNat / 2 ^ lo % 2 ^ n

/-- Bit i of a word. -/
def bitAt (w : Word) (i : Nat) : Bool := bitsAt w i 1 == 1

/-- `w` with bits [lo + n − 1 : lo] replaced by the low n bits of v. -/
def putBits (w : Word) (lo n v : Nat) : Word :=
  BitVec.ofNat 64 (w.toNat % 2 ^ lo + v % 2 ^ n * 2 ^ lo + w.toNat / 2 ^ (lo + n) * 2 ^ (lo + n))

/-- `w` with bit i replaced. -/
def putBit (w : Word) (i : Nat) (b : Bool) : Word := putBits w i 1 b.toNat

/-- Word k of a record, zero past its end. -/
def wordAt (ws : List Word) (k : Nat) : Word := ws.getD k 0

/-- A number as a word. -/
def word (n : Nat) : Word := BitVec.ofNat 64 n

/-- `Sext(x, n)` of R5 on the low n bits of a number, n at least 1. -/
def sextNat (n x : Nat) : Word :=
  if x % 2 ^ n < 2 ^ (n - 1) then word (x % 2 ^ n) else word (2 ^ 64 - 2 ^ n + x % 2 ^ n)

/-- The low n bits of a number read as signed (R140). -/
def signedNat (n x : Nat) : Int :=
  if x % 2 ^ n < 2 ^ (n - 1) then Int.ofNat (x % 2 ^ n) else Int.ofNat (x % 2 ^ n) - Int.ofNat (2 ^ n)

/-- An integer modulo 2^n. -/
def wrapInt (n : Nat) (v : Int) : Nat := (v % Int.ofNat (2 ^ n)).toNat

/-- Divides a list into words of eight bytes (R2). -/
def wordsOf : List Byte → List Word
  | b0 :: b1 :: b2 :: b3 :: b4 :: b5 :: b6 :: b7 :: rest =>
    word (b0.toNat + 256 * (b1.toNat + 256 * (b2.toNat + 256 * (b3.toNat + 256 * (b4.toNat + 256 * (b5.toNat
      + 256 * (b6.toNat + 256 * b7.toNat))))))) :: wordsOf rest
  | _ => []

/-- The bytes of a value, little-endian, n of them (R2). -/
def bytesOfNat : Nat → Nat → List Byte
  | 0, _ => []
  | n + 1, v => BitVec.ofNat 8 v :: bytesOfNat n (v / 256)

/-- Little-endian value of bytes (R2). -/
def natOfBytes : List Byte → Nat
  | [] => 0
  | b :: bs => b.toNat + 256 * natOfBytes bs

/-- The bytes of words in order (R2). -/
def bytesOfWords : List Word → List Byte
  | [] => []
  | w :: ws => bytesOfNat 8 w.toNat ++ bytesOfWords ws

/-- The numbers 0 to n − 1. -/
def upto (n : Nat) : List Nat := List.range n

/-- Replaces element k of a list. -/
def setNth {α : Type} (l : List α) (k : Nat) (x : α) : List α := l.set k x

/-- Removes element k of a list. -/
def dropNth {α : Type} (l : List α) (k : Nat) : List α := l.eraseIdx k

/-- One bit of the CRC-32 of IEEE 802.3, least significant bit first (R304, R334). -/
def crcBit (c : Nat) : Nat := if c % 2 = 1 then (c / 2) ^^^ 0xEDB88320 else c / 2

/-- One byte of the CRC-32. -/
def crcByte (c : Nat) (b : Byte) : Nat := (upto 8).foldl (fun x _ => crcBit x) (c ^^^ b.toNat)

/-- The CRC-32 of IEEE 802.3 over bytes. -/
def crc32 (bs : List Byte) : Nat := (bs.foldl crcByte 0xFFFFFFFF) ^^^ 0xFFFFFFFF

end Sys2Proof.Machine
end

