-- ==== Sys2Proof/Config.lean ====
section
/-! DEFINITION. What the specification leaves open and no step can be asked for: free values. None of these constants has
a body, so nothing in Lean can evaluate one or prove a value of it (assumption log 3, 9 to 12). -/

namespace Sys2Proof

/-- FREE VALUE (log 3). What a scratch byte holds before it is written: R81 says the contents are undefined. The argument
is the byte's key. -/
opaque Config.freeByte : Nat → BitVec 8

/-- FREE VALUE (log 9). Which cache way a newly pinned line takes: R81 and R160 name none. The argument is State.draws. -/
opaque Config.lockWay : Nat → Nat

/-- FREE VALUE (log 10). The energy that a grove, or the package at 64, uses while time passes (R353). The arguments are State.draws
and the counter. -/
opaque Config.energy : Nat → Nat → BitVec 64

/-- FREE VALUE (log 10). A measured power in mW (R340): the argument is State.draws, then which register. -/
opaque Config.measured : Nat → Nat → BitVec 24

/-- FREE VALUE (log 11). The SHA-512 digest of R405 and R407, a function of the bytes. -/
opaque Config.sha512 : List Byte → BitVec 512

/-- FREE VALUE (log 11). The Ed25519 signature made with the device identity key (R407), a function of the bytes. -/
opaque Config.sign : List Byte → BitVec 512

/-- FREE VALUE (log 11). Whether an Ed25519 signature over a digest verifies against the vendor key (R405). -/
opaque Config.verify : BitVec 512 → BitVec 512 → Bool

/-- FREE VALUE (log 11). The stored minimum VERSION of firmware and heartwood images (R405), by KIND. -/
opaque Config.minVersion : Nat → Nat

/-- FREE VALUE (log 29). What MSTATUS shows of WFMT, KSEL and SPARSE once a WLOAD has failed after clearing WVALID, or a
restore was rejected: R217 says only how long the latched values stay. The argument is State.draws. -/
opaque Config.lostSet : Nat → Nat

/-- FREE VALUE (log 21). A condition of a bank engine that R285 names and does not define: whether the burst has ended, the compare flag,
whether a bound check failed. The arguments are the number of the call's free values, then which of them. -/
opaque Config.engineFlag : Nat → Nat → Bool

/-- FREE VALUE (log 21). A register of a bank engine that no micro-word loads (R285): the address generator, the stride and the buffer
pointer as a call begins. The arguments are the number of the call's free values, then which of them. -/
opaque Config.engineAddr : Nat → Nat → Nat

/-- FREE VALUE (log 21). A datum of a bank engine whose source R285 does not state. The arguments are the number of the call's free
values, then which of them. -/
opaque Config.engineData : Nat → Nat → Nat

/-- FREE VALUE (log 30). Whether an ATOMIC message whose operation code is both an `amo` and a `famo` asks for the `famo`: R308
gives the receiver FN[6:0] and no more. The argument is State.draws. -/
opaque Config.famoMessage : Nat → Bool

/-- FREE VALUE (log 39). What a byte of the arrays of a grove holds after G3: R348 says that the arrays are lost. The arguments
are State.draws and the byte's place in the grove. -/
opaque Config.lostByte : Nat → Nat → BitVec 8

/-- FREE VALUE (log 40). The VERSION of the matrix save images of a management firmware that was loaded in service: R230 gives
1 for the device as built, and R378 lets a restore onto updated firmware reject an image. The argument is the image. -/
opaque Config.imageVersion : List Byte → Nat

/-- FREE VALUE (log 56). Whether the host refuses a PCIe AtomicOp request (R168). The argument is State.draws. -/
opaque Config.hostRefuses : Nat → Bool

/-- FREE VALUE (log 58). One less than the messages that the queue of a class at a core holds: R315 speaks of a full queue and
gives no capacity. -/
opaque Config.classQueue : Nat

/-- FREE VALUE (log 12). The heartwood bank that bring-up loads (R402): byte `i` of bank A of a stack. Its behaviour is
R273 to R279; its micro-words are not given. -/
opaque Config.standardBank : Nat → BitVec 8

end Sys2Proof
end

