-- ==== Sys2Proof/Machine/State.lean ====
section
/-! DEFINITION. The state of the GV8-A256 as plain data, memory with its canonical form, and `State.reset`. -/

namespace Sys2Proof.Machine

/-- Why the machine stops. -/
inductive Fault where
  /-- `step` raises it: the agenda names a core, row, grove, stack, link or partition that the package does not have
  (R10). Safe: the hardware has no such step. -/
  | noSuchUnit
  /-- `step` raises it: power has been removed after CRIT (R352), and the step is no reset. Safe: the hardware does nothing
  until a reset. -/
  | powerOff
  deriving DecidableEq, Repr

/-- Why a step has no meaning. -/
inductive Refusal where
  /-- `exec` raises it for an instruction without a meaning in this model. Safe: nothing can be proved of its effect. -/
  | notModelled (mnemonic : String)
  deriving DecidableEq, Repr

/-! ### Keyed data in canonical form -/

/-- Data by number, in one canonical form: keys rising, no entry equal to what an unlisted key reads as. -/
structure Sparse (α : Type) where
  items : List (Nat × α)
  deriving DecidableEq, Repr

/-- Memory: the listed bytes, keys rising, no byte equal to what an unlisted key reads as. -/
structure Memory where
  cells : List Host.Cell
  deriving DecidableEq, Repr

/-! ### Identities, traps and requests -/

/-- The identity that travels with an access (R71): the row behind it, or the host. An access of a bank engine is marked `bank`: it goes
through no slice (R79). -/
structure Ident where
  host : Bool
  node : Nat
  core : Nat
  row  : Nat
  part : Nat
  gang : Nat
  mode : Bool
  bank : Bool
  deriving DecidableEq, Repr

/-- The causes of R124, with LEN and so on by their codes. -/
inductive Cause where
  | ill | len | haz | bt | align | prot | lease | xlate | cwstate | engine | trapi | brk | wdog | priv | queue | absent
  | memerr | rsvd
  deriving DecidableEq, Repr

/-- A trap that a row is to enter once it has drained (R122): cause, address, CODE, and what RESUME and NEXT record. `redirect` is the PC
of a control request that the row took while it drained, and whether it is to halt there (R103, log 73). -/
structure TrapInfo where
  cause    : Cause
  pc       : BitVec 32
  code     : BitVec 8
  deferred : Bool
  len      : Nat
  redirect : Option (BitVec 32 × Bool) := Option.none
  deriving DecidableEq, Repr

/-- A completion target (R21): none, a tag of a core, or the clasp of a row given by its slot-0 address. -/
inductive Target where
  | none
  | tag (core tag : Nat)
  | clasp (addr : Nat)
  deriving DecidableEq, Repr

/-! ### The executor -/

/-- What a pending long-latency operation still has to do (R113). -/
inductive PendOp where
  /-- A result fixed at issue that no access gave: `div`, `rem`, `fdiv`, `fsqrt`, `resq`. -/
  | value (d : Nat) (v : Word)
  /-- The value that an access read at its issue: a load of the engine page, or an atomic on the row's own latch (`wr`), which wrote it too
  (R153). -/
  | taken (d : Nat) (v : Word) (wr : Bool)
  /-- A load of `size` bytes at `ea`: global or row space (R152). -/
  | load (d size : Nat) (signed glob : Bool) (ea : Nat) (scope : Nat)
  /-- `ldm` of `n` registers (R156). -/
  | loadMany (d n : Nat) (glob : Bool) (ea : Nat)
  /-- An atomic: the instruction, its address, its operand and the new value of `acas` (R164). -/
  | atomic (i : Instr) (ea : Nat) (y z : Word)
  /-- A row ALU form: the instruction, the registers D, A, B and C at issue, and the source rows already read (R192). -/
  | rowAlu (i : Instr) (vd va vb vc : Word) (read : List (Nat × BitVec 2048))
  /-- `lock` of the line of `ea` (R160). -/
  | lock (d ea : Nat)
  /-- `gresize` to `n` ways (R162). -/
  | gresize (d : Nat) (n : Word)
  /-- `launch`, waiting for its header's placement; the result once it is known (R297). -/
  | launch (d : Nat) (result : Option Word)
  deriving DecidableEq, Repr

/-- A pending operation (R113, R115). -/
structure Pending where
  op     : PendOp
  lah    : Nat
  since  : Nat
  pc     : BitVec 32
  len    : Nat
  rregs  : List Nat
  wregs  : List Nat
  rrows  : List Nat
  wrows  : List Nat
  acquire : Bool
  seq    : Nat
  deriving DecidableEq, Repr

/-- The state that a closing row takes (R107). -/
inductive CloseTo where
  | ready
  | wait (kind : Nat) (pc : BitVec 32)
  | halt (pc : BitVec 32)
  | stopped
  deriving DecidableEq, Repr

/-- What an open row is doing. -/
inductive Intent where
  /-- It issues instructions. -/
  | run
  /-- It drains and then enters a trap (R122). -/
  | trap (t : TrapInfo)
  /-- It drains and then closes (R109). -/
  | close (dest : CloseTo)
  /-- It stands OPEN and stalled in `gbar` until its episode releases (R177). -/
  | stalled
  deriving DecidableEq, Repr

/-- A latch in use (R109). For R110: the code block its row last issued from (`block`), and for how many issues of its core
the row may still be held by the multiplier, a branch or an outside access (`hold`, log 50). `gather` is the cycle of its grove in
which a `hint.gather` began to hold it, and the PC of that instruction (R130). -/
structure Latch where
  idx     : Nat
  row     : Nat
  count   : Nat
  pending : List Pending
  intent  : Intent
  block   : Option Nat
  hold    : Nat
  gather  : Option (Nat × BitVec 32)
  deriving DecidableEq, Repr

/-- A row that stalls in `gstop`: the number of rows it has stopped, the OPEN rows that still drain, each by core and row, and the gang
that it named, none for the partition form (R370, R371). -/
structure StopWait where
  row  : Nat
  rows : Nat
  todo : List (Nat × Nat)
  gang : Option Nat
  deriving DecidableEq, Repr

/-- An entry of the READY FIFOs, in the order in which rows entered READY (R111). -/
structure FifoEntry where
  row : Nat
  age : Nat
  deriving DecidableEq, Repr

/-- What a wait-table entry waits for (R108). -/
inductive WaitOn where
  | tagsAll (mask : Word)
  | tagsAny (mask : Word)
  | time (t : Word)
  | barrier (gang episode : Nat)
  | timedClasp
  deriving DecidableEq, Repr

/-- An entry of the wait table; `met` records an event that satisfied it (R137, R176). -/
structure WaitEntry where
  row : Nat
  on  : WaitOn
  met : Bool
  deriving DecidableEq, Repr

/-! ### The matrix unit -/

/-- A command in the matrix queue (R212): its eight words, its issuing row, and its progress: its checks are passed
(`begun`), it may inject (`started`), the grove cycle from which it demands and injects (`injFrom`, R232), its next injection
(`idx`), the number that marks its C writes (`run`), and a fault that waits for earlier C writes (R219). -/
structure MxCmd where
  words : List Word
  id    : Ident
  begun : Bool
  started : Bool
  injFrom : Nat
  idx   : Nat
  run   : Nat
  fault : Option (Nat × Nat)
  deriving DecidableEq, Repr

/-- A C write in flight (R219): the row, the injection, the rounded group sums of each column, the identity and completion
target of its command, the number of its run, the grove cycle of its injection; `last` on the last injection of a run. -/
structure CWrite where
  row  : Nat
  m    : Nat
  acc  : Bool
  sums : List (List (BitVec 32))
  id   : Ident
  run  : Nat
  target : Target
  last : Bool
  cc   : Nat
  deriving DecidableEq, Repr

/-- The matrix unit (R211 to R230). `headFrom` is the grove cycle from which the head may begin (R232); `controls` are the control
commands on which the unit has not acted (R221). -/
structure MatrixSt where
  queue    : List MxCmd
  headFrom : Nat
  halt     : Bool
  wvalid   : Bool
  wfmt     : Nat
  ksel     : Nat
  sparse   : Bool
  frozen   : Bool
  fcode    : Nat
  fcmd     : Nat
  fidx     : Nat
  discards : Nat
  weights  : List (BitVec 2048)
  metas    : List (BitVec 2048)
  scales   : List (BitVec 2048)
  hasScale : Bool
  wctab0   : Word
  wctab1   : Word
  actab0   : Word
  actab1   : Word
  pipe     : List CWrite
  lastInj  : Option Nat
  controls : List Nat
  deriving DecidableEq, Repr

/-! ### Copy channels -/

/-- One copy channel (R235): its registers, the words of a record that is held or in progress, the issuing row of its chain,
and pending stops. Of a record in progress: its guard is resolved (`begun`), the units it has completed (`done`), the words of its
layout record or of its index rows once they are read, or what it has decoded (`ahead`, R243, R250), and, once its work has ended, the
status, the units, and whether it faulted (`ended`). -/
structure Chan where
  head     : Word
  current  : Word
  st       : Nat
  err      : Bool
  fcode    : Nat
  reason   : Nat
  discards : Nat
  record   : List Word
  begun    : Bool
  done     : Nat
  ahead    : List Word
  ended    : Option (Nat × Nat × Bool)
  id       : Ident
  stopReq  : Bool
  gangStop : Bool
  revoked  : Bool
  deriving DecidableEq, Repr

/-! ### Dispatcher data held per core -/

/-- A residency entry (R290). -/
structure ResEntry where
  w0 : Word
  w1 : Word
  deriving DecidableEq, Repr

/-- A row of a launch pool (R294): lent, and marked to leave the pool at its HALT (R295). -/
structure PoolRow where
  row     : Nat
  lent    : Bool
  leaving : Bool
  deriving DecidableEq, Repr

/-- One core (R10, R46). Its array, and so its context rows and registers, are in memory. `gstops` lists the rows that stall in
`gstop`, with the rows it has stopped (R370, R371). For the acquires of R360 at system scope: the tags that an
acknowledgement has set (`sysTags`), the rows whose clasp has counted a system-scope arrival since its last fire
(`sysClasps`), and the rows that have executed a system-scope `fence` from W to E (`fenced`). `barred` lists the rows that took an ENGINE trap while
stalled in `gbar`, and stall there again after `tret` (R125, R177, log 55). -/
structure CoreSt where
  tags     : Word
  guards   : Word
  ctab0    : Word
  ctab1    : Word
  latmax   : Nat
  quantum  : Nat
  agelim   : Nat
  mbx      : Sparse Word
  ctxmap   : Sparse Word
  rangeA   : Sparse Word
  rangeB   : Sparse Word
  codebase : Word
  dlogbase : Nat
  point    : Nat
  latches  : List Latch
  last     : Nat
  fifo     : List FifoEntry
  waits    : List WaitEntry
  engTraps : List (Nat × BitVec 8)
  gstops   : List StopWait
  clipped  : List Nat
  mx       : MatrixSt
  chans    : Sparse Chan
  filter   : List Nat
  dlogPos  : Nat
  res      : Sparse ResEntry
  pool     : List PoolRow
  sysTags  : Word
  sysClasps : List Nat
  fenced   : List Nat
  barred   : List Nat
  deriving DecidableEq, Repr

/-! ### Groves, stacks, gangs, partitions -/

/-- A slice line (R79 to R81): partition, line address, 64 bytes, dirty, the cache way it lies in, and the key of the memory that
it was fetched from, by which the directory of a stack recalls a line of REGION 00. -/
structure SliceLine where
  part  : Nat
  line  : Nat
  data  : BitVec 512
  dirty : Bool
  way   : Nat
  key   : Nat
  deriving DecidableEq, Repr

/-- A pinned line and the way it lies in (R81, R160). -/
structure Pin where
  part : Nat
  line : Nat
  way  : Nat
  deriving DecidableEq, Repr

/-- An instruction-cache block (R118): its code domain, its address and its 32 bytes. -/
structure ICBlock where
  part     : Nat
  codebase : Word
  va       : Nat
  data     : BitVec 256
  deriving DecidableEq, Repr

/-- One grove. `spare` marks a grove that the one spare grove of its die stands in for (R10, R406), `failed` one that has failed
before it was replaced (R406), and `swapHeld` one whose two lowest cache ways hold a swapped-out partition (R374). `fillers` are the
limiter fillers still to be placed in the step, `slewD` the demand at the start of the last boundary cycle (R228), `busy` the cores that
have injected in this cycle, and `filled` those that took a filler in the cycle that has ended (R229). -/
structure GroveSt where
  lines   : List SliceLine
  pins    : List Pin
  ways    : Nat
  epochs  : Sparse Nat
  icache  : List ICBlock
  gres    : Sparse ResEntry
  cc      : Nat
  slewV   : Nat
  slewLast : Nat
  slewAt  : Option Nat
  slewD   : Nat
  allowance : Nat
  fillers : Nat
  busy    : List Nat
  filled  : List Nat
  point   : Nat
  changing : Bool
  idle    : Nat
  disabled : Bool
  spare   : Bool
  failed  : Bool
  swapHeld : Bool
  deriving DecidableEq, Repr

/-- The scan of REDUCE-MAX (R278): the largest code and its index so far, a NaN once one is met. -/
structure Largest where
  code  : Nat
  index : Word
  nan   : Bool
  deriving DecidableEq, Repr

/-- Where the micro-words of a call stand (R285, log 21): the next word, the words run and the number of the call's free values, the two
counters, the address generator, the buffer pointer and the bytes last read at it, the columns read in the burst, the column and the 16
BF16 codes read last, the bytes that the expander holds and has not decoded, its decoded elements, the products of the group sum, where
these are known, the accumulator, the compare flag, and the lanes staged with the lines written. -/
structure MicroSt where
  pc    : Nat
  turn  : Nat
  seed  : Nat
  cnt0  : Nat
  cnt1  : Nat
  addr  : Nat
  ptr   : Nat
  took  : Nat
  burst : Nat
  col   : List Byte
  xs    : List Nat
  bytes : List Byte
  held  : Option (List Nat)
  prods : Option (List (Nat × Nat))
  acc   : Nat
  flag  : Bool
  line  : List Nat
  lines : Nat
  deriving DecidableEq, Repr

/-- How far a call has come: the units of work done, UNITS as its status word gives them, the scan of REDUCE-MAX, the bytes of the
elements that AXPY has read and not written yet (R275), the 32-byte atoms of the operand buffers that it has read, by their number, and
those of its weight rows that a later row reads again, by their place in the stream (R281), and what it has decoded to use again, once:
the rows of GEMV-BATCH's weights (R274), or EXPAND's groups with the status that ended their stream early. `micro` is where its
micro-words stand; `stated` says that they have written the status word, and whether the write succeeded, and `told` that they have made
the signal (R266, R285). -/
structure CallRun where
  done   : Nat
  units  : Nat
  scan   : Largest
  read   : List Byte
  atoms  : List (Nat × List Byte)
  kept   : List (Nat × List Byte)
  groups : List (List Nat)
  short  : Option Nat
  micro  : Option MicroSt
  stated : Option Bool
  told   : Bool
  deriving DecidableEq, Repr

/-- A call in a stack's queue (R264): its words, its issuing row, whether it is to end with ABORTED, whether it was stored during a
revocation that it touches and that has ended since, so that it ends with LEASE (R283), how far it has come, and, once its work has
ended, its status and UNITS (R266). -/
structure Call where
  words   : List Word
  id      : Ident
  abort   : Bool
  late    : Bool
  run     : CallRun
  ended   : Option (Nat × Nat)
  deriving DecidableEq, Repr

/-- One stack's base die (R261 to R284, R86). `imageA` and `imageB` say that a bank holds an image loaded in service, whose micro-words
run for every entry (R285), and not the standard heartwood. -/
structure StackSt where
  calls    : List Call
  actbank  : Bool
  pendswap : Bool
  imageA   : Bool
  imageB   : Bool
  remap    : List Nat
  deriving DecidableEq, Repr

/-- A lease range (R90): first byte, length in bytes, write right. -/
structure LRange where
  base  : Nat
  bytes : Nat
  wr    : Bool
  deriving DecidableEq, Repr

/-- A revocation in progress (R91): the ranges and rights being removed (`wr` set where only the write right goes), the lease
that remains after it, and the completion target with the identity that signals it. -/
structure Revocation where
  ranges : List LRange
  after  : List LRange
  target : Target
  id     : Ident
  deriving DecidableEq, Repr

/-- A barrier episode that has completed and awaits its release instant (R176). -/
structure Episode where
  number : Nat
  t      : Nat
  held   : Bool
  deriving DecidableEq, Repr

/-- A gang's device state (R91, R175, R369, R379); `expired` is set by the check that finds the watchdog expired (R380). -/
structure GangSt where
  lease    : Option (List LRange)
  revoking : Option Revocation
  sup      : Bool
  shed     : Bool
  swap     : Bool
  episode  : Nat
  arrivals : Nat
  heldDesc : Bool
  due      : List Episode
  wdcnt    : Nat
  expired  : Bool
  deriving DecidableEq, Repr

/-- How a header reached the dispatcher (R297, R298). -/
inductive HdrPath where
  | launch (core row : Nat)
  | window
  | fabric (node : Nat)
  deriving DecidableEq, Repr

/-- A queued task header (R289). -/
structure Hdr where
  words : List Word
  id    : Ident
  path  : HdrPath
  deriving DecidableEq, Repr

/-- A fault record held by the management controller, or a run of dropped ones (R368). -/
inductive HeldRec where
  | record (words : List Word)
  | dropped (count : Nat) (time : Word)
  deriving DecidableEq, Repr

/-- What a swapped-out partition has saved of one core (R376): its rows, its state, and the eight header words of its matrix save
image (R230). -/
structure SavedCore where
  core  : Nat
  rows  : List (Nat × BitVec 2048)
  state : CoreSt
  image : List Word
  deriving DecidableEq, Repr

/-- What a swapped-out partition has saved of one grove (R376): its scratch ways, its pins and residency entries, and LAST of its
limiter, which the matrix save images hold (R230). -/
structure SavedGrove where
  grove : Nat
  ways  : Nat
  pins  : List Pin
  gres  : Sparse ResEntry
  last  : Nat
  deriving DecidableEq, Repr

/-- The saved state of a swapped-out partition (R376). -/
structure Saved where
  cores   : List SavedCore
  groves  : List SavedGrove
  hdrs    : List Hdr
  deriving DecidableEq, Repr

/-- One partition (R75, R120, R288, R368, R398, R399). `swapping` says that a swap-out has set SWAP on its gangs, `shutAt` from which
place in program order on it refuses what comes (R375), and `flr` that a Function Level Reset has stopped its gangs (R400). -/
structure PartSt where
  groves    : Word
  root00    : Word
  root01    : Word
  root11    : Word
  gangbase  : Word
  lockquota : Nat
  swapop    : Nat
  swapping  : Bool
  shutAt    : Option Nat
  flr       : Bool
  swapst    : Nat
  tailva    : Word
  vector    : Nat
  raised    : Nat
  hdrs      : List Hdr
  refused   : Nat
  gen       : Nat
  held      : List HeldRec
  saved     : Option Saved
  deriving DecidableEq, Repr

/-! ### Requests in flight -/

/-- A store that has issued and is not yet accepted (R154), or a host store at its unit (R397). `whole` marks one
`stm`; `age` counts the instructions its row has issued since; `sent` is set once a remote store has left. -/
structure StoreReq where
  id    : Ident
  va    : Nat
  data  : List Byte
  whole : Bool
  release : Bool
  scope : Nat
  pc    : BitVec 32
  len   : Nat
  seq   : Nat
  age   : Nat
  sent  : Bool
  deriving DecidableEq, Repr

/-- A store into a row that waits for its turn there (R103, R105): a control request of its own (`ctl`), or bytes, which end
with a control request where they cover slot 0 of a context row (R156). `rs` marks one made through row space; `seq` is its place
in the program order of its row. -/
structure RowReq where
  core : Nat
  row  : Nat
  off  : Nat
  data : List Byte
  ctl  : Bool
  id   : Ident
  rs   : Bool
  seq  : Nat
  deriving DecidableEq, Repr

/-- An arrival at a clasp (R170): the row, the count, the identity behind it (R23), and whether its fire is an acquire at
system scope (R360). -/
structure Arrival where
  core   : Nat
  row    : Nat
  n      : Nat
  id     : Ident
  sys    : Bool
  deriving DecidableEq, Repr

/-- A message of the fabric (R308). `cls` is its class; `chan` is 0 for a message of a row, 5 to 12 for a stack, 13 for the read of a
lease record, 14 for a count that is sent on, 15 for a request whose work has ended, and 16 + 4·c + ch for channel ch of core c; `via`
is 0 for a message made here, l + 1 for one that came on link l; `count` is the count word. `remote` marks a request that has left for another device, and, with `mkind` 3 or 7,
an answer that its sender has not taken yet. `inCore` marks a message that has left its link's buffer for that of its core
(R320). `sys` marks a count whose fire is an acquire at system scope (R360). -/
structure Msg where
  mkind  : Nat
  cls    : Nat
  chan   : Nat
  via    : Nat
  id     : Ident
  addr   : Nat
  aux    : Nat
  data   : List Byte
  count  : Option Word
  ackreq : Bool
  acktag : Nat
  remote : Bool
  inCore : Bool
  sys    : Bool
  seq    : Nat
  deriving DecidableEq, Repr

/-! ### Fabric, power and management -/

/-- One Lamore link end (R303 to R307, R328). Flits are 80 bytes held as 640-bit numbers. `rxSeq` and `txSeq` are the last SEQ
accepted and sent; `resends` counts, for each flit of the replay buffer, its resends in a row; `beacons` holds SEQ and TIME of
the beacons sent, back to the last one that the other end has received. -/
structure LinkSt where
  rxSeq    : Nat
  txSeq    : Nat
  replay   : List (BitVec 640)
  resends  : List Nat
  credits  : Sparse Nat
  owed     : Sparse Nat
  part     : Sparse (List Byte)
  naked    : Bool
  resend   : Bool
  retrain  : Bool
  sent     : List (BitVec 640)
  beacon   : Option (List Word)
  echoTx   : Word
  echoRx   : Word
  beacons  : List (Nat × Word)
  deriving DecidableEq, Repr

/-- The fabric registers (R312). `nextRoute` lists the ROUTE writes that wait: node, link, and the place of the write in program
order (R314). -/
structure FabricSt where
  nodeId  : Nat
  route   : Sparse Nat
  nextRoute : List (Nat × Nat × Nat)
  admission   : Sparse Nat
  tparent : Nat
  stale   : Bool
  step    : Bool
  lastBeacon : Word
  offset  : Int
  deriving DecidableEq, Repr

/-- The power controller (R332 to R352). `regs` are the stored registers by unit offset, `eff` the staged set in effect, `cadFrom` the
time at which the CADENCE of some core last changed (R340, R342). -/
structure PowerSt where
  regs    : Sparse Word
  eff     : Sparse Word
  pending : Option (Sparse Word)
  lastseq : Nat
  stale   : Bool
  islanded : Bool
  alarm   : Bool
  badfr   : Nat
  goodfr  : Nat
  tlast   : List Byte
  allowed : Nat
  cad     : Nat
  shed    : BitVec 8
  powcap  : Nat
  cpwr    : Sparse Word
  temps   : Sparse (BitVec 16 × Nat)
  mark    : Sparse (Option Nat)
  since   : Sparse (Option Nat)
  lastrest : Option Nat
  thermal7 : Bool
  lastUsable : Nat
  cadFrom : Option Nat
  deriving DecidableEq, Repr

/-- The management controller (R352, R402 to R407). -/
structure MgmtSt where
  powered : Bool
  fwB     : Bool
  fw      : Sparse (List Byte)
  alerts  : List Nat
  cfgErrors : Nat
  badMsgs : Nat
  dropped : Nat
  report  : List Byte
  deriving DecidableEq, Repr

/-- What the machine does next: the model's own data that stands for the order in which the agents act (log 1). -/
inductive Move where
  /-- Core and row issue one instruction (R110). -/
  | issue (core row : Nat)
  /-- A step of an agent. -/
  | agent (i : Instr)
  /-- The timebase advances by `ns` (R16). -/
  | tick (ns : Nat)
  /-- A grove's clock advances one cycle (R13). -/
  | clock (grove : Nat)
  /-- A pending row ALU operation reads one of its source rows (R192). -/
  | sample (core row k src : Nat)
  /-- A translation point drops the k-th entry of the TLB (R77). -/
  | evictTlb (k : Nat)
  /-- A grove's slice evicts the k-th of its lines (R79). -/
  | evictLine (grove k : Nat)
  /-- An instruction-cache block is replaced (R118). -/
  | evictCode (grove k : Nat)
  /-- The memory-side cache of a stack evicts a line of 2 KiB, and with it the covered slice lines (R79, R83). -/
  | evictSide (stack line : Nat)
  /-- An engine's step for `n` units of its work, or bursts: the rest of the work waits for a later step (log 63). -/
  | part (i : Instr) (n : Nat)
  /-- The host reads `n` bytes through the window of a partition, or of the PF (R397). -/
  | hostRead (window : Option Nat) (off n : Nat)
  /-- A grove fails, and its data rows are lost (R406). -/
  | groveFail (grove : Nat)
  /-- A core fetches a code block ahead of use: the one after the block of an open row, or that of its `bt` target (R118). -/
  | prefetch (core row : Nat) (target : Bool)
  deriving DecidableEq, Repr

/-- A TLB entry (R77, R78): translation point, partition, page address and size, frame, W, and the fill's generation. -/
structure TlbEntry where
  point  : Nat
  part   : Nat
  region : Nat
  page   : Nat
  size   : Nat
  frame  : Nat
  w      : Bool
  gen    : Nat
  deriving DecidableEq, Repr

/-- A CXL port (R401): the type of the device attached, its bytes, and whether it was trained at the last reset. -/
structure PortSt where
  dtype   : Nat
  bytes   : Nat
  trained : Bool
  deriving DecidableEq, Repr

/-- The whole machine. `energy` holds the energy counters of the groves and, at 64, of the package (R353); `reads` the completions
of the host's reads, none for a Completer Abort (R397). `agenda`, `curCore`, `curRow`, `seq`, `draws` and `pause` are the model's own
(log 1, 8 and 63): `pause` is the number of units of work after which an engine's step pauses, none for no pause. -/
structure State where
  mem     : Memory
  poison  : List Nat
  cores   : Sparse CoreSt
  groves  : Sparse GroveSt
  stackSts : Sparse StackSt
  parts   : Sparse PartSt
  gangs   : Sparse GangSt
  tlb     : List TlbEntry
  stores  : List StoreReq
  rowReqs : List RowReq
  arrivals : List Arrival
  msgs    : List Msg
  knocks  : List Nat
  links   : Sparse LinkSt
  fabric  : FabricSt
  power   : PowerSt
  mgmt    : MgmtSt
  ports   : Sparse PortSt
  energy  : Sparse Word
  reads   : List (Option (List Byte))
  time    : Word
  agenda  : List Move
  curCore : Nat
  curRow  : Nat
  seq     : Nat
  draws   : Nat
  pause   : Option Nat
  deriving DecidableEq, Repr

/-! ### Reset -/

/-- The identity of no row: zero everywhere. -/
def Ident.none : Ident := { host := true, node := 0, core := 0, row := 0, part := 0, gang := 0, mode := false, bank := false }

/-- A matrix unit at reset (R223). -/
def MatrixSt.reset : MatrixSt :=
  { queue := [], headFrom := 0, halt := false, wvalid := false, wfmt := 0, ksel := 0, sparse := false, frozen := false, fcode := 0,
    fcmd := 0, fidx := 0, discards := 0, weights := [], metas := [], scales := [], hasScale := false, wctab0 := 0,
    wctab1 := 0, actab0 := 0, actab1 := 0, pipe := [], lastInj := .none, controls := [] }

/-- A copy channel at reset (R235). -/
def Chan.reset : Chan :=
  { head := 0, current := 0, st := 0, err := false, fcode := 0, reason := 0, discards := 0, record := [], begun := false,
    done := 0, ahead := [], ended := .none, id := Ident.none, stopReq := false, gangStop := false, revoked := false }

/-- A core at reset (R46): LATMAX 8, QUANTUM 256, AGELIM 4096, the rest 0; the last latch is 7 (log 4). -/
def CoreSt.reset : CoreSt :=
  { tags := 0, guards := 0, ctab0 := 0, ctab1 := 0, latmax := 8, quantum := 256, agelim := 4096, mbx := ⟨[]⟩,
    ctxmap := ⟨[]⟩, rangeA := ⟨[]⟩, rangeB := ⟨[]⟩, codebase := 0, dlogbase := 0, point := 0, latches := [], last := 7,
    fifo := [], waits := [], engTraps := [], gstops := [], clipped := [], mx := MatrixSt.reset, chans := ⟨[]⟩, filter := [],
    dlogPos := 0, res := ⟨[]⟩, pool := [], sysTags := 0, sysClasps := [], fenced := [],
    barred := [] }

/-- A grove at reset: no line, no scratch way (log 5), V 0 and LAST core 3 (R228), P0, running, enabled (log 22). -/
def GroveSt.reset : GroveSt :=
  { lines := [], pins := [], ways := 0, epochs := ⟨[]⟩, icache := [], gres := ⟨[]⟩, cc := 0, slewV := 0, slewLast := 3,
    slewAt := .none, slewD := 0, allowance := 0, fillers := 0, busy := [], filled := [], point := 0, changing := false, idle := 0,
    disabled := false,
    spare := false, failed := false, swapHeld := false }

/-- A stack at reset (R263): no call, bank A, no swap pending, nothing remapped. -/
def StackSt.reset : StackSt := { calls := [], actbank := false, pendswap := false, imageA := false, imageB := false, remap := [] }

/-- A gang at reset: no lease, no mark, episode 0, WDCNT 0. -/
def GangSt.reset : GangSt :=
  { lease := .none, revoking := .none, sup := false, shed := false, swap := false, episode := 0, arrivals := 0,
    heldDesc := false, due := [], wdcnt := 0, expired := false }

/-- A partition at reset (R398, R399): every register 0; generation 0 (log 6). -/
def PartSt.reset : PartSt :=
  { groves := 0, root00 := 0, root01 := 0, root11 := 0, gangbase := 0, lockquota := 0, swapop := 0, swapping := false, shutAt := .none, flr := false, swapst := 0,
    tailva := 0, vector := 0, raised := 0, hdrs := [], refused := 0, gen := 0, held := [], saved := .none }

/-- A link end at reset: SEQ and ACK 0 (R304, log 61), full credits (R306). -/
def LinkSt.reset : LinkSt :=
  { rxSeq := 0, txSeq := 0, replay := [], resends := [], credits := ⟨[]⟩, owed := ⟨[]⟩, part := ⟨[]⟩,
    naked := false, resend := false, retrain := false, sent := [], beacon := .none, echoTx := 0, echoRx := 0, beacons := [] }

/-- The fabric registers at reset (R312). -/
def FabricSt.reset : FabricSt :=
  { nodeId := 0x3FE, route := ⟨[]⟩, nextRoute := [], admission := ⟨[]⟩, tparent := 31, stale := false, step := false,
    lastBeacon := 0, offset := 0 }

/-- The power controller at reset (R332): ALLOWED 1024, CAD 1, nothing shed. -/
def PowerSt.reset : PowerSt :=
  { regs := ⟨[]⟩, eff := ⟨[]⟩, pending := .none, lastseq := 0, stale := false, islanded := false, alarm := false, badfr := 0,
    goodfr := 0, tlast := [], allowed := 1024, cad := 1, shed := 0, powcap := 0, cpwr := ⟨[]⟩, temps := ⟨[]⟩, mark := ⟨[]⟩,
    since := ⟨[]⟩, lastrest := .none, thermal7 := false, lastUsable := 0, cadFrom := .none }

/-- The management controller at reset: powered, bank A active (R402). -/
def MgmtSt.reset : MgmtSt :=
  { powered := true, fwB := false, fw := ⟨[]⟩, alerts := [], cfgErrors := 0, badMsgs := 0, dropped := 0, report := [] }

/-- A CXL port at reset: a type-3 device of 2 TiB, trained (log 64). -/
def PortSt.reset : PortSt := { dtype := 3, bytes := 2 ^ 41, trained := true }

/-- No call has begun. -/
def CallRun.start : CallRun :=
  { done := 0, units := 0, scan := { code := 0xFF800000, index := 0xFFFFFFFFFFFFFFFF#64, nan := false }, read := [], atoms := [], kept := [],
    groups := [], short := .none, micro := .none, stated := .none, told := false }

/-- The machine right after a cold reset (R402): TIME 0, no rows, nothing listed in memory. -/
def State.reset : State :=
  { mem := ⟨[]⟩, poison := [], cores := ⟨[]⟩, groves := ⟨[]⟩, stackSts := ⟨[]⟩, parts := ⟨[]⟩, gangs := ⟨[]⟩, tlb := [],
    stores := [], rowReqs := [], arrivals := [], msgs := [], knocks := [], links := ⟨[]⟩, fabric := FabricSt.reset,
    power := PowerSt.reset, mgmt := MgmtSt.reset, ports := ⟨[]⟩, energy := ⟨[]⟩, reads := [], time := 0, agenda := [],
    curCore := 0, curRow := 0, seq := 1, draws := 0, pause := .none }

end Sys2Proof.Machine
end

