-- ==== Sys2Proof/Machine/Memory.lean ====
section
/-! DEFINITION. Keyed data and memory in canonical form: what an unlisted key reads as, reading, writing, and the key of
every place that holds bytes (R10, R68, R74, R81, R86, R261, R284). -/

namespace Sys2Proof.Machine

/-! ### Keyed data -/

/-- The entry of a key, or the default. -/
def Sparse.get {α : Type} (d : α) (m : Sparse α) (k : Nat) : α :=
  match m.items.find? (fun e => e.1 == k) with
  | some e => e.2
  | none => d

/-- The entry of a key replaced; an entry equal to the default is not listed. -/
def Sparse.set {α : Type} [DecidableEq α] (d : α) (m : Sparse α) (k : Nat) (v : α) : Sparse α :=
  ⟨m.items.filter (fun e => e.1 < k) ++ (if v = d then [] else [(k, v)]) ++ m.items.filter (fun e => k < e.1)⟩

/-- Keys strictly rising. -/
def risingFrom {α : Type} : Nat → List (Nat × α) → Bool
  | _, [] => true
  | lo, e :: es => decide (lo ≤ e.1) && risingFrom (e.1 + 1) es

/-- The canonical form of keyed data. -/
def Sparse.wf {α : Type} [DecidableEq α] (d : α) (m : Sparse α) : Bool :=
  risingFrom 0 m.items && m.items.all (fun e => decide (e.2 ≠ d))

/-! ### Keys of places -/

/-- The key of a byte of a core's array (R68). -/
def arrayKey (core off : Nat) : Nat := core * 2 ^ 20 + off
/-- The key of byte `off` of array row `row` (R95). -/
def rowKey (core row off : Nat) : Nat := arrayKey core (row * 256 + off)
/-- The key of slot k of a row (R95). -/
def slotKey (core row k : Nat) : Nat := rowKey core row (8 * k)
/-- The key of a byte of the operand buffers of a stack; its 64 buffers hold the same bytes (R261, R263). -/
def bufferKey (stack off : Nat) : Nat := 2 ^ 28 + stack * 2 ^ 16 + off
/-- The key of byte b of entry i of a stack's remap SRAM (R86). -/
def remapKey (stack i b : Nat) : Nat := 2 ^ 29 + stack * 2 ^ 17 + i * 32 + b
/-- The key of a byte of a heartwood bank: 4096 bytes of micro-words, then the 64-byte dispatch table (R284). -/
def bankKey (stack : Nat) (b : Bool) (off : Nat) : Nat := 2 ^ 30 + (2 * stack + b.toNat) * 2 ^ 13 + off
/-- The key of a stack-local byte address (R74). -/
def dramKey (stack local_ : Nat) : Nat := 2 ^ 40 + stack * 2 ^ 36 + local_
/-- The key of a byte of the second tier behind a port (R74, R401). -/
def cxlKey (port off : Nat) : Nat := 2 ^ 48 + port * 2 ^ 41 + off
/-- The key of a host bus address (R74). -/
def hostKey (addr : Nat) : Nat := 2 ^ 64 + addr
/-- Where the keys of grove scratch begin. -/
def scratchBase : Nat := 2 ^ 80
/-- The key of a byte of a grove's scratch; `epoch` counts the times that its way was added (R81). -/
def scratchKey (grove epoch off : Nat) : Nat := scratchBase + (epoch * 64 + grove) * 2 ^ 22 + off

/-! ### Memory -/

/-- What bank A of a stack holds at reset (R279, R284, R402, log 12): micro-words that are free values; starts, of which only
entries 0 to 6 have one. -/
def standardByte (off : Nat) : Byte :=
  if off < 4096 then Config.standardBank off
  else if off < 4096 + 7 then BitVec.ofNat 8 ((Config.standardBank off).toNat % 255)
  else 0xFF

/-- The key lies in a heartwood bank A. -/
def isBankA (k : Nat) : Bool := decide (2 ^ 30 ≤ k) && decide (k < 2 ^ 30 + 2 ^ 17) && (k - 2 ^ 30) / 2 ^ 13 % 2 == 0

/-- What a byte that is not listed reads as: a free value in scratch (R81, log 3), the standard heartwood in bank A; zero
elsewhere (log 2). -/
def Memory.unlisted (k : Nat) : Byte :=
  if scratchBase ≤ k then Config.freeByte k else if isBankA k then standardByte ((k - 2 ^ 30) % 2 ^ 13) else 0

/-- One byte. -/
def Memory.read (m : Memory) (k : Nat) : Byte :=
  match m.cells.find? (fun e => e.1 == k) with
  | some e => e.2
  | none => Memory.unlisted k

/-- One byte written; the canonical form is kept. -/
def Memory.write (m : Memory) (k : Nat) (v : Byte) : Memory :=
  ⟨m.cells.filter (fun e => e.1 < k) ++ (if v = Memory.unlisted k then [] else [(k, v)])
    ++ m.cells.filter (fun e => k < e.1)⟩

/-- The canonical form of memory: keys strictly rising, no byte equal to what an unlisted key reads as. -/
def Memory.wf (m : Memory) : Bool :=
  risingFrom 0 m.cells && m.cells.all (fun e => decide (e.2 ≠ Memory.unlisted e.1))

/-- The value of the n bytes from key k, little-endian (R2). -/
def Memory.loadNat (m : Memory) : Nat → Nat → Nat
  | 0, _ => 0
  | n + 1, k => (m.read k).toNat + 256 * m.loadNat n (k + 1)

/-- The n bytes from key k. -/
def Memory.loadBytes (m : Memory) : Nat → Nat → List Byte
  | 0, _ => []
  | n + 1, k => m.read k :: m.loadBytes n (k + 1)

/-- The n bytes of a value written from key k, little-endian (R2). -/
def Memory.storeNat (m : Memory) : Nat → Nat → Nat → Memory
  | 0, _, _ => m
  | n + 1, k, v => (m.write k (BitVec.ofNat 8 v)).storeNat n (k + 1) (v / 256)

/-- Bytes written from key k. -/
def Memory.storeBytes (m : Memory) (k : Nat) : List Byte → Memory
  | [] => m
  | b :: bs => (m.write k b).storeBytes (k + 1) bs

/-! ### Rows and slots -/

/-- Slot k of a row (R95). -/
def State.slot (s : State) (core row k : Nat) : Word := word (s.mem.loadNat 8 (slotKey core row k))

/-- Slot k of a row written. -/
def State.setSlot (s : State) (core row k : Nat) (v : Word) : State :=
  { s with mem := s.mem.storeNat 8 (slotKey core row k) v.toNat }

/-- A whole array row (R186). -/
def State.rowBits (s : State) (core row : Nat) : BitVec 2048 := BitVec.ofNat 2048 (s.mem.loadNat 256 (rowKey core row 0))

/-- A whole array row written. -/
def State.setRowBits (s : State) (core row : Nat) (v : BitVec 2048) : State :=
  { s with mem := s.mem.storeNat 256 (rowKey core row 0) v.toNat }

/-- An atom of 32 bytes holds an uncorrectable error (R85). -/
def State.poisoned (s : State) (key n : Nat) : Bool :=
  s.poison.any (fun a => decide (a * 32 < key + n) && decide (key < a * 32 + 32))

/-- Errors cleared from the atoms that a write covers whole (R85). -/
def State.cleanse (s : State) (key n : Nat) : State :=
  { s with poison := s.poison.filter (fun a => !(decide (key ≤ a * 32) && decide (a * 32 + 32 ≤ key + n))) }

/-- A write of the n bytes from `key` meets an atom with an error that it does not cover whole (R85). -/
def State.partlyPoisoned (s : State) (key n : Nat) : Bool := (s.cleanse key n).poisoned key n

end Sys2Proof.Machine
end

