-- ==== Sys2Proof/Machine/Ops.lean ====
section
/-! DEFINITION. The named operations over memory, registers and rows: units and partitions, registers, the control word,
the FIFOs, latches and the wait table, protection (R71), leases (R89), translation (R74 to R78), accesses by virtual
address, dirty logging (R87), signals and clasps (R22, R23, R170, R171), fault records (R126, R368), and taking and
leaving a trap (R122, R123). -/

namespace Sys2Proof.Machine

/-! ### Units -/

def State.core (s : State) (c : Nat) : CoreSt := s.cores.get CoreSt.reset c
def State.setCore (s : State) (c : Nat) (x : CoreSt) : State := { s with cores := s.cores.set CoreSt.reset c x }
def State.grove (s : State) (g : Nat) : GroveSt := s.groves.get GroveSt.reset g
def State.setGrove (s : State) (g : Nat) (x : GroveSt) : State := { s with groves := s.groves.set GroveSt.reset g x }
def State.stack (s : State) (k : Nat) : StackSt := s.stackSts.get StackSt.reset k
def State.setStack (s : State) (k : Nat) (x : StackSt) : State := { s with stackSts := s.stackSts.set StackSt.reset k x }
def State.part (s : State) (p : Nat) : PartSt := s.parts.get PartSt.reset p
def State.setPart (s : State) (p : Nat) (x : PartSt) : State := { s with parts := s.parts.set PartSt.reset p x }
def State.gang (s : State) (p g : Nat) : GangSt := s.gangs.get GangSt.reset (p * 4096 + g)
def State.setGang (s : State) (p g : Nat) (x : GangSt) : State :=
  { s with gangs := s.gangs.set GangSt.reset (p * 4096 + g) x }
def State.link (s : State) (l : Nat) : LinkSt := s.links.get LinkSt.reset l
def State.setLink (s : State) (l : Nat) (x : LinkSt) : State := { s with links := s.links.set LinkSt.reset l x }
def CoreSt.chan (x : CoreSt) (ch : Nat) : Chan := x.chans.get Chan.reset ch
def CoreSt.setChan (x : CoreSt) (ch : Nat) (v : Chan) : CoreSt := { x with chans := x.chans.set Chan.reset ch v }

/-- The boundary of the limiter that falls at the start of the grove's cycle is still to come (R233). -/
def GroveSt.boundaryDue (x : GroveSt) : Bool := x.cc % 4 == 0 && x.slewAt != some x.cc

/-- The grove of a core (R11). -/
def groveOf (c : Nat) : Nat := c / 4
/-- The die of a grove (R11). -/
def dieOf (g : Nat) : Nat := g / 16

/-- The grove is assigned to the partition (R399). -/
def State.owns (s : State) (p g : Nat) : Bool := bitAt (s.part p).groves g
/-- The core belongs to the partition (R400). -/
def State.inPart (s : State) (p c : Nat) : Bool := decide (c < numCores) && s.owns p (groveOf c)
/-- PARTID of a core: the partition its grove is assigned to, 0 while it is assigned to none (R46, R399). -/
def State.partid (s : State) (c : Nat) : Nat := ((upto numParts).find? (fun p => s.owns p (groveOf c))).getD 0
/-- The cores of a partition, ascending (R400). -/
def State.coresOf (s : State) (p : Nat) : List Nat := (upto numCores).filter (fun c => s.inPart p c)
/-- The lowest-numbered core of a partition (R126). -/
def State.lowCore (s : State) (p : Nat) : Option Nat := (s.coresOf p).head?

/-- A row is marked in the context map (R100). -/
def State.isContext (s : State) (c r : Nat) : Bool := bitAt ((s.core c).ctxmap.get 0 (r / 64)) (r % 64)
/-- The grove is in G3, its arrays lost (R348). -/
def State.absent (s : State) (c : Nat) : Bool := (s.grove (groveOf c)).idle == 3
/-- A grove in G1 or G2 holds an access until it has woken (R349). -/
def State.asleep (s : State) (g : Nat) : Bool := (s.grove g).idle == 1 || (s.grove g).idle == 2
/-- A grove in G1 or G2 wakes (R349). -/
def State.rouse (s : State) (g : Nat) : State := if s.asleep g then s.setGrove g { s.grove g with idle := 0 } else s
/-- Row r is one of the 16 dirty-log rows of core c (R94). -/
def State.isLogRow (s : State) (c r : Nat) : Bool := (r + 4096 - (s.core c).dlogbase) % 4096 < 16

/-- A free value's argument, used up (log 8). -/
def State.draw (s : State) : State := { s with draws := s.draws + 1 }
/-- A program-order number, used up (log 8). -/
def State.bump (s : State) : State := { s with seq := s.seq + 1 }

/-- n bytes of a core's array as a load sees them: bits [63:33] of `bt` of a context row read as zero (R98). -/
def State.arrayBytes (s : State) (c o n : Nat) : List Byte :=
  (s.mem.loadBytes n (arrayKey c o)).zipIdx.map (fun (e : Byte × Nat) =>
    let b := (o + e.2) % 256
    if 20 ≤ b && b < 24 && s.isContext c ((o + e.2) / 256) then (if b = 20 then e.1 &&& 1 else 0) else e.1)

/-- Bits [63:33] of `bt` of a context row are no bits of the machine: they are cleared where a row is opened, or written from outside
by a store or an atomic (R98). DESIGN CHOICE (log 81): the other reserved bits, slot 0 [63:56] of a row that `kset` marks and `tw`
[63:58] after an outside write, keep what was stored there. -/
def State.trimTarget (s : State) (c r : Nat) : State :=
  if s.isContext c r && 2 ^ 33 ≤ (s.slot c r 2).toNat then s.setSlot c r 2 (word ((s.slot c r 2).toNat % 2 ^ 33)) else s

/-! ### The control word (R96) -/

def ctlPc (w : Word) : BitVec 32 := w.setWidth 32
def ctlState (w : Word) : Nat := bitsAt w 32 4
def ctlClass (w : Word) : Nat := bitsAt w 36 3
def ctlMode (w : Word) : Bool := bitAt w 39
def ctlWait (w : Word) : Nat := bitsAt w 40 4
def ctlGang (w : Word) : Nat := bitsAt w 44 12

/-- STATE values (R96). -/
abbrev stIdle : Nat := 0
abbrev stReady : Nat := 1
abbrev stOpen : Nat := 2
abbrev stWait : Nat := 3
abbrev stHalt : Nat := 4
abbrev stFault : Nat := 5
abbrev stStopped : Nat := 7

def State.ctl (s : State) (c r : Nat) : Word := s.slot c r 0
def State.setCtl (s : State) (c r : Nat) (w : Word) : State := s.setSlot c r 0 w
def State.rowState (s : State) (c r : Nat) : Nat := ctlState (s.ctl c r)
def State.setRowState (s : State) (c r st : Nat) : State := s.setCtl c r (putBits (s.ctl c r) 32 4 st)
def State.setWaitKind (s : State) (c r k : Nat) : State := s.setCtl c r (putBits (s.ctl c r) 40 4 k)
def State.rowPc (s : State) (c r : Nat) : BitVec 32 := ctlPc (s.ctl c r)
def State.setRowPc (s : State) (c r : Nat) (pc : BitVec 32) : State := s.setCtl c r (putBits (s.ctl c r) 0 32 pc.toNat)

/-! ### Registers of a row (R32, R95) -/

/-- Register wk of a row; w0 reads as zero (R32). -/
def State.regOf (s : State) (c r k : Nat) : Word := if k = 0 then 0 else s.slot c r k
/-- Register wk of a row written; a write to w0 is discarded (R32). -/
def State.setRegOf (s : State) (c r k : Nat) (v : Word) : State := if k = 0 then s else s.setSlot c r k v

/-- Register wk of the issuing row. -/
def State.reg (s : State) (k : Nat) : Word := s.regOf s.curCore s.curRow k
/-- Register wk of the issuing row written. -/
def State.setReg (s : State) (k : Nat) (v : Word) : State := s.setRegOf s.curCore s.curRow k v
/-- PC of the issuing row. -/
def State.pc (s : State) : BitVec 32 := s.rowPc s.curCore s.curRow
/-- PC of the issuing row written. -/
def State.setPc (s : State) (v : BitVec 32) : State := s.setRowPc s.curCore s.curRow v
/-- PC := next (R127). -/
def State.advance (s : State) (o : Operands) : State := s.setPc (s.pc + BitVec.ofNat 32 o.len.units)
/-- `next` of R127. -/
def State.next (s : State) (o : Operands) : BitVec 32 := s.pc + BitVec.ofNat 32 o.len.units

/-- The address of slot 0 of a row in REGION 10 (R72, R73). -/
def rowVa (node core row : Nat) : Nat := node * 2 ^ 47 + 2 * 2 ^ 45 + core * 2 ^ 36 + row * 256
/-- The address that a record names a row behind an access by; zero for the host (R126). -/
def Ident.origin (id : Ident) : Nat := if id.host then 0 else rowVa id.node id.core id.row

/-- The identity of a row (R71); NODE 0x3FF names this device (R72). -/
def State.ident (s : State) (c r : Nat) : Ident :=
  { host := false, node := 0x3FF, core := c, row := r, part := s.partid c, gang := ctlGang (s.ctl c r),
    mode := ctlMode (s.ctl c r), bank := false }
/-- The identity of the issuing row. -/
def State.me (s : State) : Ident := s.ident s.curCore s.curRow
/-- A supervisor access of a partition: the host, or the device on the supervisor's behalf (R71, R318). -/
def Ident.supervisor (p : Nat) : Ident := { Ident.none with part := p, mode := true }

/-! ### Rows of a gang -/

/-- The rows marked in the context map of a core, words 0 to 63 (R100). -/
def State.contextRows (s : State) (c : Nat) : List Nat :=
  ((s.core c).ctxmap.items.filter (fun e => decide (e.1 < 64))).flatMap (fun e => (upto 64).filterMap (fun i => if bitAt e.2 i then some (64 * e.1 + i) else none))

/-- Every context row of the package, in ascending order of core and row. -/
def State.allRows (s : State) : List (Nat × Nat) :=
  s.cores.items.flatMap (fun e => (s.contextRows e.1).map (fun r => (e.1, r)))

/-- The member rows of a gang, in ascending order of core and row (R175, R373). -/
def State.members (s : State) (p g : Nat) : List (Nat × Nat) :=
  s.allRows.filter (fun x => s.inPart p x.1 && ctlGang (s.ctl x.1 x.2) == g)

/-- READY, OPEN or WAIT. -/
def running (st : Nat) : Bool := st == stReady || st == stOpen || st == stWait

/-- A member is READY, OPEN, WAIT or STOPPED (R380). -/
def State.gangLive (s : State) (p g : Nat) : Bool :=
  (s.members p g).any (fun x => running (s.rowState x.1 x.2) || s.rowState x.1 x.2 == stStopped)

/-- WDCNT returns to 0 when a gang without such a member is about to gain one (R380). -/
def State.quicken (s : State) (p g : Nat) : State :=
  if s.gangLive p g then s else s.setGang p g { s.gang p g with wdcnt := 0 }

/-- A member is READY, OPEN or WAIT (R379). -/
def State.gangRuns (s : State) (p g : Nat) : Bool := (s.members p g).any (fun x => running (s.rowState x.1 x.2))

/-- A stop mark of the gang is set (R369). -/
def GangSt.stopped (x : GangSt) : Bool := x.sup || x.shed || x.swap

/-- The identity's gang is stopped. -/
def State.idStopped (s : State) (id : Ident) : Bool := !id.host && id.node == 0x3FF && (s.gang id.part id.gang).stopped

/-! ### Latches, FIFOs and the wait table -/

def CoreSt.latch? (x : CoreSt) (r : Nat) : Option Latch := x.latches.find? (fun l => l.row == r)
def CoreSt.modLatch (x : CoreSt) (r : Nat) (f : Latch → Latch) : CoreSt :=
  { x with latches := x.latches.map (fun l => if l.row == r then f l else l) }
def State.latch? (s : State) (c r : Nat) : Option Latch := (s.core c).latch? r
def State.modLatch (s : State) (c r : Nat) (f : Latch → Latch) : State := s.setCore c ((s.core c).modLatch r f)
def State.setIntent (s : State) (c r : Nat) (i : Intent) : State := s.modLatch c r (fun l => { l with intent := i })
def State.pendingOf (s : State) (c r : Nat) : List Pending :=
  match s.latch? c r with
  | some l => l.pending
  | none => []
/-- The identity is that of row r of core c of this device. -/
def Ident.isRow (id : Ident) (c r : Nat) : Bool := !id.host && id.node == 0x3FF && id.core == c && id.row == r
/-- Stores of the row that are not yet accepted (R154). -/
def State.outstanding (s : State) (c r : Nat) : List StoreReq :=
  s.stores.filter (fun q => q.id.isRow c r)
/-- Cause codes (R124). -/
def Cause.code : Cause → Nat
  | .ill => 0x01 | .len => 0x02 | .haz => 0x03 | .bt => 0x04 | .align => 0x05 | .prot => 0x06 | .lease => 0x07
  | .xlate => 0x08 | .cwstate => 0x09 | .engine => 0x0B | .trapi => 0x0C | .brk => 0x0D | .wdog => 0x0E | .priv => 0x0F
  | .queue => 0x10 | .absent => 0x11 | .memerr => 0x12 | .rsvd => 0x13

/-- The identity is a row of this device that the watchdog ends, or has ended: work that it has stored and that comes to its engine from
then on ends with the gang's (R381). -/
def State.idEnded (s : State) (id : Ident) : Bool :=
  !id.host && id.node == 0x3FF
    && ((s.latch? id.core id.row).any (fun l => match l.intent with
        | .trap t => t.cause == .wdog
        | .run => false
        | .close _ => false
        | .stalled => false)
      || (s.rowState id.core id.row == stFault && bitsAt (s.slot id.core id.row 3) 32 8 == Cause.wdog.code))

/-- The address and length of a pending access, and whether it goes through row space. -/
def PendOp.access : PendOp → Option (Bool × Nat × Nat)
  | .load _ n _ g ea _ => some (!g, ea, n)
  | .loadMany _ n g ea => some (!g, ea, 8 * n)
  | .atomic i ea _ _ => i.operands?.map (fun o => (o.rowSpace, ea, 8))
  | .lock _ ea => some (false, ea / 64 * 64, 64)
  | .value .. | .taken .. | .rowAlu .. | .gresize .. | .launch .. => none

/-- One more instruction has issued since the store (R154). -/
def StoreReq.older (q : StoreReq) : StoreReq := { q with age := q.age + 1 }

/-- The row leaves its READY FIFO. -/
def State.leaveFifo (s : State) (c r : Nat) : State :=
  s.setCore c { s.core c with fifo := (s.core c).fifo.filter (fun e => e.row != r) }
/-- The row enters the tail of its class FIFO (R111). -/
def State.enterFifo (s : State) (c r : Nat) : State :=
  s.setCore c { s.core c with fifo := (s.core c).fifo ++ [{ row := r, age := 0 }] }
/-- The row stalls in no `gstop` any more (R370). -/
def State.leaveStop (s : State) (c r : Nat) : State :=
  if (s.core c).gstops.any (fun e => e.row == r) then
    s.setCore c { s.core c with gstops := (s.core c).gstops.filter (fun e => e.row != r) }
  else s
/-- The row is to stall in no `gbar` again after a `tret` (R125, log 55). -/
def State.leaveBar (s : State) (c r : Nat) : State :=
  if (s.core c).barred.contains r then
    s.setCore c { s.core c with barred := (s.core c).barred.filter (fun x => x != r) }
  else s
/-- STATE := READY, at the FIFO tail. -/
def State.makeReady (s : State) (c r : Nat) : State :=
  ((s.quicken (s.partid c) (ctlGang (s.ctl c r))).setRowState c r stReady).enterFifo c r
/-- The latch of a row is freed (R109). -/
def State.freeLatch (s : State) (c r : Nat) : State :=
  s.setCore c { s.core c with latches := (s.core c).latches.filter (fun l => l.row != r) }

/-- Free wait-table entries remain (R108). -/
def State.waitRoom (s : State) (c : Nat) : Bool := (s.core c).waits.length < 64
def State.addWait (s : State) (c : Nat) (e : WaitEntry) : State :=
  s.setCore c { s.core c with waits := (s.core c).waits ++ [e] }
def State.dropWaits (s : State) (c : Nat) (p : WaitEntry → Bool) : State :=
  s.setCore c { s.core c with waits := (s.core c).waits.filter (fun e => !p e) }
/-- Every entry of the row is freed (R108). -/
def State.freeWaits (s : State) (c r : Nat) : State := s.dropWaits c (fun e => e.row == r)
def WaitOn.isBarrier : WaitOn → Bool
  | .barrier _ _ => true
  | _ => false
/-- An entry that a `wait` on tags or time holds (R108). -/
def WaitOn.isWait : WaitOn → Bool
  | .tagsAll _ | .tagsAny _ | .time _ => true
  | .barrier _ _ | .timedClasp => false
/-- The entry of a cancelled or completed `wait` is freed; the barrier entry and a timed clasp's stay. -/
def State.freeWaitOp (s : State) (c r : Nat) : State := s.dropWaits c (fun e => e.row == r && e.on.isWait)

/-- A wake of a row that waits (R107, R138): READY at the FIFO tail, or WAITKIND cleared while STOPPED. -/
def State.wake (s : State) (c r : Nat) : State :=
  if s.rowState c r = stWait then (s.setWaitKind c r 0).makeReady c r
  else if s.rowState c r = stStopped then s.setWaitKind c r 0
  else s

/-! ### Protection (R70, R71) and leases (R89) -/

/-- The check of R71 on a row of core c; none when it allows the access. -/
def State.rowDenied (s : State) (id : Ident) (c r : Nat) (write : Bool) : Bool :=
  let x := s.core c
  if id.part ≠ s.partid c then true
  else if id.mode then false
  else if s.isLogRow c r then true
  else
    match (upto 16).find? (fun i =>
      bitAt (x.rangeB.get 0 i) 0 && decide (bitsAt (x.rangeA.get 0 i) 0 12 ≤ r) &&
      decide (r ≤ bitsAt (x.rangeA.get 0 i) 16 12)) with
    | none => false
    | some i =>
      let b := x.rangeB.get 0 i
      (bitAt b 3 && bitsAt b 8 12 != id.gang) || (!write && !bitAt b 1) || (write && !bitAt b 2)

/-- One range of a lease covers the bytes with the right (R89). -/
def LRange.covers (l : LRange) (va n : Nat) (write : Bool) : Bool :=
  decide (l.base ≤ va) && decide (va + n ≤ l.base + l.bytes) && (l.wr || !write)
/-- Two byte ranges overlap. -/
def overlaps (a n b m : Nat) : Bool := decide (a < b + m) && decide (b < a + n)

/-- The lease of the accessor's gang grants the access; supervisor rows are not checked (R89). DESIGN CHOICE (log 67): the bits of
the address are compared with those of the range as they stand, so NODE 0x3FF and this device's own id are two addresses here. -/
def State.leaseGrants (s : State) (id : Ident) (va n : Nat) (write : Bool) : Bool :=
  id.mode ||
    match (s.gang id.part id.gang).lease with
    | none => false
    | some rs => rs.any (fun l => l.covers va n write)

/-- The access touches a range under revocation: it needs a right that is being removed there (R91). The bits of the address are
compared as `leaseGrants` compares them (log 67). -/
def State.revokes (s : State) (id : Ident) (va n : Nat) (write : Bool) : Bool :=
  !id.mode &&
    match (s.gang id.part id.gang).revoking with
    | none => false
    | some v => v.ranges.any (fun l => overlaps l.base l.bytes va n && (write || !l.wr))

/-! ### Addresses and translation (R72 to R78) -/

def vaNode (va : Nat) : Nat := va / 2 ^ 47 % 1024
def vaRegion (va : Nat) : Nat := va / 2 ^ 45 % 4
def vaUnit (va : Nat) : Nat := va / 2 ^ 36 % 512
def vaOff (va : Nat) : Nat := va % 2 ^ 36

/-- The address names this device (R72). -/
def State.isLocal (s : State) (va : Nat) : Bool := vaNode va == 0x3FF || vaNode va == s.fabric.nodeId
/-- The address with this device's id replaced by 0x3FF (R287). -/
def State.canonVa (s : State) (va : Nat) : Nat :=
  if vaNode va == s.fabric.nodeId then va - vaNode va * 2 ^ 47 + 0x3FF * 2 ^ 47 else va

/-- An access that nothing else holds, of an engine, of the dispatcher or of the host, is held at the router of the grove that its address
names, while that grove is idle, and starts its wake (R349). -/
def State.knock (s : State) (va : Nat) : State :=
  let u := vaUnit va
  let g := if u < numCores then groveOf u else u - 0x100
  if vaRegion va == 2 && decide (u < 0x140) && (s.grove g).idle != 0 && !s.knocks.contains g then { s with knocks := s.knocks ++ [g] } else s

/-- The translation point of an address: a stack, a CXL port or the IO die (R74, R77). -/
def pointOf (va : Nat) : Nat :=
  match vaRegion va with
  | 0 => va / 256 % 8
  | 1 => 8 + va / 4096 % 4
  | _ => 12

/-- A CXL port (R401). -/
def State.port (s : State) (k : Nat) : PortSt := s.ports.get PortSt.reset k

/-- The key of a page offset in a frame (R74); none past the capacity of R10 and R401, or behind a port that is not trained (log
13, 64). -/
def State.frameKey (s : State) (region frame o : Nat) : Option Nat :=
  match region with
  | 0 =>
    let l := frame * 8192 + o / 2048 * 256 + o % 256
    if l < 2 ^ 36 then some (dramKey (o / 256 % 8) l) else none
  | 1 =>
    let l := frame * 16384 + o / 16384 * 4096 + o % 4096
    let p := s.port (o / 4096 % 4)
    if p.trained && decide (l < min p.bytes (2 ^ 41)) then some (cxlKey (o / 4096 % 4) l) else none
  | _ => some (hostKey (frame * 65536 + o))

/-- The key that a byte's key is served from: the remap SRAM when its atom is remapped (R86). -/
def State.physKey (s : State) (k : Nat) : Nat :=
  if 2 ^ 40 ≤ k ∧ k < 2 ^ 48 then
    let st := (k - 2 ^ 40) / 2 ^ 36
    match (s.stack st).remap.findIdx? (fun a => a == (k - 2 ^ 40) % 2 ^ 36 / 32) with
    | some i => remapKey st i (k % 32)
    | none => k
  else k

/-- n bytes from a key, remapped atoms served from the SRAM. -/
def State.readPhys (s : State) (k n : Nat) : List Byte := (upto n).map (fun i => s.mem.read (s.physKey (k + i)))
/-- Bytes written from a key; atoms covered whole lose their error (R85). -/
def State.writePhys (s : State) (k : Nat) (bs : List Byte) : State :=
  let m := (upto bs.length).foldl (fun (m : Memory) i => m.write (s.physKey (k + i)) (bs.getD i 0)) s.mem
  { s with mem := m }.cleanse k bs.length

/-- The memory of a key as its stack's memory-side cache gives it to a walker: a dirty slice line of REGION 00 is recalled from
the slice that holds it (R77, R79). -/
def State.homeRead (s : State) (k n : Nat) : List Byte :=
  match s.groves.items.findSome? (fun (e : Nat × GroveSt) => (s.grove e.1).lines.find? (fun l =>
      l.dirty && l.line / 2 ^ 39 % 4 == 0 && l.key == k - k % 64)) with
  | some l => ((bytesOfNat 64 l.data.toNat).drop (k % 64)).take n
  | none => s.readPhys k n

/-- A page-table entry at a stack-local address; none when its atom holds an error (R85). DESIGN CHOICE (log 52): a root or a
table pointer that leads past the memory of its stack, or to a table that is not aligned as R75 says, is followed as it stands. -/
def State.pte? (s : State) (stack addr : Nat) : Option Word :=
  if s.poisoned (dramKey stack addr) 8 then none else some (word (natOfBytes (s.homeRead (dramKey stack addr) 8)))

/-- The reserved bits of an entry are zero and V is set (R76). -/
def pteValid (e : Word) : Bool := bitAt e 0 && bitsAt e 6 6 == 0 && bitsAt e 48 16 == 0
/-- The next table of an entry, or of a root (R76, log 14): its stack and its stack-local address, whatever they are (log 52). -/
def pteNext (e : Word) : Nat × Nat := (bitsAt e 45 3, bitsAt e 12 33 * 4096)

/-- The root of a region (R75). -/
def PartSt.root (x : PartSt) (region : Nat) : Word :=
  match region with
  | 0 => x.root00
  | 1 => x.root01
  | _ => x.root11

/-- A leaf found by a walk: where the entry lies, the entry, and the page's size (R75). -/
structure Leaf where
  stack : Nat
  addr  : Nat
  entry : Word
  size  : Nat
  deriving DecidableEq, Repr

/-- The three-level walk of R75 on the tables as they stand: the leaf, XLATE, or MEMERR at an entry with an error (R85). -/
def State.walkTable (s : State) (part va : Nat) : Except Cause Leaf :=
  let root := (s.part part).root (vaRegion va)
  let t1 := pteNext root
  match s.pte? t1.1 (t1.2 + 8 * (va / 2 ^ 33 % 4096)) with
  | none => .error .memerr
  | some e1 =>
    if !pteValid e1 || bitAt e1 2 then .error .xlate
    else
      let t2 := pteNext e1
      let a2 := t2.2 + 8 * (va / 2 ^ 21 % 4096)
      match s.pte? t2.1 a2 with
      | none => .error .memerr
      | some e2 =>
        if !pteValid e2 then .error .xlate
        else if bitAt e2 2 then
          if bitsAt e2 12 9 == 0 then .ok { stack := t2.1, addr := a2, entry := e2, size := 2 ^ 21 } else .error .xlate
        else
          let t3 := pteNext e2
          let a3 := t3.2 + 8 * (va / 2 ^ 16 % 32)
          match s.pte? t3.1 a3 with
          | none => .error .memerr
          | some e3 =>
            if pteValid e3 && bitAt e3 2 && bitsAt e3 12 4 == 0 then
              .ok { stack := t3.1, addr := a3, entry := e3, size := 2 ^ 16 }
            else .error .xlate

/-- The leaf that a walk finds. -/
def State.walk (s : State) (part va : Nat) : Option Leaf :=
  match s.walkTable part va with
  | .ok l => some l
  | .error _ => none

/-- The TLB of the translation point answers (R77). -/
def State.tlbHit (s : State) (part va : Nat) : Option TlbEntry :=
  s.tlb.find? (fun e => e.point == pointOf va && e.part == part && e.region == vaRegion va
    && e.page == va % 2 ^ 45 / e.size)

/-- The key of an address, as a walk finds it without setting A (R118, R131, R157). -/
def State.peek (s : State) (part va : Nat) : Option Nat :=
  match s.tlbHit part va with
  | some e => s.frameKey (vaRegion va) e.frame (va % e.size)
  | none =>
    match s.walk part va with
    | some l => s.frameKey (vaRegion va) (bitsAt l.entry 16 32) (va % l.size)
    | none => none

/-- The cause of a translation that fails: XLATE (R77), or MEMERR when an entry on the way holds an error (R85). -/
def State.translateCause (s : State) (part va : Nat) : Cause :=
  match s.tlbHit part va, s.walkTable part va with
  | none, .error k => k
  | _, _ => .xlate

/-! ### Recalls by the directory of a stack (R79) -/

/-- A slice line of REGION 00, which a stack's memory gave. -/
def SliceLine.home (l : SliceLine) : Bool := vaRegion (l.line * 64) == 0 && decide (2 ^ 40 ≤ l.key)

/-- A line's 64 bytes written to the memory of a key. An atom that no store has covered whole keeps its error (R85). -/
def State.writeLineAt (s : State) (k : Nat) (l : SliceLine) : State :=
  { s.writePhys k (bytesOfNat 64 l.data.toNat) with poison := s.poison }

/-- The lines of REGION 00 that `p` picks, by grove, are recalled: the dirty ones are written to the memory they came from, and
all of them stay, clean, or are invalidated (`drop`). -/
def State.recall (s : State) (p : Nat → SliceLine → Bool) (drop : Bool) : State :=
  s.groves.items.foldl (fun (t : State) (e : Nat × GroveSt) =>
    let ls := (s.grove e.1).lines
    if ls.any (fun l => l.home && p e.1 l) then
      let t1 := (ls.filter (fun l => l.home && p e.1 l && l.dirty)).foldl (fun (u : State) l => u.writeLineAt l.key l) t
      let rest := if drop then ls.filter (fun l => !(l.home && p e.1 l))
        else ls.map (fun l => if l.home && p e.1 l then { l with dirty := false } else l)
      t1.setGrove e.1 { t1.grove e.1 with lines := rest }
    else t) s

/-- Every slice copy of the 64 bytes at a key is recalled: a read or a write by a party without a slice (R79). -/
def State.recallKey (s : State) (k : Nat) (drop : Bool) : State := s.recall (fun _ l => l.key == k - k % 64) drop

/-- The copies of a partition's line in the slices of other groves are recalled: a read or a write by grove `g` (R79). -/
def State.recallOthers (s : State) (g part line : Nat) (drop : Bool) : State :=
  s.recall (fun h l => h != g && l.part == part && l.line == line) drop

/-- Bytes written at a stack by the device itself: slice copies are invalidated first (R79). -/
def State.homeWrite (s : State) (k : Nat) (bs : List Byte) : State := (s.recallKey k true).writePhys k bs

/-- Receiver-side translation (R77): the key of the byte, or none (XLATE), and the state after the walk, which sets A in a
leaf it fills and tags the fill with the generation (R78). -/
def State.translate (s : State) (part va : Nat) (write : Bool) : Option Nat × State :=
  match s.tlbHit part va with
  | some e =>
    if write && !e.w then (none, s) else (s.frameKey (vaRegion va) e.frame (va % e.size), s)
  | none =>
    match s.walk part va with
    | none => (none, s)
    | some l =>
      let s1 := if bitAt l.entry 3 then s
        else s.homeWrite (dramKey l.stack l.addr) (bytesOfNat 8 (putBit l.entry 3 true).toNat)
      let e : TlbEntry := {
        point := pointOf va, part := part, region := vaRegion va, page := va % 2 ^ 45 / l.size,
        size := l.size, frame := bitsAt l.entry 16 32, w := bitAt l.entry 1, gen := (s.part part).gen }
      let s2 := { s1 with tlb := s1.tlb ++ [e] }
      if write && !bitAt l.entry 1 then (none, s2) else (s.frameKey (vaRegion va) e.frame (va % l.size), s2)

/-! ### The two paths of a row to its own array (R105, R159, R363) -/

/-- The address is one of core c's own array, reached through REGION 10. -/
def State.loopBack (s : State) (c va : Nat) : Bool := s.isLocal va && vaRegion va == 2 && vaUnit va == c && vaOff va < 2 ^ 20

/-- A row ALU form, whose reads and writes are R and W accesses through row space (R191). -/
def PendOp.isRowAlu : PendOp → Bool
  | .rowAlu .. => true
  | .value .. | .taken .. | .load .. | .loadMany .. | .atomic .. | .lock .. | .gresize .. | .launch .. => false

/-- A pending access of a row of core c reaches the array of c through row space (`rs`), or by the loop-back path. -/
def State.onPath (s : State) (c : Nat) (rs : Bool) (p : Pending) : Bool :=
  match p.op.access with
  | some (true, _, _) => rs
  | some (false, ea, _) => !rs && s.loopBack c ea
  | none => rs && p.op.isRowAlu

/-- An access of the row that is older than `seq`, by the same path, has not been performed (R363). -/
def State.olderOnPath (s : State) (c r : Nat) (rs : Bool) (seq : Nat) : Bool :=
  (s.pendingOf c r).any (fun p => decide (p.seq < seq) && s.onPath c rs p)

/-- Two stores come from one party to one core by one path (R326, R363, R397). -/
def RowReq.alongside (a b : RowReq) : Bool :=
  a.id.host == b.id.host && a.id.node == b.id.node && a.id.core == b.id.core && a.id.row == b.id.row && a.core == b.core
    && a.rs == b.rs

/-- A store has arrived at its row: no older row-space access of its own row is on its way (R105, R363). -/
def State.arrived (s : State) (q : RowReq) : Bool := !(q.rs && s.olderOnPath q.id.core q.id.row true q.seq)

/-- The k-th store may be applied: it has arrived, and no store before it has arrived at the row or came by the same path (R105, R363,
R397). An OPEN row takes it at a boundary, also while it drains (log 73). -/
def State.reqMay (s : State) (k : Nat) (q : RowReq) : Bool :=
  s.arrived q && (s.rowReqs.take k).all (fun x => !((x.core == q.core && x.row == q.row && s.arrived x) || x.alongside q))

/-- An access to row t of core c waits behind a store that arrived there before it (R105). -/
def State.rowWaits (s : State) (c t : Nat) : Bool := s.rowReqs.any (fun q => q.core == c && q.row == t && s.arrived q)

/-- A store of a row through row space, older than `seq`, waits for its turn at its row (R105, R363). -/
def State.olderQueued (s : State) (c r seq : Nat) : Bool :=
  s.rowReqs.any (fun q => q.rs && q.id.isRow c r && decide (q.seq < seq))

/-- A row-space access of row r to row t of its core waits: for an older access of its path, or for a store that has arrived at
row t before it (R105, R363). -/
def State.rowSpaceHeld (s : State) (c r seq t : Nat) : Bool :=
  s.olderOnPath c r true seq || s.olderQueued c r seq
    || s.rowReqs.any (fun q => q.core == c && q.row == t && !(q.rs && q.id.isRow c r) && s.arrived q)

/-- A row ALU access waits for the older accesses of its row through row space (R191, R357, R363). Row ALU forms take their own times
(R190) and are kept apart by their hazards alone. -/
def State.aluHeld (s : State) (c r seq : Nat) : Bool :=
  (s.pendingOf c r).any (fun p => decide (p.seq < seq) && !p.op.isRowAlu && s.onPath c true p) || s.olderQueued c r seq

/-- A message of row r of core c writes to the array of c (R363). -/
def State.loopBackMsg (s : State) (c r : Nat) (m : Msg) : Bool :=
  m.chan == 0 && m.id.isRow c r && m.mkind == 1 && s.loopBack c m.addr

/-- A loop-back access of row r waits for an older access of its path (R363). -/
def State.loopBackHeld (s : State) (c r seq : Nat) : Bool :=
  s.olderOnPath c r false seq
    || s.stores.any (fun q => q.id.isRow c r && decide (q.seq < seq) && s.loopBack c q.va)
    || s.msgs.any (fun m => decide (m.seq < seq) && s.loopBackMsg c r m)
    || s.rowReqs.any (fun q => !q.rs && q.core == c && q.id.isRow c r && decide (q.seq < seq))

/-- An outside access has been applied at a boundary of an OPEN row, which may hold its issue (R105, R110). -/
def State.touch (s : State) (c r : Nat) : State :=
  if (s.latch? c r).isSome then s.modLatch c r (fun l => { l with hold := 2 }) else s

/-! ### Slices (R79 to R81) -/

def GroveSt.line? (x : GroveSt) (part line : Nat) : Option SliceLine :=
  x.lines.find? (fun l => l.part == part && l.line == line)

/-- A dirty line written back to where its address translates; a line without a translation is dropped (log 15). -/
def State.writeBackLine (s : State) (l : SliceLine) : State :=
  match s.translate l.part (l.line * 64) false with
  | (some k, s1) => s1.writeLineAt k l
  | (none, s1) => s1

/-- The dirty lines of a grove that `p` picks are written back; `keep` keeps them, clean, else they are invalidated. -/
def State.flushLines (s : State) (g : Nat) (p : SliceLine → Bool) (keep : Bool) : State :=
  let s1 := ((s.grove g).lines.filter (fun l => p l && l.dirty)).foldl (fun t l => t.writeBackLine l) s
  let ls := (s1.grove g).lines
  let rest := if keep then ls.map (fun l => if p l then { l with dirty := false } else l) else ls.filter (fun l => !p l)
  s1.setGrove g { s1.grove g with lines := rest }

/-- The set of a slice that a line falls in: 4096 sets of 64-byte lines (R10; log 23). -/
def setOf (line : Nat) : Nat := line % 4096

/-- A pin of a partition's line. -/
def GroveSt.pin? (x : GroveSt) (part line : Nat) : Option Pin := x.pins.find? (fun p => p.part == part && p.line == line)

/-- The cache ways of a slice: those below its scratch, less the two lowest while they hold a swapped-out partition (R81,
R374). -/
def GroveSt.cacheWays (x : GroveSt) : List Nat :=
  (upto (16 - x.ways)).filter (fun w => !(x.swapHeld && decide (w < 2)))

/-- The way is pinned in a set. -/
def GroveSt.wayPinned (x : GroveSt) (set w : Nat) : Bool := x.pins.any (fun p => p.way == w && setOf p.line == set)

/-- The line of a set that lies in a way. -/
def GroveSt.inWay? (x : GroveSt) (set w : Nat) : Option SliceLine := x.lines.find? (fun l => l.way == w && setOf l.line == set)

/-- The way that a line of a partition takes when it is fetched: the one it is pinned in, else the lowest unpinned way of its set
that is empty, else the lowest unpinned way (log 51); none where no way of the set is left to it, and the line is then not cached
(R374). -/
def GroveSt.fillWay (x : GroveSt) (part line : Nat) : Option Nat :=
  match x.pin? part line with
  | some p => some p.way
  | none =>
    let ws := x.cacheWays.filter (fun w => !x.wayPinned (setOf line) w)
    match ws.find? (fun w => (x.inWay? (setOf line) w).isNone) with
    | some w => some w
    | none => ws.head?

/-- Way `w` of a set is made empty: its line is written back and invalidated (R79). -/
def State.emptyWay (s : State) (g set w : Nat) : State :=
  match (s.grove g).inWay? set w with
  | none => s
  | some _ => s.flushLines g (fun l => l.way == w && setOf l.line == set) false

/-- n bytes read through a grove's slice: a line absent is fetched from its key into a way of its set (R79, R80). -/
def State.readSlice (s : State) (g part va key n : Nat) : List Byte × State :=
  let line := va / 64
  match (s.grove g).line? part line with
  | some l => (((bytesOfNat 64 l.data.toNat).drop (va % 64)).take n, s)
  | none =>
    match (s.grove g).fillWay part line with
    | none => (s.readPhys key n, s)
    | some w =>
      let s1 := s.emptyWay g (setOf line) w
      let d := s1.readPhys (key - va % 64) 64
      ((d.drop (va % 64)).take n,
        s1.setGrove g { s1.grove g with lines := (s1.grove g).lines ++ [{
          part := part, line := line, data := BitVec.ofNat 512 (natOfBytes d), dirty := false, way := w, key := key - va % 64 }] })

/-- Bytes written into a grove's slice: the line becomes dirty. A line that cannot be cached is written in memory. -/
def State.writeSlice (s : State) (g part va key : Nat) (bs : List Byte) : State :=
  let s1 := (s.readSlice g part va key 1).2
  let line := va / 64
  if ((s1.grove g).line? part line).isNone then s1.writePhys key bs else
  let put (l : SliceLine) : SliceLine :=
    let old := bytesOfNat 64 l.data.toNat
    let d := old.take (va % 64) ++ bs ++ old.drop (va % 64 + bs.length)
    { l with data := BitVec.ofNat 512 (natOfBytes d), dirty := true }
  s1.setGrove g { s1.grove g with lines := (s1.grove g).lines.map (fun l => if l.part == part && l.line == line then put l else l) }

/-- A line of REGION 01 or 11, the regions whose slice copies are not coherent (R80). -/
def SliceLine.far (l : SliceLine) : Bool := vaRegion (l.line * 64) % 2 == 1

/-- The dirty lines of REGIONs 01 and 11 of a grove's slice are written back and stay, clean: a release, or a fence with W
before it, at system scope (R80). -/
def State.sysRelease (s : State) (g : Nat) : State := s.flushLines g SliceLine.far true
/-- The clean lines of REGIONs 01 and 11 of a grove's slice are invalidated: an acquire, or a fence with R after it, at system
scope (R80). -/
def State.sysAcquire (s : State) (g : Nat) : State :=
  s.setGrove g { s.grove g with lines := (s.grove g).lines.filter (fun l => l.dirty || !l.far) }

/-! ### Dirty logging (R87, R88) -/

/-- A logged write: the block is in the filter, or it is inserted and one entry is appended; none when both halves are
full. -/
def State.logWrite (s : State) (c va : Nat) : Option State :=
  let x := s.core c
  let blk := va / 2 ^ 16
  if x.filter.contains blk then some s
  else
    let row := (x.dlogbase + x.dlogPos / 32) % 4096
    let slot := x.dlogPos % 32
    if bitAt (s.slot c row slot) 0 then none
    else
      let f := if x.filter.length < 64 then x.filter ++ [blk] else x.filter.drop 1 ++ [blk]
      some ((s.setCore c { x with filter := f, dlogPos := (x.dlogPos + 1) % 512 }).setSlot c row slot (word (blk * 2 ^ 16 + 1)))

/-! ### Accesses by virtual address -/

/-- The outcome of an access: done, refused with a cause, or held until something changes. -/
inductive Acc (α : Type) where
  | ok (v : α)
  | fault (c : Cause)
  | hold
  deriving Repr

/-- The offset a core unit names lies in its array (R73): the row. -/
def arrayRow (va : Nat) : Option Nat := if vaOff va < 2 ^ 20 then some (vaOff va / 256) else none

/-- A load of n bytes, not crossing a 64-byte line, from REGION 00, 01 or 11 of this device; `g` is the accessor's grove,
none for a party without a slice. Lease and translation have been checked for the kind of access. -/
def State.loadMem (s : State) (g : Option Nat) (part va0 n : Nat) : Acc (List Byte) × State :=
  let va := s.canonVa va0
  match s.translate part va false with
  | (none, s1) => (.fault (s.translateCause part va), s1)
  | (some k, s1) =>
    if s1.poisoned k n then (.fault .memerr, s1)
    else
      match g with
      | none =>
        let s2 := if vaRegion va = 0 then s1.recallKey k false else s1
        (.ok (s2.readPhys k n), s2)
      | some gr =>
        let s2 := if vaRegion va = 0 then s1.recallOthers gr part (va / 64) false else s1
        let r := s2.readSlice gr part va k n
        (.ok r.1, r.2)

/-- A store of bytes, not crossing a 64-byte line, into REGION 00, 01 or 11 of this device. -/
def State.storeMem (s : State) (g : Option Nat) (part va0 : Nat) (bs : List Byte) : Acc Unit × State :=
  let va := s.canonVa va0
  match s.translate part va true with
  | (none, s1) => (.fault (s.translateCause part va), s1)
  | (some k, s1) =>
    if s1.partlyPoisoned k bs.length then (.fault .memerr, s1)
    else
      match g with
      | none => (.ok (), (if vaRegion va = 0 then s1.recallKey k true else s1).writePhys k bs)
      | some gr =>
        let s2 := if vaRegion va = 0 then s1.recallOthers gr part (va / 64) true else s1
        (.ok (), (s2.writeSlice gr part va k bs).cleanse k bs.length)

/-- Cuts the n bytes from va into pieces that cross no 64-byte line: offset and length of each. -/
def pieces (va : Nat) : Nat → Nat → List (Nat × Nat)
  | 0, _ => []
  | fuel + 1, n =>
    if n = 0 then [] else
      let k := min n (64 - va % 64)
      (va, k) :: pieces (va + k) fuel (n - k)

/-- Loads every piece in order; the first fault ends it. -/
def State.loadPieces (s : State) (g : Option Nat) (part : Nat) : List (Nat × Nat) → Acc (List Byte) × State
  | [] => (.ok [], s)
  | (va, n) :: ps =>
    match s.loadMem g part va n with
    | (.ok bs, s1) =>
      match s1.loadPieces g part ps with
      | (.ok cs, s2) => (.ok (bs ++ cs), s2)
      | (.fault c, s2) => (.fault c, s2)
      | (.hold, s2) => (.hold, s2)
    | (.fault c, s1) => (.fault c, s1)
    | (.hold, s1) => (.hold, s1)

/-- `Mem(va, size)` of R5 in REGION 00 for the device itself, under a partition: descriptors, lease records and tables. -/
def State.memAt (s : State) (part va n : Nat) : Acc (List Byte) × State := s.loadPieces none part (pieces va (n + 1) n)

/-! ### Gang descriptors (R120, R121) -/

/-- A gang descriptor's fields (R120). -/
structure Desc where
  cls      : Nat
  members  : Nat
  leaseptr : Nat
  handler  : BitVec 32
  aperiod  : Nat
  aoffset  : Nat
  alead    : Nat
  wdbudget : Nat
  deriving DecidableEq, Repr

/-- A descriptor from its words; none when a reserved field is not zero (R121). -/
def descOf (ws : List Word) : Option Desc :=
  let w k := wordAt ws k
  if bitsAt (w 0) 3 13 != 0 || bitsAt (w 0) 32 32 != 0 || bitsAt (w 1) 57 7 != 0 || bitsAt (w 2) 32 32 != 0
    || bitsAt (w 4) 16 48 != 0 || w 6 != 0 || w 7 != 0 then none
  else some {
    cls := bitsAt (w 0) 0 3, members := bitsAt (w 0) 16 16, leaseptr := bitsAt (w 1) 0 57,
    handler := (w 2).setWidth 32, aperiod := bitsAt (w 3) 0 32, aoffset := bitsAt (w 3) 32 32,
    alead := bitsAt (w 4) 0 16, wdbudget := (w 5).toNat }

/-- The address of a gang's descriptor (R120). -/
def State.descVa (s : State) (part gang : Nat) : Nat := (s.part part).gangbase.toNat + 64 * gang

/-- The descriptor of a gang as the device reads it at a use; none when it breaks R121. DESIGN CHOICE (log 53): one that cannot
be read, for want of a translation or for an error, counts as one that breaks R121. -/
def State.descriptor (s : State) (part gang : Nat) : Option Desc × State :=
  match s.memAt part (s.descVa part gang) 64 with
  | (.ok bs, s1) => (descOf (wordsOf bs), s1)
  | (.fault _, s1) => (none, s1)
  | (.hold, s1) => (none, s1)

/-! ### Fault records (R126, R318, R367, R368) -/

/-- RESUME of a cause (R124). -/
def Cause.resume : Cause → Bool
  | .ill | .len | .align | .cwstate | .trapi | .brk | .priv | .queue | .rsvd => true
  | .haz | .bt | .prot | .lease | .xlate | .engine | .wdog | .absent | .memerr => false

/-- The words of a fault record (R126). -/
def State.record (s : State) (kind : Nat) (cause : Nat) (row : Nat) (tw ctrl : Word) (origin : Nat) : List Word :=
  [word (kind + cause * 256), word row, tw, ctrl, s.time, word origin, 0, 0]

/-- A record held by the management controller, or counted as dropped (R368). -/
def holdIn (held : List HeldRec) (ws : List Word) (t : Word) : List HeldRec :=
  let full := (held.filter (fun h => match h with | .record _ => true | .dropped _ _ => false)).length ≥ 256
  if !full then held ++ [.record ws]
  else
    match held.getLast? with
    | some (.dropped n t0) => held.dropLast ++ [.dropped (n + 1) t0]
    | some (.record _) => held ++ [.dropped 1 t]
    | none => held ++ [.dropped 1 t]

def State.holdRecord (s : State) (p : Nat) (ws : List Word) : State :=
  s.setPart p { s.part p with held := holdIn (s.part p).held ws s.time }

/-- Whether a clasp signal that the protection unit refuses (`denied`), or allows, can be delivered to a row (R23): none, or the
cause. DESIGN CHOICE (log 54): a refused signal to a row whose slot-1 atom holds an error as well is recorded with PROT. -/
def State.signalRefusal (s : State) (denied : Bool) (c r : Nat) : Option Cause :=
  if s.absent c then some .absent
  else if !s.isContext c r || denied then some .prot
  else if s.poisoned (rowKey c r 0) 32 then some .memerr
  else none

/-- Whether a clasp signal of an identity can be delivered to a row (R23). -/
def State.undeliverable (s : State) (id : Ident) (c r : Nat) : Option Cause := s.signalRefusal (s.rowDenied id c r true) c r

/-- MBXk of a core: first row and row count (R46, R318). -/
def State.ring (s : State) (c k : Nat) : Nat × Nat :=
  let w := (s.core c).mbx.get 0 k
  (bitsAt w 0 12, bitsAt w 16 12)

/-- The ring has room for an entry (R318). -/
def State.ringRoom (s : State) (c k : Nat) : Bool :=
  let r := s.ring c k
  let h := bitsAt (s.slot c r.1 0) 0 32
  let t := bitsAt (s.slot c r.1 1) 0 32
  (t + 2 ^ 32 - h) % 2 ^ 32 < 4 * (r.2 - 1)

/-- A 64-byte entry is written, TAILIDX advances, and OWNER's clasp counts it (R318). The identity is the one under which
the count is checked; `sys` where its fire is an acquire at system scope (R359, R360). -/
def State.ringAppend (s : State) (c k : Nat) (id : Ident) (bs : List Byte) (sys : Bool := false) : State :=
  let r := s.ring c k
  let q := 4 * (r.2 - 1)
  let t := bitsAt (s.slot c r.1 1) 0 32
  let i := t % q
  let key := rowKey c (r.1 + 1 + i / 4) (64 * (i % 4))
  let s1 := { s with mem := s.mem.storeBytes key bs }.cleanse key 64
  let s2 := s1.setSlot c r.1 1 (putBits (s1.slot c r.1 1) 0 32 (t + 1))
  let own := s2.slot c r.1 2
  if bitAt own 12 then
    let o := bitsAt own 0 12
    match s2.undeliverable id c o with
    | none => { s2 with arrivals := s2.arrivals ++ [{
        core := c, row := o, n := 1, id := id, sys := sys }] }
    | some cause => s2.holdRecord id.part (s2.record 2 cause.code (rowVa 0x3FF c o) 0 0 id.origin)
  else s2

/-- A record goes to the partition supervisor's mailbox (R126): appended, held while the partition is swapped out, the ring is full
or its header atom holds an error (R318, R368, R377), or while the grove of the ring sleeps, which the record wakes (R349); dropped and
counted while the ring is disabled. -/
def State.postRecord (s : State) (p : Nat) (ws : List Word) : State :=
  if (s.part p).saved.isSome then s.holdRecord p ws else
  match s.lowCore p with
  | none => { s with mgmt := { s.mgmt with dropped := s.mgmt.dropped + 1 } }
  | some c =>
    let r := s.ring c 0
    if r.2 = 0 then { s with mgmt := { s.mgmt with dropped := s.mgmt.dropped + 1 } }
    else if (s.part p).held.isEmpty && s.ringRoom c 0 && !s.poisoned (rowKey c r.1 0) 32
      && !s.absent c then
      if s.asleep (groveOf c) then (s.holdRecord p ws).knock (rowVa 0x3FF c r.1)
      else s.ringAppend c 0 (Ident.supervisor p) (bytesOfWords ws)
    else s.holdRecord p ws

/-! ### Tags and waits (R138) -/

/-- The tags that a wait-table entry observes. -/
def WaitOn.mask : WaitOn → Word
  | .tagsAll m => m
  | .tagsAny m => m
  | .time _ | .barrier _ _ | .timedClasp => 0

/-- What observes tags is an acquire: at system scope where an acknowledgement has set one of them (R80, R317, R360). -/
def State.acquireTags (s : State) (c : Nat) (m : Word) : State :=
  if (s.core c).sysTags &&& m = 0 then s else s.sysAcquire (groveOf c)

/-- A wait-table entry's condition was met: its row wakes and the entry is freed, or, while the row still drains or closes,
the entry records the event (R137, R138). -/
def State.satisfy (s0 : State) (c : Nat) (e : WaitEntry) : State :=
  let s := s0.acquireTags c e.on.mask
  if s.rowState c e.row = stWait ∨ s.rowState c e.row = stStopped then
    (s.dropWaits c (fun x => x == e)).wake c e.row
  else
    s.setCore c { s.core c with waits := (s.core c).waits.map (fun x => if x == e then { x with met := true } else x) }

/-- The tag conditions that TAGS now satisfies (R138). -/
def tagsMeet (tags : Word) : WaitOn → Bool
  | .tagsAll m => (tags &&& m) == m
  | .tagsAny m => (tags &&& m) != 0
  | .time _ | .barrier _ _ | .timedClasp => false

/-- `Signal` on a tag: the bit is set and every satisfied wait wakes (R22, R138). -/
def State.setTag (s : State) (c t : Nat) : State :=
  let s1 := s.setCore c { s.core c with tags := (s.core c).tags ||| BitVec.ofNat 64 (2 ^ t) }
  ((s1.core c).waits.filter (fun e => tagsMeet (s1.core c).tags e.on && !e.met)).foldl (fun t e => t.satisfy c e) s1

/-! ### Clasps (R170, R171) and completion signals (R22, R23) -/

/-- A clasp deadline has passed (R18). -/
def deadlinePassed (time : Word) (d : Nat) : Bool := (time.toNat + 2 ^ 29 - d) % 2 ^ 29 < 2 ^ 28

/-- The fire of a clasp is an acquire: at system scope where it consumes an arrival that R360 puts there (R80). -/
def State.acquireFire (s : State) (c r : Nat) : State :=
  if (s.core c).sysClasps.contains r then
    (s.setCore c { s.core c with sysClasps := (s.core c).sysClasps.filter (fun x => x != r) }).sysAcquire (groveOf c)
  else s

/-- The clasp fires (R171): COUNT less EXPECT, ARMED and TIMED cleared, GEN toggled, and a row waiting on it wakes. -/
def State.fireClasp (s : State) (c r : Nat) : State :=
  let cl := s.slot c r 1
  let cl1 := putBits cl 0 16 (bitsAt cl 0 16 - bitsAt cl 16 16)
  let cl2 := putBit (putBit (putBit cl1 32 false) 33 false) 34 (!bitAt cl 34)
  let s1 := s.setSlot c r 1 cl2
  let s2 := if bitAt cl 33 then s1.dropWaits c (fun e => e.row == r && e.on == .timedClasp) else s1
  let s3 := (s2.setCore c { s2.core c with clipped := (s2.core c).clipped.filter (fun x => x != r) }).acquireFire c r
  if (s3.rowState c r = stWait ∨ s3.rowState c r = stStopped) ∧ ctlWait (s3.ctl c r) = 1 then s3.wake c r else s3

/-- Evaluation of a clasp (R171). -/
def State.evalClasp (s : State) (c r : Nat) : State :=
  let cl := s.slot c r 1
  if bitAt cl 32 && decide (bitsAt cl 16 16 ≤ bitsAt cl 0 16) && (!bitAt cl 33 || deadlinePassed s.time (bitsAt cl 35 29)) then
    s.fireClasp c r
  else s

/-- An arrival of n at a clasp (R170): COUNT saturates, a clipped arrival posts one KIND 4 record until the next fire, and
the clasp is evaluated. -/
def State.arrive (s : State) (c r n origin : Nat) : State :=
  let cl := s.slot c r 1
  let sum := bitsAt cl 0 16 + n
  let s1 := s.setSlot c r 1 (putBits cl 0 16 (min sum 65535))
  let s2 :=
    if 65535 < sum && !(s1.core c).clipped.contains r then
      let s3 := s1.setCore c { s1.core c with clipped := (s1.core c).clipped ++ [r] }
      s3.postRecord (s3.partid c) (s3.record 4 0 (rowVa 0x3FF c r) 0 (s3.ctl c r) origin)
    else s1
  s2.evalClasp c r

/-- An arrival that has come to its row, which may have been unmarked, lost or hit by an error since the signal was checked (R23). The
check of R71 has been made and is not made again. -/
def State.arriveAt (s : State) (a : Arrival) : State :=
  match s.signalRefusal false a.core a.row with
  | some cause => s.postRecord a.id.part (s.record 2 cause.code (rowVa 0x3FF a.core a.row) 0 0 a.id.origin)
  | none =>
    let s1 := if a.sys && !(s.core a.core).sysClasps.contains a.row then
      s.setCore a.core { s.core a.core with sysClasps := (s.core a.core).sysClasps ++ [a.row] } else s
    s1.arrive a.core a.row a.n a.id.origin

/-- The mark in `Msg.chan` of a COUNT that this device sends on for a message of another one. -/
abbrev countChan : Nat := 14

/-- The identity under which this device sends a count on: as its own, so that the ACK comes back to it. DESIGN CHOICE (log 62): the
spec does not say which device a count names that is sent on for another. -/
def Ident.onward (id : Ident) : Ident := if id.host then id else { id with node := 0x3FF }

/-- A COUNT message to another device on behalf of a row (R309). -/
def State.sendCount (s : State) (id : Ident) (addr n : Nat) : State :=
  State.bump { s with msgs := s.msgs ++ [{
      mkind := 5, cls := 1, chan := if id.host || id.node == 0x3FF then 0 else countChan, via := 0, id := id.onward, addr := addr, aux := 0, data := [],
      count := some (word (vaNode addr + vaUnit addr % 256 * 2 ^ 10 + vaOff addr / 256 % 4096 * 2 ^ 18 + n * 2 ^ 30)),
      ackreq := false, acktag := 0, remote := false, inCore := false, sys := false, seq := s.seq }] }

/-- A count of n for the clasp at a slot-0 address, delivered or discarded with a KIND 2 record (R23, R170); `sys` where its fire
is an acquire at system scope (R360). DESIGN CHOICE (log 54): the spec names no fault for a completion address whose low byte is
zero but which lies outside REGION 10 or names no core array; such a target is valid, its count is discarded here with a KIND 2
PROT record, and to another device a COUNT goes whatever the REGION. DESIGN CHOICE (log 83): the ROW word of a record from here keeps
the NODE that the signal gave, this device's own or 0x3FF; one from a clasp's own arrival has 0x3FF. -/
def State.countAt (s : State) (id : Ident) (addr n : Nat) (sys : Bool) : State :=
  if !s.isLocal addr then s.sendCount id addr n
  else if vaRegion addr = 2 ∧ vaUnit addr < numCores ∧ vaOff addr < 2 ^ 20 then
    let c := vaUnit addr
    let r := vaOff addr / 256
    match s.undeliverable id c r with
    | none => { s with arrivals := s.arrivals ++ [{ core := c, row := r, n := n, id := id, sys := sys }] }
    | some cause => s.postRecord id.part (s.record 2 cause.code addr 0 0 id.origin)
  else s.postRecord id.part (s.record 2 Cause.prot.code addr 0 0 id.origin)

/-- The core lies in the partition of an identity, or is the core of its row (R23). -/
def State.tagOpen (s : State) (id : Ident) (c : Nat) : Bool := s.inPart id.part c || (!id.host && id.node == 0x3FF && id.core == c)

/-- `Signal(target)` for work of an identity (R22, R23). A tag signal wakes the grove of its core (R349). -/
def State.signal (s : State) (id : Ident) : Target → State
  | .none => s
  | .tag c t =>
    if s.tagOpen id c then (s.rouse (groveOf c)).setTag c t
    else s.postRecord id.part (s.record 2 Cause.prot.code 0 0 0 id.origin)
  | .clasp a => s.countAt id a 1 false

/-- The acknowledgement of a message sets its tag (R317); the `wait` or `tagffr` that observes it is an acquire at system scope
(R360). -/
def State.ackTag (s : State) (c t : Nat) : State :=
  (s.setCore c { s.core c with sysTags := putBit (s.core c).sysTags t true }).setTag c t

/-! ### Taking a trap (R122, R126) and returning from it (R123) -/

/-- `tw` as a trap writes it (R99, R122). -/
def trapWord (s : State) (c r : Nat) (t : TrapInfo) (busy : Bool) : Word :=
  let next := if t.deferred then (s.rowPc c r - t.pc).toNat % 128 else t.len % 128
  let resume := t.deferred || t.cause.resume
  word (t.pc.toNat + t.cause.code * 2 ^ 32 + busy.toNat * 2 ^ 40 + resume.toNat * 2 ^ 41
    + (bitAt (s.slot c r 2) 32).toNat * 2 ^ 42 + next * 2 ^ 43 + t.code.toNat * 2 ^ 50)

/-- A row in IDLE, HALT or FAULT takes no ENGINE trap: one that was pending is posted instead (R125). -/
def State.postTraps (s : State) (c r : Nat) : State :=
  if (s.core c).engTraps.any (fun e => e.1 == r) then
    (s.setCore c { s.core c with engTraps := (s.core c).engTraps.filter (fun e => e.1 != r) }).postRecord (s.partid c)
      (s.record 1 Cause.engine.code (rowVa 0x3FF c r) 0 (s.ctl c r) 0)
  else s

/-- A lent pool row that ends in FAULT leaves its pool (R294). -/
def State.leavePool (s : State) (c r : Nat) : State :=
  s.setCore c { s.core c with pool := (s.core c).pool.filter (fun q => q.row != r) }

/-- `EndRow(k)` (R126): the row is in FAULT with PC at the trapping instruction, its entries, latch and FIFO place are
freed, and a KIND 1 record is posted. -/
def State.endRow (s : State) (c r : Nat) (t : TrapInfo) : State :=
  let tw := trapWord s c r t (bitAt (s.slot c r 3) 40)
  let s1 := s.setSlot c r 3 tw
  let w := putBits (putBits (putBits (s1.ctl c r) 0 32 t.pc.toNat) 32 4 stFault) 40 4 0
  let s2 := (((((s1.setCtl c r w).freeWaits c r).freeLatch c r).leaveFifo c r).leaveStop c r).leaveBar c r
  let s3 := s2.leavePool c r
  (s3.postRecord (s3.partid c) (s3.record 1 t.cause.code (rowVa 0x3FF c r) tw (s3.ctl c r) 0)).postTraps c r

/-- TAKING AN EXCEPTION (R122), for a row that has drained: the row is ended when BUSY is set, the cause does not vector, or the gang has
no handler (R121, R365); otherwise `tw` is written, PC := HANDLER, and MODE, CLASS and `bt` stay. A control request that the row took
while it drained acts then: the row goes on, or halts, at its PC (log 73). -/
def State.enterTrap (s : State) (c r : Nat) (t : TrapInfo) : State :=
  let s0 := (s.freeWaitOp c r).leaveStop c r
  if bitAt (s0.slot c r 3) 40 || t.cause == .lease || t.cause == .wdog then s0.endRow c r t
  else
    match s0.descriptor (s0.partid c) (ctlGang (s0.ctl c r)) with
    | (none, s1) => s1.endRow c r t
    | (some d, s1) =>
      if d.handler = 0xFFFFFFFF#32 then s1.endRow c r t
      else
        let s2 := (s1.setSlot c r 3 (trapWord s1 c r t true)).setRowPc c r (match t.redirect with
          | some (pc, _) => pc
          | none => d.handler)
        s2.setIntent c r (match t.redirect with
          | some (pc, true) => .close (.halt pc)
          | _ => if (s2.gang (s2.partid c) (ctlGang (s2.ctl c r))).stopped then .close .stopped else .run)

/-- A trap of the issuing row on the instruction at PC (R122): entered at once when nothing is pending, else after the row
has drained (TRAP_ENTRY). -/
def State.raise (s : State) (t : TrapInfo) : State :=
  if (s.pendingOf s.curCore s.curRow).isEmpty && (s.outstanding s.curCore s.curRow).isEmpty then
    s.enterTrap s.curCore s.curRow t
  else s.setIntent s.curCore s.curRow (.trap t)

/-- The issuing instruction did not complete, so it does not count in the windows it stands in (R113, R122). -/
def State.unissue (s : State) : State :=
  s.modLatch s.curCore s.curRow (fun l => { l with pending := l.pending.map (fun p => { p with since := p.since - 1 }) })

/-- The instruction has not issued yet: it counts in no window and in no quantum. -/
def State.stallHere (s : State) : State :=
  s.unissue.modLatch s.curCore s.curRow (fun l => { l with count := l.count - 1 })

/-- `Trap(cause)` of the instruction being executed (R5). -/
def State.trap (s : State) (o : Operands) (k : Cause) (code : Nat) : State :=
  s.unissue.raise { cause := k, pc := s.pc, code := BitVec.ofNat 8 code, deferred := false, len := o.len.units }

/-- A row that took an ENGINE trap while it stalled in `gbar` stalls there again, unless its episode has released (R125, R177, log
55). -/
def State.stallAgain (s : State) (c r : Nat) : State :=
  if (s.core c).barred.contains r then
    let s1 := s.leaveBar c r
    if (s.core c).waits.any (fun e => e.row == r && e.on.isBarrier && !e.met) then s1.setIntent c r .stalled
    else s1.dropWaits c (fun e => e.row == r && e.on.isBarrier)
  else s

/-- THE RETURN FROM AN EXCEPTION (R123): BUSY is cleared, `bt`.VALID takes BTV, and PC is the resume point, or wa[31:0] in
the form that names a register, which goes on there and stalls in no `gbar` again (R366, log 55). -/
def State.returnTrap (s : State) (target : Option (BitVec 32)) : State :=
  let tw := s.reg 3
  let pc := match target with
    | some t => t
    | none => if bitAt tw 41 then tw.setWidth 32 + BitVec.ofNat 32 (bitsAt tw 43 7) else tw.setWidth 32
  let t := ((s.setReg 3 (putBit tw 40 false)).setReg 2 (putBit (s.reg 2) 32 (bitAt tw 42))).setPc pc
  if target.isSome then t.leaveBar s.curCore s.curRow else t.stallAgain s.curCore s.curRow

/-- An ENGINE trap raised for a row (R125): pending, or posted at once when the row can take none. `eng` is the engine
number. Work of the host raises none: a KIND 1 record with zero words is posted (R211, R236). -/
def State.engineTrap (s : State) (id : Ident) (eng : Nat) : State :=
  if id.host then s.postRecord id.part (s.record 1 Cause.engine.code 0 0 0 0)
  else
    let st := s.rowState id.core id.row
    if !s.isContext id.core id.row || st = stIdle || st = stHalt || st = stFault then
      s.postRecord (s.partid id.core) (s.record 1 Cause.engine.code (rowVa 0x3FF id.core id.row) 0 (s.ctl id.core id.row) 0)
    else if (s.core id.core).engTraps.any (fun e => e.1 == id.row) then s
    else s.setCore id.core { s.core id.core with engTraps := (s.core id.core).engTraps ++ [(id.row, BitVec.ofNat 8 eng)] }

end Sys2Proof.Machine
end

