-- ==== Sys2Proof/Machine/Fetch.lean ====
section
/-! DEFINITION. Fetching an instruction (R26 to R28, R118, R128), the order of its decode checks (R34), and the instruction that
a row is to issue next, as a load of slot 0 shows it (R105). -/

namespace Sys2Proof.Machine

/-! ### Fetch -/

/-- The byte address of a PC of a core (R26). -/
def State.codeVa (s : State) (c : Nat) (pc : BitVec 32) : Nat := ((s.core c).codebase.toNat + 4 * pc.toNat) % 2 ^ 57

/-- The code domain of a block is that of a core: its partition and its CODEBASE (R118). -/
def State.isCode (s : State) (c blk : Nat) (b : ICBlock) : Bool :=
  b.part == s.partid c && b.codebase == (s.core c).codebase && b.va == blk

/-- The block of a core in the instruction cache of its grove. -/
def State.cachedBlock (s : State) (c blk : Nat) : Option ICBlock := (s.grove (groveOf c)).icache.find? (s.isCode c blk)

/-- A block enters the instruction cache of a core's grove, which holds 256 KiB, 8192 blocks; a full one gives up its oldest (R10,
R118, log 51). -/
def State.fillCode (s : State) (c blk : Nat) (bs : List Byte) : State :=
  let x := s.grove (groveOf c)
  let old := if 8192 ≤ x.icache.length then x.icache.drop 1 else x.icache
  s.setGrove (groveOf c) { x with icache := old ++ [{
    part := s.partid c, codebase := (s.core c).codebase, va := blk, data := BitVec.ofNat 256 (natOfBytes bs) }] }

/-- The bytes of the 32-byte block that holds a code address: from the instruction cache of the grove, or fetched into it
(R118). The fetch is not checked against the lease (R128). -/
def State.fetchBlock (s : State) (c va : Nat) : Acc (List Byte) × State :=
  let blk := va / 32 * 32
  match s.cachedBlock c blk with
  | some b => (.ok (bytesOfNat 32 b.data.toNat), s)
  | none =>
    if vaRegion blk = 2 ∨ !s.isLocal blk then (.fault .xlate, s)
    else
      match s.memAt (s.partid c) blk 32 with
      | (.ok bs, s1) => (.ok bs, s1.fillCode c blk bs)
      | (.fault k, s1) => (.fault k, s1)
      | (.hold, s1) => (.hold, s1)

/-- A block comes into the instruction cache ahead of use (R118, R131): it changes no memory, and is dropped where it cannot be
fetched. -/
def State.prefetchBlock (s : State) (c va : Nat) : State :=
  let blk := va / 32 * 32
  if (s.cachedBlock c blk).isSome ∨ vaRegion blk = 2 ∨ !s.isLocal blk then s
  else
    match s.peek (s.partid c) (s.canonVa blk) with
    | some k => if s.poisoned k 32 then s else s.fillCode c blk (s.homeRead k 32)
    | none => s

/-- What a fetch at a PC finds. -/
inductive Fetched where
  /-- An instruction, its PC, and the state with its blocks in the cache. -/
  | instr (i : Instr) (pc : BitVec 32) (s : State)
  /-- A trap on fetch or decode: the cause, the PC, and the length that NEXT records (R122, R128). -/
  | trap (k : Cause) (pc : BitVec 32) (len : Nat) (s : State)
  /-- No instruction yet: the PC reached (R28). -/
  | pads (pc : BitVec 32) (s : State)

/-- The cause of a decode refusal (R34). -/
def rejectCause : Reject → Cause
  | .crossesBlock => .len
  | .privileged => .priv
  | .badPad | .undefinedOpcode | .badLength | .malformed | .tooShort => .ill

/-- The length in units that LEN gives (R26). -/
def unitsAt (bs : List Byte) : Nat :=
  match lenOf (BitVec.ofNat 64 (natOfBytes (bs.take 4))) with
  | some l => l.units
  | none => 1

/-- The units of the PC space: no run of pads is longer. -/
abbrev pcUnits : Nat := 4294967296

/-- Fetches from a PC on, passing pads, which take no issue slot (R28); `get` gives the bytes of a block. -/
def State.fetchBy (get : State → Nat → Acc (List Byte) × State) (s : State) (c : Nat) (user : Bool) : Nat → BitVec 32 → Fetched
  | 0, pc => .pads pc s
  | fuel + 1, pc =>
    let va := s.codeVa c pc
    match get s va with
    | (.fault k, s1) => .trap k pc 0 s1
    | (.hold, s1) => .pads pc s1
    | (.ok bs, s1) =>
      let at_ := bs.drop (va % 32)
      match decodeBytes user (va % 32) at_ with
      | .ok .pad => s1.fetchBy get c user fuel (pc + 1)
      | .ok (.instr i) => .instr i pc s1
      | .error r => .trap (rejectCause r) pc (unitsAt at_) s1

/-- Fetches from a PC on: what the row issues next. -/
def State.fetch (s : State) (c : Nat) (user : Bool) (pc : BitVec 32) : Fetched :=
  s.fetchBy (fun t va => t.fetchBlock c va) c user pcUnits pc

/-- Fetches from a PC on within one block that the cache holds. -/
def State.fetchHeld (s : State) (c : Nat) (user : Bool) (blk : Nat) (pc : BitVec 32) : Fetched :=
  s.fetchBy (fun t va => match t.cachedBlock c blk with
    | some b => if va / 32 * 32 = blk then (.ok (bytesOfNat 32 b.data.toNat), t) else (.hold, t)
    | none => (.hold, t)) c user 9 pc

/-! ### The next instruction of a row -/

/-- PC and length in 4-byte units of the instruction that a row is to issue next; 0 when it cannot be fetched (R126). -/
def State.nextInstr (s : State) (c r : Nat) : BitVec 32 × Nat :=
  match s.fetch c (!ctlMode (s.ctl c r)) (s.rowPc c r) with
  | .pads pc _ => (pc, 0)
  | .trap _ pc n _ => (pc, n)
  | .instr i pc _ => (pc, match i.operands? with
    | some o => o.len.units
    | none => 0)

/-- The PC of the next instruction that an OPEN row would issue: for one that closes, the PC it is to hold. -/
def State.nextPc (s : State) (c r : Nat) : BitVec 32 :=
  match s.latch? c r with
  | none => s.rowPc c r
  | some l => (match l.intent with
    | .close (.wait _ pc) => pc
    | .close (.halt pc) => pc
    | .close .ready => s.rowPc c r
    | .close .stopped => s.rowPc c r
    | .run => s.rowPc c r
    | .trap t => (match t.redirect with
      | some (pc, _) => pc
      | none => s.rowPc c r)
    | .stalled => s.rowPc c r)

/-- n bytes of a core's array as a load returns them (R105): in slot 0 of an OPEN row, PC is that of the next instruction that the row
will issue, past pads (R28). -/
def State.shownBytes (s : State) (c o n : Nat) : List Byte :=
  let r := o / 256
  if decide (o % 256 < 8) && s.isContext c r && s.rowState c r == stOpen then
    let t := s.setRowPc c r (s.nextPc c r)
    (t.setRowPc c r (t.nextInstr c r).1).arrayBytes c o n
  else s.arrayBytes c o n

end Sys2Proof.Machine
end

