-- ==== Sys2Proof/Machine/Format.lean ====
section
/-! DEFINITION. Number formats, exact values, rounding and the summation orders (R48 to R67, and the functions of R202). -/

namespace Sys2Proof.Machine

/-- A floating format (R48). `special` says how the codes at the top exponent read. -/
inductive Special where
  | ieee
  | e4m3
  | none
  deriving DecidableEq, Repr

structure Fmt where
  width   : Nat
  mbits   : Nat
  bias    : Int
  special : Special
  maxCode : Nat
  deriving DecidableEq, Repr

def Fmt.fp32 : Fmt := { width := 32, mbits := 23, bias := 127, special := .ieee, maxCode := 0x7F7FFFFF }
def Fmt.bf16 : Fmt := { width := 16, mbits := 7, bias := 127, special := .ieee, maxCode := 0x7F7F }
def Fmt.e4m3 : Fmt := { width := 8, mbits := 3, bias := 7, special := .e4m3, maxCode := 0x7E }
def Fmt.e5m2 : Fmt := { width := 8, mbits := 2, bias := 15, special := .ieee, maxCode := 0x7B }
def Fmt.e2m1 : Fmt := { width := 4, mbits := 1, bias := 1, special := .none, maxCode := 0x7 }

/-- The floating format of a type code below 5 (R44). -/
def fmtOf (t : Nat) : Fmt :=
  if t = 0 then .fp32 else if t = 1 then .bf16 else if t = 2 then .e4m3 else if t = 3 then .e5m2 else .e2m1

/-- An exact value (R52): NaN, a signed infinity, a signed zero, or ±m·2^e with m > 0. -/
inductive Val where
  | nan
  | inf (neg : Bool)
  | zero (neg : Bool)
  | fin (neg : Bool) (m : Nat) (e : Int)
  deriving DecidableEq, Repr

/-- ±m·2^e, a zero of that sign when m is 0. -/
def Val.mk (neg : Bool) (m : Nat) (e : Int) : Val := if m = 0 then .zero neg else .fin neg m e

/-- An integer as an exact value. -/
def Val.ofInt (v : Int) : Val := Val.mk (decide (v < 0)) v.natAbs 0

/-- The value of a code (R49), with infinities and NaN of R48. -/
def Fmt.decode (f : Fmt) (code : Nat) : Val :=
  let neg := code / 2 ^ (f.width - 1) % 2 == 1
  let mag := code % 2 ^ (f.width - 1)
  let e := mag / 2 ^ f.mbits
  let m := mag % 2 ^ f.mbits
  let top := 2 ^ (f.width - 1 - f.mbits) - 1
  match f.special with
  | .ieee =>
    if e = top then (if m = 0 then .inf neg else .nan)
    else if e = 0 then Val.mk neg m (1 - f.bias - f.mbits) else .fin neg (2 ^ f.mbits + m) (e - f.bias - f.mbits)
  | .e4m3 =>
    if e = top ∧ m = 2 ^ f.mbits - 1 then .nan
    else if e = 0 then Val.mk neg m (1 - f.bias - f.mbits) else .fin neg (2 ^ f.mbits + m) (e - f.bias - f.mbits)
  | .none =>
    if e = 0 then Val.mk neg m (1 - f.bias - f.mbits) else .fin neg (2 ^ f.mbits + m) (e - f.bias - f.mbits)

/-! ### Rounding (R51 to R54, R59) -/

/-- The units of the quantum 2^qe that the magnitude n·2^e rounds to; `sticky` says that the exact magnitude lies strictly
above n·2^e by less than 2^e. -/
def roundUnits (neg : Bool) (n : Nat) (e : Int) (sticky : Bool) (qe : Int) (rm : Nat) : Nat :=
  if qe ≤ e then n * 2 ^ (e - qe).toNat
  else
    let sh := (qe - e).toNat
    let lo := n / 2 ^ sh
    let r := n % 2 ^ sh
    if r = 0 ∧ sticky = false then lo
    else
      let half := 2 ^ (sh - 1)
      let above := half < r || (r == half && sticky)
      let tie := r == half && !sticky
      match rm with
      | 0 => if above || (tie && lo % 2 == 1) then lo + 1 else lo
      | 1 => lo
      | 2 => if neg then lo + 1 else lo
      | 3 => if neg then lo else lo + 1
      | _ => if above || tie then lo + 1 else lo

/-- `NaNOut` (R54). -/
def Fmt.nanOut (f : Fmt) : Nat :=
  match f.special with
  | .ieee => (2 ^ (f.width - 1 - f.mbits) - 1) * 2 ^ f.mbits + 2 ^ (f.mbits - 1)
  | .e4m3 => 0x7F
  | .none => 0

def Fmt.signBit (f : Fmt) (neg : Bool) : Nat := neg.toNat * 2 ^ (f.width - 1)

/-- The infinity of a format with one. -/
def Fmt.infCode (f : Fmt) (neg : Bool) : Nat := f.signBit neg + (2 ^ (f.width - 1 - f.mbits) - 1) * 2 ^ f.mbits

/-- `InfOut` (R53). -/
def Fmt.infOut (f : Fmt) (neg ovf : Bool) : Nat :=
  match f.special with
  | .ieee => f.infCode neg
  | .e4m3 => if ovf then 0x7F else f.signBit neg + f.maxCode
  | .none => f.signBit neg + f.maxCode

/-- `Overflow` (R53). -/
def Fmt.overflow (f : Fmt) (neg : Bool) (rm : Nat) (ovf : Bool) : Nat :=
  let toInf := rm == 0 || rm == 4 || (rm == 3 && !neg) || (rm == 2 && neg)
  match f.special with
  | .ieee => if ovf && toInf then f.infCode neg else f.signBit neg + f.maxCode
  | .e4m3 => if ovf && toInf then 0x7F else f.signBit neg + f.maxCode
  | .none => f.signBit neg + f.maxCode

/-- The code of a non-zero magnitude n·2^e (or just above it) rounded once (R52). -/
def Fmt.round (f : Fmt) (neg : Bool) (n : Nat) (e : Int) (sticky : Bool) (rm : Nat) (ovf : Bool) : Nat :=
  let emin := 1 - f.bias
  let ex := max (Int.ofNat (Nat.log2 n) + e) emin
  let y := roundUnits neg n e sticky (ex - f.mbits) rm
  let code := (ex - emin).toNat * 2 ^ f.mbits + y
  if f.maxCode < code then f.overflow neg rm ovf else f.signBit neg + code

/-- `Rnd(x, fmt, rm, ovf)` (R52). -/
def rnd (f : Fmt) (rm : Nat) (ovf : Bool) : Val → Nat
  | .nan => f.nanOut
  | .inf neg => f.infOut neg ovf
  | .zero neg => f.signBit neg
  | .fin neg m e => f.round neg m e false rm ovf

/-- An integer brought into n bits: saturated, or wrapped (R59). -/
def intRange (n : Nat) (sgn ovf : Bool) (v : Int) : Nat :=
  let lo : Int := if sgn then -Int.ofNat (2 ^ (n - 1)) else 0
  let hi : Int := if sgn then Int.ofNat (2 ^ (n - 1)) - 1 else Int.ofNat (2 ^ n) - 1
  if ovf then wrapInt n v else wrapInt n (max lo (min hi v))

/-- `RndInt(x, n, sgn, rm, ovf)` (R59): the n-bit code. -/
def rndInt (n : Nat) (sgn : Bool) (rm : Nat) (ovf : Bool) : Val → Nat
  | .nan => 0
  | .inf neg => if ovf then 0 else intRange n sgn false (if neg then -Int.ofNat (2 ^ n) else Int.ofNat (2 ^ n))
  | .zero _ => 0
  | .fin neg m e =>
    let u := roundUnits neg m e false 0 rm
    intRange n sgn ovf (if neg then -Int.ofNat u else Int.ofNat u)

/-! ### Exact arithmetic (R53, R54, R56) -/

def Val.neg : Val → Val
  | .nan => .nan
  | .inf s => .inf (!s)
  | .zero s => .zero (!s)
  | .fin s m e => .fin (!s) m e

def Val.abs : Val → Val
  | .nan => .nan
  | .inf _ => .inf false
  | .zero _ => .zero false
  | .fin _ m e => .fin false m e

/-- An exact product; zero times infinity is NaN, and signs combine by exclusive-or. -/
def Val.mul : Val → Val → Val
  | .nan, _ => .nan
  | _, .nan => .nan
  | .inf _, .zero _ => .nan
  | .zero _, .inf _ => .nan
  | .inf s, .inf t => .inf (s != t)
  | .inf s, .fin t _ _ => .inf (s != t)
  | .fin s _ _, .inf t => .inf (s != t)
  | .zero s, .zero t => .zero (s != t)
  | .zero s, .fin t _ _ => .zero (s != t)
  | .fin s _ _, .zero t => .zero (s != t)
  | .fin s m e, .fin t n f => .fin (s != t) (m * n) (e + f)

/-- A finite value as an integer multiple of 2^e, for e no larger than its exponent. -/
def scaled (neg : Bool) (m : Nat) (e lo : Int) : Int :=
  let v := Int.ofNat (m * 2 ^ (e - lo).toNat)
  if neg then -v else v

/-- An exact sum; the sign of an exact zero follows R56 under the rounding mode. -/
def Val.add (rm : Nat) : Val → Val → Val
  | .nan, _ => .nan
  | _, .nan => .nan
  | .inf s, .inf t => if s = t then .inf s else .nan
  | .inf s, .zero _ => .inf s
  | .inf s, .fin _ _ _ => .inf s
  | .zero _, .inf t => .inf t
  | .fin _ _ _, .inf t => .inf t
  | .zero s, .zero t => if s = t then .zero s else .zero (rm == 2)
  | .zero _, .fin t n f => .fin t n f
  | .fin s m e, .zero _ => .fin s m e
  | .fin s m e, .fin t n f =>
    let lo := min e f
    let v := scaled s m e lo + scaled t n f lo
    if v = 0 then .zero (rm == 2) else .fin (decide (v < 0)) v.natAbs lo

/-- x < y on values that are not NaN; the zeros are equal. -/
def Val.lt : Val → Val → Bool
  | .nan, _ => false
  | _, .nan => false
  | .inf s, .inf t => s && !t
  | .inf s, .zero _ => s
  | .inf s, .fin _ _ _ => s
  | .zero _, .inf t => !t
  | .fin _ _ _, .inf t => !t
  | .zero _, .zero _ => false
  | .zero _, .fin t _ _ => !t
  | .fin s _ _, .zero _ => s
  | .fin s m e, .fin t n f => decide (scaled s m e (min e f) < scaled t n f (min e f))

def Val.isNan : Val → Bool
  | .nan => true
  | .inf _ | .zero _ | .fin _ _ _ => false
def Val.isNeg : Val → Bool
  | .nan => false
  | .inf s | .zero s | .fin s _ _ => s
def Val.isZero : Val → Bool
  | .zero _ => true
  | .nan | .inf _ | .fin _ _ _ => false

/-- x = y on values that are not NaN; the zeros are equal. -/
def Val.eq (x y : Val) : Bool := !x.isNan && !y.isNan && !x.lt y && !y.lt x
/-- x below y with −0 below +0 (R147). -/
def Val.below (x y : Val) : Bool := x.lt y || (x.isZero && y.isZero && x.isNeg && !y.isNeg)
/-- The smaller, or the larger, of two values; NaN if either is (R66, R193). -/
def Val.minV (x y : Val) : Val := if x.isNan || y.isNan then .nan else if y.below x then y else x
def Val.maxV (x y : Val) : Val := if x.isNan || y.isNan then .nan else if x.below y then y else x

/-- x·2^k. -/
def Val.shift (k : Int) : Val → Val
  | .nan => .nan
  | .inf s => .inf s
  | .zero s => .zero s
  | .fin s m e => .fin s m (e + k)

/-- The value of an E8M0 scale byte (R62). -/
def e8m0 (b : Nat) : Val := if b = 255 then .nan else .fin false 1 (Int.ofNat b - 127)

/-- The value of a TS8 byte (R61). -/
def ts8 (b : Nat) : Val :=
  let term (k : Nat) (neg : Bool) : Val := if k = 0 then .zero false else .fin neg 1 (Int.ofNat k - 7)
  Val.add 0 (term (b / 16 % 8) (b / 128 % 2 == 1)) (term (b % 8) (b / 8 % 2 == 1))

/-- The value of T4 code k in a table (R60). -/
def t4 (ctab0 ctab1 : Word) (k : Nat) : Val :=
  Val.ofInt (signedNat 8 (bitsAt (if k < 8 then ctab0 else ctab1) (8 * (k % 8)) 8))

/-- The value of a lane code of a row ALU type (R49, R188): integers are signed. -/
def decodeTy (t code : Nat) : Val :=
  if isFloatType t then (fmtOf t).decode code else Val.ofInt (signedNat (widthOf t) code)

/-- `Fin(x, t)` of R188: the lane code. -/
def finTy (t rm : Nat) (ovf : Bool) (v : Val) : Nat :=
  if isFloatType t then rnd (fmtOf t) rm ovf v else rndInt (widthOf t) true rm ovf v

/-! ### Quotients, roots and the functions of R202 -/

/-- The integer square root, by one bit a step. -/
def isqrtFrom : Nat → Nat → Nat → Nat
  | 0, _, r => r
  | k + 1, n, r => let r1 := r + 2 ^ k; if r1 * r1 ≤ n then isqrtFrom k n r1 else isqrtFrom k n r
def isqrt (n : Nat) : Nat := isqrtFrom (Nat.log2 n / 2 + 1) n 0

/-- n squared k times. -/
def squares : Nat → Nat → Nat
  | 0, n => n
  | k + 1, n => squares k (n * n)

/-- `Rnd(x / y)` (R146). -/
def divRnd (f : Fmt) (rm : Nat) (ovf : Bool) (x y : Val) : Nat :=
  match x, y with
  | .nan, _ => f.nanOut
  | .inf _, .nan => f.nanOut
  | .zero _, .nan => f.nanOut
  | .fin _ _ _, .nan => f.nanOut
  | .inf _, .inf _ => f.nanOut
  | .zero _, .zero _ => f.nanOut
  | .inf s, .zero t => f.infCode (s != t)
  | .inf s, .fin t _ _ => f.infCode (s != t)
  | .fin s _ _, .zero t => f.infCode (s != t)
  | .zero s, .inf t => f.signBit (s != t)
  | .zero s, .fin t _ _ => f.signBit (s != t)
  | .fin s _ _, .inf t => f.signBit (s != t)
  | .fin s m e, .fin t n g =>
    let k := Nat.log2 n + 40
    f.round (s != t) (m * 2 ^ k / n) (e - g - Int.ofNat k) (m * 2 ^ k % n != 0) rm ovf

/-- `Rnd(√x)` (R146). -/
def sqrtRnd (f : Fmt) (rm : Nat) (ovf : Bool) (x : Val) : Nat :=
  match x with
  | .nan => f.nanOut
  | .inf s => if s then f.nanOut else f.infCode false
  | .zero s => f.signBit s
  | .fin s m e =>
    if s then f.nanOut
    else
      let odd := (e % 2).toNat
      let n := m * 2 ^ (80 + odd)
      let r := isqrt n
      f.round false r ((e - Int.ofNat odd) / 2 - 40) (r * r != n) rm ovf

/-- 1/√x correctly rounded to BF16 (R202). -/
def rsqrtRnd (ovf : Bool) (x : Val) : Nat :=
  match x with
  | .nan => Fmt.bf16.nanOut
  | .inf s => if s then Fmt.bf16.nanOut else 0
  | .zero s => Fmt.bf16.infCode s
  | .fin s m e =>
    if s then Fmt.bf16.nanOut
    else
      let odd := (e % 2).toNat
      let m1 := m * 2 ^ odd
      let k := Nat.log2 m1 + 40
      let n := isqrt (2 ^ (2 * k) / m1)
      Fmt.bf16.round false n (-(e - Int.ofNat odd) / 2 - Int.ofNat k) (n * n * m1 != 2 ^ (2 * k)) 0 ovf

/-- 1/x correctly rounded to BF16 (R202). DEDUCED (log 80): R202's formula gives 2^127, 0x7F00, for 2^-127; its last sentence says that
this input overflows, which the model does not follow. -/
def rcpRnd (ovf : Bool) (x : Val) : Nat := divRnd .bf16 0 ovf (.fin false 1 0) x

/-- log2 x correctly rounded to BF16 (R202): 2^18 · log2 m is bracketed by the length of m^(2^18). -/
def log2Rnd (ovf : Bool) (x : Val) : Nat :=
  match x with
  | .nan => Fmt.bf16.nanOut
  | .inf s => if s then Fmt.bf16.nanOut else Fmt.bf16.infCode false
  | .zero _ => Fmt.bf16.infCode true
  | .fin s m e =>
    if s then Fmt.bf16.nanOut
    else if m = 2 ^ Nat.log2 m then rnd .bf16 0 ovf (Val.ofInt (Int.ofNat (Nat.log2 m) + e))
    else
      let lo := e * 2 ^ 18 + Int.ofNat (Nat.log2 (squares 18 m))
      if lo < 0 then Fmt.bf16.round true (-(lo + 1)).toNat (-18) true 0 ovf
      else Fmt.bf16.round false lo.toNat (-18) true 0 ovf

/-- The largest n of t + 1 bits with n^(2^k) ≤ 2^lim, a bit at a time. -/
def rootBits (k lim : Nat) : Nat → Nat → Nat
  | 0, n => n
  | j + 1, n => let n1 := n + 2 ^ j; if squares k n1 ≤ 2 ^ lim then rootBits k lim j n1 else rootBits k lim j n

/-- 2^x correctly rounded to BF16 (R202). A magnitude below 2^−10 gives a value next to 1; a magnitude of 2^8 or more is
beyond every result's range. -/
def exp2Rnd (ovf : Bool) (x : Val) : Nat :=
  match x with
  | .nan => Fmt.bf16.nanOut
  | .inf s => if s then 0 else Fmt.bf16.infCode false
  | .zero _ => rnd .bf16 0 ovf (.fin false 1 0)
  | .fin s m e =>
    let top := Int.ofNat (Nat.log2 m) + e
    if top ≥ 8 then (if s then Fmt.bf16.round false 1 (-400) true 0 ovf else Fmt.bf16.overflow false 0 ovf)
    else if top < -10 then
      (if s then Fmt.bf16.round false (2 ^ 12 - 1) (-12) true 0 ovf else Fmt.bf16.round false (2 ^ 12) (-12) true 0 ovf)
    else if 0 ≤ e then
      let v := scaled s m e 0
      Fmt.bf16.round false 1 v false 0 ovf
    else
      let k := (-e).toNat
      let v := scaled s m e e
      let i := v / Int.ofNat (2 ^ k)
      let u := (v % Int.ofNat (2 ^ k)).toNat
      if u = 0 then Fmt.bf16.round false 1 i false 0 ovf
      else
        let n := rootBits k (u + 9 * 2 ^ k) 9 (2 ^ 9)
        Fmt.bf16.round false n (i - 9) true 0 ovf

/-! ### Lanes of a row (R50) -/

/-- Lane i of width w. -/
def lane (w : Nat) (row : BitVec 2048) (i : Nat) : Nat := row.toNat / 2 ^ (w * i) % 2 ^ w
/-- Codes packed from lane 0. -/
def packLanes (w : Nat) : List Nat → Nat
  | [] => 0
  | v :: vs => v % 2 ^ w + 2 ^ w * packLanes w vs
/-- The row with codes written from lane `start` on; the other lanes keep their contents. -/
def putLanes (w start : Nat) (vs : List Nat) (row : BitVec 2048) : BitVec 2048 :=
  let lo := w * start
  let hi := w * (start + vs.length)
  BitVec.ofNat 2048 (row.toNat % 2 ^ lo + packLanes w vs * 2 ^ lo + row.toNat / 2 ^ hi * 2 ^ hi)
/-- Byte i of a row. -/
def rowByte (row : BitVec 2048) (i : Nat) : Nat := lane 8 row i

/-! ### Reduction trees (R65 to R67) -/

/-- How two nodes combine: rounded to FP32, exact, or by the larger (R66). -/
inductive Combine where
  | sum (rm : Nat) (ovf : Bool)
  | exact
  | larger
  deriving DecidableEq, Repr

/-- One node of a tree (R65). DESIGN CHOICE (log 69): an exact sum of `rdot.i32` that passes 64 bits is kept whole, since R66 says
both "exact 64-bit integer arithmetic" and "exact". -/
def Combine.apply (c : Combine) (x y : Val) : Val :=
  match c with
  | .sum rm ovf => Fmt.fp32.decode (rnd .fp32 rm ovf (Val.add rm x y))
  | .exact => Val.add 0 x y
  | .larger => Val.maxV x y

/-- One level of the tree: an odd last node is passed up unchanged. -/
def Combine.level (c : Combine) : List Val → List Val
  | x :: y :: rest => c.apply x y :: c.level rest
  | [x] => [x]
  | [] => []

/-- The root of the tree over the leaves (R65); ten levels hold 512 leaves. -/
def Combine.tree (c : Combine) : Nat → List Val → Val
  | _, [] => .zero false
  | _, [x] => x
  | 0, x :: _ => x
  | k + 1, x :: y :: rest => c.tree k (c.level (x :: y :: rest))

/-- The prefix of R67 over the leaves: the nodes of the binary decomposition of their number, largest first, combined from
left to right. DEDUCED (log 90): so also where there are three nodes or more, though R67 ends by saying that the last lane equals the root
of the tree, which combines the smaller nodes first. -/
def Combine.prefix_ (c : Combine) : Nat → List Val → Option Val → Val
  | 0, _, acc => acc.getD (.zero false)
  | k + 1, vs, acc =>
    if 2 ^ k ≤ vs.length then
      let node := c.tree 10 (vs.take (2 ^ k))
      let acc1 := match acc with
        | some a => c.apply a node
        | none => node
      c.prefix_ k (vs.drop (2 ^ k)) (some acc1)
    else c.prefix_ k vs acc

/-! ### Sums of the matrix unit and the bank engines (R63) -/

/-- An exact sum of products, from +0: an exact zero is +0 (R63). -/
def exactSum (vs : List Val) : Val := vs.foldl (Val.add 0) (.zero false)

/-- An exact sum of products; where all are zeros of one sign, of that sign (R56, R274). -/
def signedSum : List Val → Val
  | [] => .zero false
  | v :: vs => vs.foldl (Val.add 0) v

/-- `acc := Rnd(acc + Rnd(s))` on FP32 codes, RNE with overflow to infinity (R57, R63). -/
def accGroup (acc : Nat) (s : Nat) : Nat := rnd .fp32 0 true (Val.add 0 (Fmt.fp32.decode acc) (Fmt.fp32.decode s))
/-- The rounded group sum (R63). -/
def groupCode (s : Val) : Nat := rnd .fp32 0 true s

end Sys2Proof.Machine
end

