-- ==== Sys2Proof/Machine/Flags.lean ====
section
/-! DEFINITION. Conditions: the GV8 has no flags register; a branch or compare computes its condition from its operands
(R38, R134, R148, R194). -/

namespace Sys2Proof.Machine

/-- `Cond(c, w, x, y)` of R134. -/
def intCond (c : Nat) (w : Bool) (x y : Word) : Bool :=
  let n := if w then 32 else 64
  let xs := signedNat n x.toNat
  let ys := signedNat n y.toNat
  let xu := x.toNat % 2 ^ n
  let yu := y.toNat % 2 ^ n
  match c with
  | 0 => xu == yu
  | 1 => xu != yu
  | 2 => decide (xs < ys)
  | 3 => decide (ys ≤ xs)
  | 4 => decide (xu < yu)
  | _ => decide (yu ≤ xu)

/-- The relations eq, ne, lt, ge, le and gt on exact values; NaN makes only ne true (R148, R194). -/
def valCond (c : Nat) (x y : Val) : Bool :=
  let ordered := !x.isNan && !y.isNan
  match c with
  | 0 => x.eq y
  | 1 => !x.eq y
  | 2 => x.lt y
  | 3 => ordered && !x.lt y
  | 4 => ordered && !y.lt x
  | _ => y.lt x

/-- The conditions of `fcmp.cc` (R148). -/
def floatCond (c : Nat) (x y : Val) : Bool :=
  match c with
  | 6 => x.isNan || y.isNan
  | 7 => !x.isNan && !y.isNan
  | c => valCond c x y

end Sys2Proof.Machine
end

