-- ==== Sys2Proof/Machine/Block.lean ====
section
/-! DEFINITION. The power and telemetry block, REGION 10 unit 0x1F1 (R227, R332): reset values, loads, and the checks and
effects of a store to each of its registers; operating points (R345) and thermal levels (R350, R351). -/

namespace Sys2Proof.Machine

/-! ### Reset values and storage -/

/-- The reset value of a stored register of the block (R227, R332). -/
def blockReset (off : Nat) : Word :=
  if off = 0x0000 then 2
  else if off = 0x0010 then 800000
  else if off = 0x0018 then 2400
  else if off = 0x0100 then word ((512 <<< 32) + (2 ^ 32 - 500))
  else if off = 0x0108 then word ((768 <<< 32) + (2 ^ 32 - 200))
  else if off = 0x0110 then word ((922 <<< 32) + (2 ^ 32 - 100))
  else if off = 0x0118 then word ((1024 <<< 32) + (2 ^ 32 - 20))
  else if 0x0120 ≤ off ∧ off < 0x0180 then word (1024 <<< 32)
  else if 0x0180 ≤ off ∧ off < 0x01C0 then word (1024 <<< 32)
  else if off = 0x01C0 then word (4 + (1 <<< 8))
  else if off = 0x0200 then 410
  else if off = 0x0208 then 512
  else if off = 0x0210 then 614
  else if off = 0x0218 then 717
  else if off = 0x0220 then 819
  else if off = 0x0228 then 922
  else if off = 0x0230 then 973
  else if off = 0x0240 then 16
  else if off = 0x0248 then 500000
  else if off = 0x0250 then 5000000
  else if off = 0x0258 then 2000000
  else if 0x0400 ≤ off ∧ off < 0x0600 then
    word (2 + (4 <<< 5) + (6 <<< 10) + (8 <<< 15) + (10 <<< 20) + (12 <<< 25) + (14 <<< 30) + (16 <<< 35))
  else if off = 0x0800 then 2000
  else if off = 0x0808 then 2
  else if off = 0x0810 then word (760 + (840 <<< 16) + (920 <<< 32) + (24 <<< 48))
  else if off = 0x0818 then word (680 + (760 <<< 16) + (840 <<< 32) + (24 <<< 48))
  else 0

/-- A stored register of the block; of a staged register, its staged copy. -/
def PowerSt.reg (x : PowerSt) (off : Nat) : Word := x.regs.get (blockReset off) off
def PowerSt.setReg (x : PowerSt) (off : Nat) (v : Word) : PowerSt := { x with regs := x.regs.set (blockReset off) off v }
/-- A staged register as it is in effect (R338). -/
def PowerSt.now (x : PowerSt) (off : Nat) : Word := x.eff.get (blockReset off) off

/-- The offset lies in an array of n 8-byte registers from a base. -/
def inRegs (off base n : Nat) : Bool := decide (base ≤ off) && decide (off < base + 8 * n) && off % 8 == 0

/-- A staged register (R332). -/
def isStaged (off : Nat) : Bool :=
  inRegs off 0x0100 16 || inRegs off 0x0180 8 || off == 0x01C0 || inRegs off 0x0200 7 || off == 0x0240 || off == 0x0248
    || off == 0x0250 || off == 0x0258

/-- The offsets of the staged registers. -/
def stagedOffs : List Nat :=
  (upto 16).map (fun i => 0x0100 + 8 * i) ++ (upto 8).map (fun i => 0x0180 + 8 * i) ++ [0x01C0]
    ++ (upto 7).map (fun i => 0x0200 + 8 * i) ++ [0x0240, 0x0248, 0x0250, 0x0258]

/-! ### Operating points and thermal levels -/

/-- The level of sensor n (R350). -/
def State.levelOf (s : State) (n : Nat) : Nat := (s.power.temps.get (0, 0) n).2

/-- The sensors that affect a grove (R351): its diode and the four diodes of each stack beside its die. -/
def sensorsOf (g : Nat) : List Nat := g :: (upto 8).map (fun j => 64 + 8 * dieOf g + j)

/-- The thermal level of a grove (R351). -/
def State.thermal (s : State) (g : Nat) : Nat := (sensorsOf g).foldl (fun m n => max m (s.levelOf n)) 0

/-- The fastest point that the cores of a grove request (R345). -/
def State.reqPoint (s : State) (g : Nat) : Nat := (upto 4).foldl (fun m k => min m (s.core (4 * g + k)).point) 7

/-- CAP of a grove (R345, R352). -/
def State.capPoint (s : State) (g : Nat) : Nat :=
  max s.power.powcap (if 1 ≤ s.thermal g then bitsAt (s.power.reg 0x0808) 0 3 else 0)

/-- The point a grove is to run at (R345). -/
def State.targetPoint (s : State) (g : Nat) : Nat := max (s.reqPoint g) (s.capPoint g)

/-- The point of a grove recomputed (R345): until the change completes, the slower of old and new is in effect (R346). -/
def State.repoint (s : State) (g : Nat) : State :=
  let x := s.grove g
  s.setGrove g { x with point := max x.point (s.targetPoint g), changing := x.point != s.targetPoint g }

/-- Every grove recomputed. -/
def State.repointAll (s : State) : State := (upto numGroves).foldl (fun t g => t.repoint g) s

/-- GOP of a grove (R332). -/
def State.gop (s : State) (g : Nat) : Word :=
  word ((s.grove g).point + s.reqPoint g * 8 + s.capPoint g * 64 + (s.grove g).idle * 512)

/-- The CADENCE of a core: the larger of CAD and the thermal floor of its grove (R342, R352). -/
def State.cadence (s : State) (c : Nat) : Nat := max s.power.cad (if 2 ≤ s.thermal (groveOf c) then 2 else 1)

/-! ### Loads -/

/-- TSTAT (R332). -/
def PowerSt.tstat (x : PowerSt) : Word :=
  word (x.lastseq + x.stale.toNat * 2 ^ 16 + x.islanded.toNat * 2 ^ 17 + x.alarm.toNat * 2 ^ 18 + x.badfr * 2 ^ 24
    + x.goodfr * 2 ^ 32)

/-- PSTATE (R332). -/
def PowerSt.pstate (x : PowerSt) : Word :=
  word (x.allowed + x.cad * 2 ^ 16 + x.shed.toNat * 2 ^ 24 + x.powcap * 2 ^ 32)

/-- A load of n bytes at an offset of the block by a supervisor; none is PROT (R332). -/
def State.blockLoad (s : State) (off n : Nat) : Option Word :=
  let x := s.power
  if n ≠ 8 then none
  else if off = 0x0008 then some x.tstat
  else if inRegs off 0x0020 4 then some (word (natOfBytes ((x.tlast.drop (off - 0x20)).take 8)))
  else if off = 0x0060 then some x.pstate
  else if off = 0x0000 ∨ off = 0x0010 ∨ off = 0x0018 ∨ isStaged off ∨ inRegs off 0x0300 8 ∨ off = 0x0340
      ∨ inRegs off 0x0400 64 ∨ off = 0x0800 ∨ off = 0x0808 ∨ off = 0x0810 ∨ off = 0x0818 then some (x.reg off)
  else if inRegs off 0x0280 8 ∨ off = 0x02C0 ∨ off = 0x02C8 then some (x.cpwr.get 0 off)
  else if inRegs off 0x0600 64 then some (s.gop ((off - 0x0600) / 8))
  else if inRegs off 0x0900 96 then
    let t := x.temps.get (0, 0) ((off - 0x0900) / 8)
    some (word (t.1.toNat + t.2 * 2 ^ 16))
  else none

/-! ### Stores -/

/-- The bits [lo + n − 1 : lo] set. -/
def maskBits (lo n : Nat) : Nat := (2 ^ n - 1) * 2 ^ lo
/-- Only bits of the mask are set. -/
def within (v : Word) (mask : Nat) : Bool := v &&& ~~~(word mask) == 0

/-- The ramp table of R227: 1 ≤ E0 ≤ … ≤ E7 ≤ 16, reserved bits zero. -/
def rampOk (v : Word) : Bool :=
  let e (i : Nat) : Nat := bitsAt v (5 * i) 5
  within v (maskBits 0 40) && decide (1 ≤ e 0) && decide (e 7 ≤ 16) && (upto 7).all (fun i => decide (e i ≤ e (i + 1)))

/-- A .64 store of v to a register without behaviour of its own is accepted (R332). TCTL, REPLAY and COMMIT have theirs. -/
def blockStoreOk (off : Nat) (v : Word) : Bool :=
  if off = 0x0010 then within v (maskBits 0 20)
  else if off = 0x0018 then within v (maskBits 0 12) && decide (1 ≤ v.toNat) && decide (v.toNat ≤ 2400)
  else if inRegs off 0x0100 16 || inRegs off 0x0180 8 then within v (maskBits 0 43)
  else if off = 0x01C0 then within v (maskBits 0 5 + maskBits 8 4)
  else if inRegs off 0x0200 7 || off == 0x0240 then within v (maskBits 0 11)
  else if off = 0x0248 ∨ off = 0x0250 ∨ off = 0x0258 then within v (maskBits 0 32)
  else if inRegs off 0x0300 8 then within v (maskBits 0 48 + maskBits 63 1)
  else if off = 0x0340 then within v (maskBits 0 24 + maskBits 63 1)
  else if inRegs off 0x0400 64 then rampOk v
  else if off = 0x0800 then within v (maskBits 0 32)
  else if off = 0x0808 then within v (maskBits 0 3)
  else if off = 0x0810 ∨ off = 0x0818 then within v (maskBits 0 56)
  else false

/-- A .64 store to a register without behaviour of its own; none is PROT. WARMCAP moves the points of warm groves (R345). -/
def State.blockStore (s : State) (off n : Nat) (v : Word) : Option State :=
  if n = 8 ∧ blockStoreOk off v then
    let s1 := { s with power := s.power.setReg off v }
    some (if off = 0x0808 then s1.repointAll else s1)
  else none

/-- The checks of COMMIT on the staged set (R338). -/
def PowerSt.stagedOk (x : PowerSt) : Bool :=
  let fc := bitsAt (x.reg 0x01C0) 0 5
  let vc := bitsAt (x.reg 0x01C0) 8 4
  let df (i : Nat) : Int := signedNat 32 (bitsAt (x.reg (0x0100 + 8 * i)) 0 32)
  let dv (i : Nat) : Int := signedNat 32 (bitsAt (x.reg (0x0180 + 8 * i)) 0 32)
  let frac (off : Nat) : Nat := bitsAt (x.reg off) 32 11
  let thr (k : Nat) : Nat := bitsAt (x.reg (0x0200 + 8 * k)) 0 11
  decide (1 ≤ fc) && decide (fc ≤ 16) && decide (1 ≤ vc) && decide (vc ≤ 8)
    && (upto (fc - 1)).all (fun i => decide (df i < df (i + 1)))
    && (upto (vc - 1)).all (fun i => decide (dv i < dv (i + 1)))
    && (upto 16).all (fun i => decide (frac (0x0100 + 8 * i) ≤ 1024))
    && (upto 8).all (fun i => decide (frac (0x0180 + 8 * i) ≤ 1024))
    && (upto 7).all (fun k => decide (thr k ≤ 1024))
    && (upto 6).all (fun k => decide (thr k ≤ thr (k + 1)))

/-- The staged set, as it takes effect (R338). -/
def PowerSt.stagedSet (x : PowerSt) : Sparse Word :=
  stagedOffs.foldl (fun m off => m.set (blockReset off) off (x.reg off)) ⟨[]⟩

/-- A store to COMMIT (R338); none is PROT. A store of 0 applies nothing. -/
def State.commitStore (s : State) (n : Nat) (v : Word) : Option State :=
  if n ≠ 8 ∨ !within v 1 then none
  else if v = 0 then some s
  else if s.power.stagedOk then some { s with power := { s.power with pending := some s.power.stagedSet } }
  else none

/-- A store to TCTL (R332, R337); none is PROT. The store that sets REPLAY restarts the stale interval. -/
def State.tctlStore (s : State) (n : Nat) (v : Word) : Option State :=
  if n ≠ 8 ∨ !within v 3 then none
  else
    let x := s.power.setReg 0x0000 v
    some { s with power := if bitAt v 0 then { x with lastUsable := s.time.toNat } else x }

end Sys2Proof.Machine
end

