-- ==== Sys2Proof/Machine/Engine.lean ====
section
/-! DEFINITION. Completion targets (R21, R22), the engine page of a core: matrix status and command window (R68, R211 to
R223), channel registers and HEAD stores (R234 to R236), the residency view (R290). -/

namespace Sys2Proof.Machine

/-! ### Completion targets (R21, R22) -/

/-- The target that completion fields name; none when they name no valid one (R22). -/
def targetOf (kind core tag clasp : Nat) : Option Target :=
  match kind with
  | 0 => some .none
  | 1 => some (.tag core tag)
  | 2 => if clasp % 256 = 0 then some (.clasp clasp) else none
  | _ => none

/-- Completion fields break their rules: kind 3, a stray tag or clasp, or a clasp that is no slot-0 address (R21, R213,
R237, R264). -/
def targetBad (kind tag clasp : Nat) : Bool :=
  kind == 3 || (kind != 1 && tag != 0) || (kind != 2 && clasp != 0) || (kind == 2 && clasp % 256 != 0)

/-- The signal of finished work, when it has a valid target (R22). -/
def State.signalIf (s : State) (id : Ident) (t : Option Target) : State :=
  match t with
  | some x => s.signal id x
  | none => s

/-! ### The matrix unit's window -/

/-- Fields of a matrix command (R213). -/
def mxCmdOf (ws : List Word) : Nat := bitsAt (wordAt ws 0) 0 8
def mxGuard (ws : List Word) : Nat := bitsAt (wordAt ws 0) 8 4
def mxTarget (c : Nat) (ws : List Word) : Option Target :=
  targetOf (bitsAt (wordAt ws 0) 12 2) c (bitsAt (wordAt ws 0) 14 6) (bitsAt (wordAt ws 7) 0 57)
/-- CKIND, CTAG or CLASP breaks R213. -/
def mxTargetBad (ws : List Word) : Bool :=
  targetBad (bitsAt (wordAt ws 0) 12 2) (bitsAt (wordAt ws 0) 14 6) (bitsAt (wordAt ws 7) 0 57)

/-- A command as it enters the queue. -/
def MxCmd.new (ws : List Word) (id : Ident) : MxCmd :=
  { words := ws, id := id, begun := false, started := false, injFrom := 0, idx := 0, run := 0, fault := none }

/-- MSTATUS (R223). -/
def MatrixSt.status (m : MatrixSt) : Word :=
  word (m.queue.length + m.halt.toNat * 2 ^ 6 + m.wvalid.toNat * 2 ^ 7 + m.wfmt * 2 ^ 8 + m.ksel * 2 ^ 12
    + m.sparse.toNat * 2 ^ 14 + m.frozen.toNat * 2 ^ 15 + m.fcode * 2 ^ 16 + m.fcmd * 2 ^ 24 + m.fidx * 2 ^ 32
    + m.discards * 2 ^ 48)

/-- A discard is counted, modulo 65536 (R222). -/
def MatrixSt.discard (m : MatrixSt) : MatrixSt := { m with discards := (m.discards + 1) % 65536 }

/-- A control MNOP whose other bits are all zero (R221). -/
def controlOk (ws : List Word) : Bool :=
  within0 (wordAt ws 0) && (ws.drop 1).all (fun w => w == 0)
where
  /-- Only CMD and ACT are set. -/
  within0 (w : Word) : Bool := w.toNat == bitsAt w 0 8 + bitsAt w 20 2 * 2 ^ 20

/-- CMD 6 with ACT 1 or 2 (R221). -/
def isControlWord (w : Word) : Bool := bitsAt w 0 8 == 6 && (bitsAt w 20 2 == 1 || bitsAt w 20 2 == 2)

/-- A command enters the queue (R212): into an empty one, it may begin in the next cycle (R232); one of a stopped gang freezes the
unit (R230, R371). -/
def MatrixSt.enter (m : MatrixSt) (q : MxCmd) (cc : Nat) (stop : Bool) : MatrixSt :=
  { m with
    queue := m.queue ++ [q]
    headFrom := if m.queue.isEmpty then cc + 1 else m.headFrom
    frozen := m.frozen || stop }

/-- The unit acts on a control command before anything that follows it (R221); one that is frozen holds it. -/
def MatrixSt.controlled (m : MatrixSt) : Bool := !m.frozen && !m.controls.isEmpty

/-- RESUME clears HALT (R221). -/
def State.mxResume (s : State) (c : Nat) : State := s.setCore c { s.core c with mx := { (s.core c).mx with halt := false } }

/-- FLUSH discards every queued command of a halted unit, and of one that is not halted every command that has not begun, counts them,
clears HALT, and signals each in order (R221). -/
def State.mxFlush (s : State) (c : Nat) : State :=
  let m := (s.core c).mx
  let gone := m.queue.filter (fun q => m.halt || !q.begun)
  let s1 := s.setCore c { s.core c with mx := { m with
    queue := m.queue.filter (fun q => !m.halt && q.begun)
    halt := false
    discards := (m.discards + gone.length) % 65536 } }
  gone.foldl (fun (t : State) (q : MxCmd) => t.signalIf q.id (mxTarget c q.words)) s1

/-- What a control MNOP does when it acts, ACT 1 or 2 (R221). -/
def State.mxControl (s : State) (c act : Nat) : State := if act = 1 then s.mxResume c else s.mxFlush c

/-- The unit unfreezes: the control commands that it held act at once, in order (R221, R230). -/
def State.mxThaw (s : State) (c : Nat) : State :=
  let m := (s.core c).mx
  m.controls.foldl (fun (t : State) act => t.mxControl c act)
    (s.setCore c { s.core c with mx := { m with frozen := false, controls := [] } })

/-- The one 64-byte store to the command window (R211, R212, R221): queued, held while the queue is full or a control command that was
held has still to act, or refused with `bad` for a control MNOP with a stray bit. A control MNOP never enters the queue: it acts when it
reaches the unit, or is held by a frozen one. A command of a row that the watchdog has ended is discarded (R381). -/
def State.mxStore (s : State) (c : Nat) (id : Ident) (ws : List Word) (bad : Cause) : Acc State :=
  let x := s.core c
  if isControlWord (wordAt ws 0) then
    if controlOk ws then
      let act := bitsAt (wordAt ws 0) 20 2
      .ok (if x.mx.frozen || !x.mx.controls.isEmpty then s.setCore c { x with mx := { x.mx with controls := x.mx.controls ++ [act] } }
        else s.mxControl c act)
    else .fault bad
  else if s.idEnded id then .ok ((s.setCore c { x with mx := x.mx.discard }).signalIf id (mxTarget c ws))
  else if decide (32 ≤ x.mx.queue.length) || x.mx.controlled then .hold
  else .ok (s.setCore c { x with mx := x.mx.enter (MxCmd.new ws id) (s.grove (groveOf c)).cc (s.idStopped id) })

/-! ### Copy channels -/

/-- A malformed copy address (R234). -/
def copyMalformed (a : Word) : Bool :=
  if bitAt a 63 then bitsAt a 20 43 != 0 else bitsAt a 57 6 != 0

/-- STOP (R236). -/
abbrev stopValue : Word := 0x4000000000000000#64

/-- STATUS of a channel (R235). -/
def Chan.status (x : Chan) : Word :=
  word (x.st + x.err.toNat * 4 + x.fcode * 2 ^ 8 + x.reason * 2 ^ 16 + x.discards * 2 ^ 32)

/-- The refusal of a value stored to HEAD: its form first, then the channel's state (R236). -/
def Chan.headRefusal (x : Chan) (v : Word) : Option Cause :=
  if v = 0 then (if x.st = 0 then none else some .queue)
  else if v = stopValue then none
  else if copyMalformed v then some .rsvd
  else if v.toNat % 64 ≠ 0 then some .align
  else if x.st = 0 then none
  else some .queue

/-- No record is held or in progress. -/
def Chan.noRecord (x : Chan) : Chan := { x with record := [], begun := false, done := 0, ahead := [], ended := none }

/-- A .64 store to HEAD (R236). A chain that a stopped gang starts stops before its first record (`stopped`, R253, R371). -/
def Chan.headStore (x : Chan) (id : Ident) (v : Word) (stopped : Bool) : Chan :=
  if v = 0 then { x with head := v, err := false, fcode := 0, reason := 0, current := 0 }
  else if v = stopValue then
    if x.st = 1 then { x with head := v, stopReq := true }
    else if x.st = 2 then { x.noRecord with head := v, st := 0, reason := 4 }
    else { x with head := v }
  else
    { x.noRecord with
      head := v, err := false, fcode := 0, current := v, st := 1, id := id, stopReq := false, gangStop := stopped, revoked := false }

/-- A store to HEAD of channel ch, or its refusal. A chain of a row that the watchdog has ended is IDLE at once (R381). -/
def State.headStore (s : State) (c ch : Nat) (id : Ident) (v : Word) : Acc State :=
  let x := s.core c
  match (x.chan ch).headRefusal v with
  | some k => .fault k
  | none =>
    let q := (x.chan ch).headStore id v (s.idStopped id)
    .ok (s.setCore c (x.setChan ch (if s.idEnded id && v != 0 && v != stopValue then { q with st := 0, reason := 4, gangStop := false } else q)))

/-! ### The engine page as a whole (R68) -/

/-- The 8-byte register at an aligned row-space offset of the engine page; none where it is reserved (R68). -/
def State.pageReg (s : State) (c off : Nat) : Option Word :=
  let x := s.core c
  if off = 0x100040 then some x.mx.status
  else if 0x100100 ≤ off ∧ off < 0x100200 then
    let ch := x.chan ((off - 0x100100) / 0x40)
    match off % 0x40 with
    | 0 => some ch.head
    | 8 => some ch.status
    | 16 => some ch.current
    | _ => none
  else if 0x100200 ≤ off ∧ off < 0x100400 then
    let e := x.res.get ⟨0, 0⟩ ((off - 0x100200) / 16)
    some (if off % 16 = 0 then e.w0 else e.w1)
  else none

/-- Every 8-byte part of a range is a register of the page. -/
def State.pageDefined (s : State) (c off n : Nat) : Bool :=
  (upto ((n + 7) / 8)).all (fun i => (s.pageReg c (off / 8 * 8 + 8 * i)).isSome)

/-- The offset lies in the command window (R68). -/
def inMatrixWindow (off : Nat) : Bool := 0x100000 ≤ off && off < 0x100040
/-- The offset is that of a HEAD register (R68). -/
def inHead (off : Nat) : Bool := 0x100100 ≤ off && off < 0x100200 && off % 0x40 == 0

/-- A load of n bytes of the engine page; `multi` for `ldm` (R68, R156). -/
def State.pageLoad (s : State) (c off n : Nat) (multi : Bool) : Acc Word :=
  if inMatrixWindow off then .fault .prot
  else if multi ∨ n ≠ 8 then .fault (if s.pageDefined c off n then .align else .prot)
  else
    match s.pageReg c off with
    | some v => .ok v
    | none => .fault .prot

/-- A store to the engine page; `multi` for `stm`, `bad` the cause of a wrong store to the command window (R68, R211). -/
def State.pageStore (s : State) (c : Nat) (id : Ident) (off : Nat) (bs : List Byte) (multi : Bool) (bad : Cause) : Acc State :=
  if inMatrixWindow off then
    if off = 0x100000 ∧ bs.length = 64 ∧ multi then s.mxStore c id (wordsOf bs) bad else .fault bad
  else if multi ∨ bs.length ≠ 8 then .fault (if s.pageDefined c off bs.length then .align else .prot)
  else if inHead off then s.headStore c ((off - 0x100100) / 0x40) id (word (natOfBytes bs))
  else .fault .prot

end Sys2Proof.Machine
end

