-- ==== Sys2Proof/Machine/GangOps.lean ====
section
/-! DEFINITION. Stop marks, stopping and resuming a gang (R107, R230, R253, R369 to R373), and the release instant of a
barrier episode (R176). -/

namespace Sys2Proof.Machine

/-- The identity is a row of this device in the gang. -/
def Ident.inGang (id : Ident) (p g : Nat) : Bool := !id.host && id.node == 0x3FF && id.part == p && id.gang == g

/-- The identities of the commands in a matrix unit: queued, running, or still writing C rows (R230). -/
def MatrixSt.issuers (m : MatrixSt) : List Ident := m.queue.map (fun q => q.id) ++ m.pipe.map (fun w => w.id)

/-! ### Stopping (R371) -/

/-- A row that a stop finds is STOPPED at once by it (R107, R370). -/
def State.stopsNow (s : State) (c r : Nat) : Bool := s.rowState c r == stReady || s.rowState c r == stWait

/-- An OPEN row, whose drain a stop has to wait for (R107). -/
def State.stopsLater (s : State) (c r : Nat) : Bool := s.rowState c r == stOpen

/-- A member row is stopped (R107): an OPEN row drains and closes, one stalled in `gbar` with WAITKIND 4. -/
def State.stopRow (s : State) (c r : Nat) : State :=
  let st := s.rowState c r
  if st = stReady then (s.leaveFifo c r).setRowState c r stStopped
  else if st = stWait then s.setRowState c r stStopped
  else if st = stOpen then
    match s.latch? c r with
    | none => s
    | some l => (match l.intent with
      | .run => s.setIntent c r (.close .stopped)
      | .stalled => s.setIntent c r (.close (.wait 4 (s.rowPc c r)))
      | .trap _ => s
      | .close _ => s)
  else s

/-- A channel running a chain of the gang stops: at the next record boundary, or at once when HELD (R253). -/
def Chan.stopFor (x : Chan) (p g : Nat) : Chan :=
  if x.id.inGang p g then
    if x.st = 1 then { x with gangStop := true }
    else if x.st = 2 then { x with st := 3, record := [], begun := false, done := 0, ahead := [], ended := none }
    else x
  else x

/-- The engines of a core stop for a gang: its unit freezes if it holds a command of the gang, its channels stop. -/
def CoreSt.stopFor (x : CoreSt) (p g : Nat) : CoreSt :=
  let x1 := if x.mx.issuers.any (fun id => id.inGang p g) then { x with mx := { x.mx with frozen := true } } else x
  (upto 4).foldl (fun (y : CoreSt) ch => y.setChan ch ((y.chan ch).stopFor p g)) x1

/-- The gang's calls are to end with ABORTED (R371). -/
def State.abortCalls (s : State) (p g : Nat) : State :=
  (upto numStacks).foldl (fun (t : State) k =>
    let x := t.stack k
    t.setStack k { x with calls := x.calls.map (fun (q : Call) => if q.id.inGang p g then { q with abort := true } else q) }) s

/-- Every party of a gang is told to stop (R371). -/
def State.stopParties (s : State) (p g : Nat) : State :=
  let s1 := (s.members p g).foldl (fun (t : State) x => t.stopRow x.1 x.2) s
  let s2 := (s1.coresOf p).foldl (fun (t : State) c => t.setCore c ((t.core c).stopFor p g)) s1
  s2.abortCalls p g

/-- The stop marks (R369). -/
inductive Mark where
  | sup
  | shed
  | swap
  deriving DecidableEq, Repr

def GangSt.mark (x : GangSt) (m : Mark) (b : Bool) : GangSt :=
  match m with
  | .sup => { x with sup := b }
  | .shed => { x with shed := b }
  | .swap => { x with swap := b }

/-- The rows that setting a mark changes at once (R370). -/
def State.markRows (s : State) (p g : Nat) : Nat :=
  if (s.gang p g).stopped then 0 else ((s.members p g).filter (fun x => s.stopsNow x.1 x.2)).length

/-- The rows that may yet come to STOPPED by the mark (R370). -/
def State.markOpen (s : State) (p g : Nat) : List (Nat × Nat) :=
  if (s.gang p g).stopped then [] else (s.members p g).filter (fun x => s.stopsLater x.1 x.2)

/-- A row has closed into STOPPED: each `gstop` that waits for it counts it (R370). One that ends in FAULT or HALT is not counted. -/
def StopWait.count (e : StopWait) (x : Nat × Nat) : StopWait :=
  if e.todo.contains x then { e with rows := e.rows + 1, todo := e.todo.filter (fun y => y != x) } else e

def State.countStop (s : State) (c r : Nat) : State :=
  if s.rowState c r = stStopped then
    s.cores.items.foldl (fun (t : State) k =>
      if (t.core k.1).gstops.any (fun e => e.todo.contains (c, r)) then
        t.setCore k.1 { t.core k.1 with gstops := (t.core k.1).gstops.map (fun e => e.count (c, r)) }
      else t) s
  else s

/-- A mark is set; a gang not yet stopped is stopped (R369). -/
def State.setMark (s : State) (p g : Nat) (m : Mark) : State :=
  let s1 := s.setGang p g ((s.gang p g).mark m true)
  if (s.gang p g).stopped then s1 else s1.stopParties p g

/-- A matrix unit is at rest for a gang: it holds no command of the gang, or it is frozen (R230, R371). -/
def MatrixSt.atRest (m : MatrixSt) (p g : Nat) : Bool := m.frozen || !m.issuers.any (fun id => id.inGang p g)

/-- Every party of the gang has reached its stopped state (R364, R371). -/
def State.gangAtRest (s : State) (p g : Nat) : Bool :=
  (s.members p g).all (fun x => !running (s.rowState x.1 x.2))
    && (s.coresOf p).all (fun c => (upto 4).all (fun ch =>
      !((s.core c).chan ch).id.inGang p g || ((s.core c).chan ch).st == 0 || ((s.core c).chan ch).st == 3))
    && (s.coresOf p).all (fun c => (s.core c).mx.atRest p g)
    && (upto numStacks).all (fun k => (s.stack k).calls.all (fun q => !q.id.inGang p g))
    && s.stores.all (fun q => !q.id.inGang p g) && s.msgs.all (fun m => !m.id.inGang p g)
    && s.rowReqs.all (fun q => !q.id.inGang p g) && s.arrivals.all (fun a => !a.id.inGang p g)

/-! ### Resuming (R373) -/

/-- A STOPPED row leaves STOPPED (R107). -/
def State.resumeRow (s : State) (c r : Nat) : State :=
  if s.rowState c r = stStopped then
    if ctlWait (s.ctl c r) ≠ 0 then s.setRowState c r stWait else s.makeReady c r
  else s

/-- The engines of a core go on for a gang: channels are ACTIVE again, and the unit unfreezes when no stopped gang has a
command in it, and acts on what it held (R221). A channel that goes on wakes its grove (R349). -/
def State.resumeCore (s0 : State) (c p g : Nat) : State :=
  let goes := (upto 4).any (fun ch => ((s0.core c).chan ch).id.inGang p g && ((s0.core c).chan ch).st == 3)
  let s := if goes then s0.rouse (groveOf c) else s0
  let t := if (s.core c).mx.issuers.any (fun id => s.idStopped id) then s else s.mxThaw c
  t.setCore c ((upto 4).foldl (fun (y : CoreSt) ch =>
    let q := y.chan ch
    if q.id.inGang p g then y.setChan ch { q with st := if q.st = 3 then 1 else q.st, gangStop := false } else y) (t.core c))

/-- A gang without a mark resumes (R373). -/
def State.resumeParties (s : State) (p g : Nat) : State :=
  let s1 := (s.members p g).foldl (fun (t : State) x => t.resumeRow x.1 x.2) s
  (s1.coresOf p).foldl (fun (t : State) c => t.resumeCore c p g) s1

/-- The rows that clearing a mark changes (R370). -/
def State.unmarkRows (s : State) (p g : Nat) (m : Mark) : Nat :=
  if (s.gang p g).stopped && !((s.gang p g).mark m false).stopped then
    ((s.members p g).filter (fun x => s.rowState x.1 x.2 == stStopped)).length
  else 0

/-- A mark is cleared; a gang that thereby loses its last mark resumes (R369, R373). -/
def State.clearMark (s : State) (p g : Nat) (m : Mark) : State :=
  let s1 := s.setGang p g ((s.gang p g).mark m false)
  if (s.gang p g).stopped && !((s.gang p g).mark m false).stopped then s1.resumeParties p g else s1

/-- The gangs of a partition other than one. -/
def otherGangs (g : Nat) : List Nat := (upto 4096).filter (fun k => k != g)

/-- The gangs that a `gstop` of a row of gang `own` acts on: the one that it names, or every other of the partition (R370). -/
def stopSet (own : Nat) (only : Option Nat) : List Nat :=
  match only with
  | some g => [g]
  | none => otherGangs own

/-- Every gang that such a `gstop` acts on is at rest (R371). -/
def State.stopRests (s : State) (p own : Nat) (only : Option Nat) : Bool := (stopSet own only).all (fun g => s.gangAtRest p g)

/-! ### Barriers -/

/-- The release instant for an episode that completes at t (R176). -/
def Desc.release (d : Desc) (t : Nat) : Nat :=
  let lo := t + d.alead
  if d.aperiod = 0 then lo
  else lo + (d.aperiod - (lo + d.aperiod * (d.aoffset / d.aperiod + 1) - d.aoffset) % d.aperiod) % d.aperiod

/-- A row stands at its barrier (R178): WAIT or STOPPED with WAITKIND 4, or stalled in `gbar`. -/
def State.atBarrier (s : State) (c r : Nat) : Bool :=
  let st := s.rowState c r
  if st = stWait ∨ st = stStopped then ctlWait (s.ctl c r) == 4
  else
    match s.latch? c r with
    | some l => l.intent == .stalled || (match l.intent with
      | .close (.wait k _) => k == 4
      | .close .ready => false
      | .close (.halt _) => false
      | .close .stopped => false
      | .run => false
      | .trap _ => false
      | .stalled => true)
    | none => false

end Sys2Proof.Machine
end

