-- ==== Sys2Proof/Machine/Hazards.lean ====
section
/-! DEFINITION. What an instruction reads and writes, for the lookahead windows and hazards of R113 to R115 (R153, R189). -/

namespace Sys2Proof.Machine

/-- The opcode of an instruction, 0 for a step of an agent. -/
def opcodeOf (i : Instr) : Nat :=
  match i.opcode? with
  | some op => op.toNat
  | none => 0

/-- Long-latency instructions, those that may carry LAH (R35). -/
def longLatency (op : Nat) : Bool :=
  op == 0x1C || op == 0x1D || op == 0x34 || op == 0x35 || op == 0x40 || op == 0x42 || op == 0x44 || op == 0x49
    || op == 0x4B || (0x50 ≤ op && op ≤ 0x52) || op == 0x73 || op == 0x76 || (0x80 ≤ op && op ≤ 0xA0)

/-- Control transfers (R114). -/
def controlTransfer (op : Nat) : Bool := (0x04 ≤ op && op ≤ 0x0A) || op == 0x0E || op == 0x0F

/-- Instructions that access memory or send a message, held behind a pending acquire (R155). `unlock`, `resq`, `rowpool` and `gset` do
neither, and `respub` and `resdrop` write the dispatcher's table alone (R292). -/
def accessesMemory (op : Nat) : Bool :=
  (0x40 ≤ op && op ≤ 0x4D && op != 0x47 && op != 0x48 && op != 0x4A) || (0x50 ≤ op && op ≤ 0x52)
    || (0x70 ≤ op && op ≤ 0x73) || (0x80 ≤ op && op ≤ 0xA0) || (0xC0 ≤ op && op ≤ 0xC4)

/-- n registers from a first one. -/
def regRange (d n : Nat) : List Nat := (upto n).map (fun i => d + i)

/-- The instruction writes register D. -/
def writesRd : Instr → Bool
  | .loop _ | .call _ | .callr _ | .add _ | .sub _ | .and _ | .or _ | .xor _ | .andn _ | .shl _ | .shr _ | .sar _ |
    .rol _ | .mul _ | .mulh _ | .div _ | .rem _ | .min _ | .max _ | .cmpCc _ | .sel _ | .li _ | .lea _ | .bext _ |
    .bins _ | .clz _ | .ctz _ | .popc _ | .madd _ | .fadd _ | .fsub _ | .fmul _ | .ffma _ | .fdiv _ | .fsqrt _ | .fmin
    _ | .fmax _ | .fcmpCc _ | .fcvt _ | .fsgn _ | .fsgnN _ | .fsgnX _ | .fclass _ | .ld _ | .lr _ | .lock _ | .unlock
    _ | .gresize _ | .amoAdd _ | .amoAnd _ | .amoOr _ | .amoXor _ | .amoMin _ | .amoMax _ | .amoMinn _ | .amoMaxn _ |
    .amoSwap _ | .acas _ | .famoAdd _ | .famoMin _ | .famoMax _ | .famoAdd2 _ | .tagffr _ | .kget _ | .launch _ |
    .resq _ | .rget _ | .gstop _ | .gstopP _ | .gresume _ | .gresumeP _ | .lease _ | .tlbinv _ | .dlharvest _ |
    .rowpool _ | .preq _ | .mcall _ => true
  | _ => false

/-- The special registers that an instruction writes (R33): `cl`, `bt` and `tw`. -/
def specialWrites : Instr → List Nat
  | .clarm _ => [1]
  | .pbr _ | .pbrRegister _ => [2]
  | .tret _ => [2, 3]
  | _ => []

/-- The special registers that an instruction reads (R33). -/
def specialReads : Instr → List Nat
  | .clarm _ | .waitClasp _ => [1]
  | .br _ | .bCc _ | .biCc _ | .loop _ => [2]
  | .tret _ => [3]
  | _ => []

/-- Field C names a register. -/
def readsRc : Instr → Bool
  | .sel _ | .madd _ | .ffma _ | .acas _ | .send _ | .respub _ | .rfma _ | .rscal _ | .rsel _ => true
  | _ => false

/-- Field D names a register that is read: the counter of `loop`, or the row index of a row ALU form (R187). -/
def readsRd : Instr → Bool
  | .loop _ | .radd _ | .rsub _ | .rmul _ | .rfma _ | .rmax _ | .rmin _ | .rabs _ | .rneg _ | .rscal _ | .rcmpCc _ |
    .rsel _ | .rsum _ | .rmaxr _ | .rdot _ | .rscan _ | .rcvt _ | .rqnt _ | .rdqnt _ | .rpack _ | .runpk _ | .rexp2 _
    | .rlog2 _ | .rrcp _ | .rrsqrt _ | .rperm _ | .rbcast _ | .rmov _ | .rclr _ | .riota _ | .rbitAnd _ | .rbitOr _ |
    .rbitXor _ | .rbitAndn _ | .rbitNot _ | .rshShl _ | .rshShr _ | .rshSar _ | .rshRol _ | .rset _ => true
  | _ => false

/-- How a row ALU form uses the row a field names (R187, R189). -/
inductive RowUse where
  | no
  | rd
  | wr
  deriving DecidableEq, Repr

/-- The use of the rows named by D, A, B and C. -/
def rowUses : Instr → RowUse × RowUse × RowUse × RowUse
  | .radd _ | .rsub _ | .rmul _ | .rmax _ | .rmin _ | .rcmpCc _ | .rdot _ | .rdqnt _ | .rpack _ | .rperm _ | .rbitAnd
    _ | .rbitOr _ | .rbitXor _ | .rbitAndn _ => (.wr, .rd, .rd, .no)
  | .rfma _ | .rsel _ => (.wr, .rd, .rd, .rd)
  | .rabs _ | .rneg _ | .rscal _ | .rsum _ | .rmaxr _ | .rscan _ | .rcvt _ | .runpk _ | .rexp2 _ | .rlog2 _ | .rrcp _
    | .rrsqrt _ | .rbcast _ | .rmov _ | .rbitNot _ | .rshShl _ | .rshShr _ | .rshSar _ | .rshRol _ => (.wr, .rd, .no,
    .no)
  | .rqnt _ => (.wr, .rd, .wr, .no)
  | .rclr _ | .riota _ | .rset _ => (.wr, .no, .no, .no)
  | .rget _ => (.no, .rd, .no, .no)
  | _ => (.no, .no, .no, .no)

/-- The row that field k (0 D, 1 A, 2 B, 3 C) of a row ALU form names, from its register's value (R44, R187). -/
def rowOf (o : Operands) (k : Nat) (v : Word) : Nat := (bitsAt v 0 12 + o.rowOff k) % 4096

/-- The register named by field k (0 D, 1 A, 2 B, 3 C). -/
def fieldReg (o : Operands) (k : Nat) : Nat :=
  match k with
  | 0 => o.rd
  | 1 => o.ra
  | 2 => o.rb
  | _ => o.rc

/-- The rows a row ALU form uses in a way, each with the field that names it: 0 D, 1 A, 2 B, 3 C (R189). -/
def aluRows (i : Instr) (o : Operands) (s : State) (u : RowUse) : List (Nat × Nat) :=
  let us := rowUses i
  let one (k : Nat) (w : RowUse) : List (Nat × Nat) :=
    if w == u then [(rowOf o k (s.reg (fieldReg o k)), k)] else []
  let extra := match i with
    | .runpk _ => if u == .wr then [((rowOf o 0 (s.reg o.rd) + 1) % 4096, 0)] else []
    | _ => []
  one 0 us.1 ++ extra ++ one 1 us.2.1 ++ one 2 us.2.2.1 ++ one 3 us.2.2.2

/-- The address and the length of a row-space access, if the instruction makes one in the array; `true` when it writes. -/
def rowSpan (i : Instr) (s : State) : Option (Nat × Nat × Bool × Bool) :=
  let ea (o : Operands) : Nat := (s.reg o.ra + o.offset).toNat
  let eaX (o : Operands) : Nat := (s.reg o.ra + o.extOffset).toNat
  let amo (o : Operands) : Option (Nat × Nat × Bool × Bool) :=
    if o.rowSpace then some (eaX o, if o.fn4 then 8 else 4, true, true) else none
  match i with
  | .lr o => some (ea o, loadSize o.cc, true, false)
  | .sr o => some (ea o, storeSize o.cc, false, true)
  | .ldm o => if o.fn3 then none else some (ea o, 8 * o.count, true, false)
  | .stm o => if o.fn3 then none else some (ea o, 8 * o.count, false, true)
  | .launch o => some (ea o, 64, true, false)
  | .amoAdd o | .amoAnd o | .amoOr o | .amoXor o | .amoMin o | .amoMax o | .amoMinn o | .amoMaxn o | .amoSwap o
  | .acas o => amo o
  | .famoAdd o | .famoMin o | .famoMax o | .famoAdd2 o =>
    if o.rowSpace then some (eaX o, 4, true, true) else none
  | _ => none

/-- The rows that n bytes from an array address cover. -/
def rowsCovered (ea n : Nat) : List Nat :=
  if ea + n ≤ 2 ^ 20 then (if (ea + n - 1) / 256 = ea / 256 then [ea / 256] else [ea / 256, ea / 256 + 1]) else []

/-- The registers of the own row whose slots n bytes from an array address cover (R153). -/
def ownRegs (s : State) (ea n : Nat) : List Nat :=
  (upto 32).filter (fun k => k != 0 && overlaps (s.curRow * 256 + 8 * k) 8 ea n)

/-- Registers read, registers written, rows read and rows written, each row with the field that names it (R115). -/
structure Uses where
  rregs : List Nat
  wregs : List Nat
  rrows : List (Nat × Nat)
  wrows : List (Nat × Nat)
  deriving DecidableEq, Repr

/-- What an instruction of the issuing row uses. -/
def usesOf (i : Instr) (s : State) : Uses :=
  match i.operands? with
  | none => { rregs := [], wregs := [], rrows := [], wrows := [] }
  | some o =>
    let plain := [o.ra, o.rb] ++ (if readsRc i then [o.rc] else []) ++ (if readsRd i then [o.rd] else [])
      ++ (match i with
          | .stm _ => regRange o.rd o.count
          | .send _ => regRange o.ra o.count
          | .post _ => regRange o.ra 8
          | _ => specialReads i)
    let wr := (if writesRd i then [o.rd] else []) ++ (match i with
      | .ldm _ => regRange o.rd o.count
      | _ => specialWrites i)
    let span := rowSpan i s
    let own (w : Bool) : List Nat := match span with
      | some (ea, n, r, ww) => if (if w then ww else r) then ownRegs s ea n else []
      | none => []
    let rows (w : Bool) : List (Nat × Nat) := match span with
      | some (ea, n, r, ww) => if (if w then ww else r) then (rowsCovered ea n).map (fun x => (x, 1)) else []
      | none => []
    { rregs := (plain ++ own false).filter (fun k => k != 0), wregs := (wr ++ own true).filter (fun k => k != 0),
      rrows := rows false ++ aluRows i o s .rd, wrows := rows true ++ aluRows i o s .wr }

/-- The lowest-numbered register in conflict with a pending operation (R115). -/
def regHazard (u : Uses) (ps : List Pending) : Option Nat :=
  (upto 32).find? (fun k => ps.any (fun p =>
    ((u.rregs.contains k || u.wregs.contains k) && p.wregs.contains k) || (u.wregs.contains k && p.rregs.contains k)))

/-- The register of the first field, in the order D, A, B and C, that names a row in conflict (R115). -/
def rowHazard (i : Instr) (u : Uses) (ps : List Pending) : Option Nat :=
  let clash (row : Nat) : Bool := ps.any (fun p =>
    ((u.rrows.any (fun x => x.1 == row) || u.wrows.any (fun x => x.1 == row)) && p.wrows.contains row)
      || (u.wrows.any (fun x => x.1 == row) && p.rrows.contains row))
  let named := (u.wrows ++ u.rrows).filter (fun x => clash x.1)
  match i.operands?, (upto 4).find? (fun k => named.any (fun x => x.2 == k)) with
  | some o, some k => some (fieldReg o k)
  | _, _ => none

/-- CODE of the HAZ trap that the instruction raises, if any (R115). -/
def hazardCode (i : Instr) (s : State) (ps : List Pending) : Option Nat :=
  let u := usesOf i s
  match regHazard u ps with
  | some k => some k
  | none =>
    match rowHazard i u ps with
    | some k => some (128 + k)
    | none => none

end Sys2Proof.Machine
end

