-- ==== Sys2Proof/Machine/Issue.lean ====
section
/-! DEFINITION. When an instruction may issue, with the hazards, the windows and the quantum (R112 to R115, R154, R155, R158, R191,
R293), and what an issue comes to. -/

namespace Sys2Proof.Machine

/-! ### What the row must wait for -/

/-- A window of REGION 10 that takes a command, a call or a header, or a HEAD register (R73, R262, R288). -/
def inWindow (va : Nat) : Bool :=
  vaRegion va == 2 &&
    ((vaUnit va < 0x100 && (inMatrixWindow (vaOff va) || inHead (vaOff va)))
      || (0x180 ≤ vaUnit va && vaUnit va ≤ 0x187 && vaOff va < 0x40)
      || (vaUnit va == 0x1F0 && vaOff va % 0x1000 < 0x40))

/-- A store that starts an engine's work or delivers a header: `gset`, `send`, `post`, `sig`, `launch`, and command, HEAD,
call and header stores (R191). -/
def startsWork (i : Instr) (s : State) : Bool :=
  match i with
  | .gset _ | .gsetClr _ | .send _ | .post _ | .sig _ | .launch _ => true
  | .sr o => inHead (s.reg o.ra + o.offset).toNat
  | .st o => inWindow (s.reg o.ra + o.offset).toNat
  | .stm o => if o.fn3 then inWindow (s.reg o.ra + o.offset).toNat else inMatrixWindow (s.reg o.ra + o.offset).toNat
  | _ => false

/-- An address of a dispatch window (R288). -/
def isHeaderVa (va : Nat) : Bool := vaRegion va == 2 && vaUnit va == 0x1F0

def PendOp.isLaunch : PendOp → Bool
  | .launch .. => true
  | .value .. | .taken .. | .load .. | .loadMany .. | .atomic .. | .lock .. | .gresize .. | .rowAlu .. => false

/-- A pending operation with an access of kind R: a load, an `ldm`, the read of an atomic, the reads of the row ALU (R158, R191). -/
def PendOp.reads : PendOp → Bool
  | .taken .. | .load .. | .loadMany .. | .atomic .. | .rowAlu .. => true
  | .value .. | .lock .. | .gresize .. | .launch .. => false
/-- A pending operation with an access of kind W: the write of an atomic, the writes of the row ALU (R158, R191). -/
def PendOp.writes : PendOp → Bool
  | .taken _ _ wr => wr
  | .atomic .. | .rowAlu .. => true
  | .value .. | .load .. | .loadMany .. | .lock .. | .gresize .. | .launch .. => false
/-- A pending atomic on REGION 00 or on the operand buffers of a stack (R282). -/
def PendOp.feedsCall : PendOp → Bool
  | .atomic i ea _ _ => (i.operands?.all (fun o => !o.rowSpace)) && (vaRegion ea == 0 || (vaRegion ea == 2 && decide (0x180 ≤ vaUnit ea)))
  | .value .. | .taken .. | .load .. | .loadMany .. | .rowAlu .. | .lock .. | .gresize .. | .launch .. => false

/-- The window of a stack, which takes a call. -/
def inCallWindow (va : Nat) : Bool := vaRegion va == 2 && decide (0x180 ≤ vaUnit va) && decide (vaUnit va ≤ 0x187) && decide (vaOff va < 0x40)

/-- The address that an instruction stores to by its global path, if it is a store or a `send`. -/
def globalTarget (i : Instr) (s : State) : Option Nat :=
  match i with
  | .st o => some (s.reg o.ra + o.offset).toNat
  | .stm o => if o.fn3 then some (s.reg o.ra + o.offset).toNat else none
  | .send o => some (s.reg o.rb + o.extOffset).toNat
  | _ => none

/-- The instruction acts as a release of the row's earlier loads, atomics and stores: a release store or atomic, a header store or
`launch` (R155, R301). -/
def isRelease (i : Instr) (s : State) : Bool :=
  (globalTarget i s).any isHeaderVa ||
    match i with
    | .st o => o.fn3
    | .amoAdd o | .amoAnd o | .amoOr o | .amoXor o | .amoMin o | .amoMax o | .amoMinn o | .amoMaxn o | .amoSwap o
    | .acas o | .famoAdd o | .famoMin o | .famoMax o | .famoAdd2 o => 2 ≤ o.order
    | .launch _ => true
    | _ => false

/-- The instruction acts as a release of the row's earlier stores alone: `gset`, and a store of a matrix command, of a HEAD or of a call
record (R180, R225, R236, R282). -/
def isCommand (i : Instr) (s : State) : Bool :=
  (globalTarget i s).any inWindow ||
    match i with
    | .sr o => inHead (s.reg o.ra + o.offset).toNat
    | .stm o => !o.fn3 && inMatrixWindow (s.reg o.ra + o.offset).toNat
    | .gset _ | .gsetClr _ => true
    | _ => false

/-- Row-space or loop-back stores of a row that wait for a boundary of their row (R105). -/
def State.storesWaiting (s : State) (c r : Nat) : Bool := s.rowReqs.any (fun q => q.id.isRow c r)

/-- Messages of a row that are not yet performed, or whose ACK or whose count is on its way (R158, R327). -/
def State.unperformed (s : State) (c r : Nat) : Bool :=
  s.msgs.any (fun m => m.chan == 0 && m.id.isRow c r
    && (m.mkind == 1 || m.mkind == 5 || m.mkind == 6))
  || s.arrivals.any (fun a => a.id.isRow c r)

/-- Address and length of a pending access by a global address. -/
def PendOp.global (p : PendOp) : Option (Nat × Nat) :=
  match p.access with
  | some (false, ea, n) => some (ea, n)
  | some (true, _, _) => none
  | none => none

/-- An earlier access of the row by a global address touches the bytes of an access and has not been performed (R357). -/
def State.olderAccess (s : State) (c r seq va n : Nat) : Bool :=
  (s.pendingOf c r).any (fun p => match p.op.global with
    | some (ea, m) => decide (p.seq < seq) && overlaps (s.canonVa ea) m (s.canonVa va) n
    | none => false)

/-- An earlier `send` of the row writes bytes of an access and has not been performed (R357). -/
def State.olderSend (s : State) (c r seq va n : Nat) : Bool :=
  s.msgs.any (fun m => m.chan == 0 && m.id.isRow c r && m.mkind == 1 && decide (m.seq < seq)
    && overlaps (s.canonVa m.addr) m.data.length (s.canonVa va) n)

/-- An earlier store of the row to the bytes of an access has not been performed (R357). -/
def State.olderStore (s : State) (c r seq va n : Nat) : Bool :=
  s.stores.any (fun q => q.id.isRow c r && decide (q.seq < seq) && overlaps (s.canonVa q.va) q.data.length (s.canonVa va) n)

/-- An earlier write of the issuing row to n bytes has not been performed (R357). -/
def State.writeBefore (s : State) (va n : Nat) : Bool :=
  let c := s.curCore
  let r := s.curRow
  s.olderStore c r s.seq va n || s.olderSend c r s.seq va n
    || ((s.pendingOf c r).any (fun p => p.op.writes) && s.olderAccess c r s.seq va n)

/-- A wait-table entry of a row for which `p` holds. -/
def State.hasWait (s : State) (c r : Nat) (p : WaitOn → Bool) : Bool := (s.core c).waits.any (fun e => e.row == r && p e.on)
def WaitOn.isTimed : WaitOn → Bool
  | .timedClasp => true
  | .tagsAll _ | .tagsAny _ | .time _ | .barrier _ _ => false

/-- A row-space offset of the residency view (R290). -/
def inView (off : Nat) : Bool := decide (0x100200 ≤ off) && decide (off < 0x100400)
/-- An address of the residency view of a core (R290). -/
def isViewVa (va : Nat) : Bool := vaRegion va == 2 && decide (vaUnit va < 0x100) && inView (vaOff va)

/-- A task header of the row is on its way to a dispatch window, or a load of the residency view has not been made (R293). -/
def State.dispatchOnWay (s : State) (c r : Nat) : Bool :=
  s.stores.any (fun q => q.id.isRow c r && isHeaderVa q.va)
    || s.msgs.any (fun m => m.chan == 0 && m.id.isRow c r && m.mkind == 1 && isHeaderVa m.addr)
    || (s.pendingOf c r).any (fun p => match p.op.access with
        | some (false, ea, _) => isViewVa ea
        | some (true, _, _) => false
        | none => false)

/-- An operation that the dispatcher performs in the order in which its row issues it (R293). -/
def isDispatch (i : Instr) (s : State) : Bool :=
  match i with
  | .respub _ | .resdrop _ | .resq _ | .launch _ => true
  | .stm o => o.fn3 && isHeaderVa (s.reg o.ra + o.offset).toNat
  | .send o => isHeaderVa (s.reg o.rb + o.extOffset).toNat
  | .ld o => isViewVa (s.reg o.ra + o.offset).toNat
  | .lr o => inView (s.reg o.ra + o.offset).toNat
  | _ => false

/-- The class that a message travels in: class 0 for a dispatch window of another device, else the one it names (R310,
R325). -/
def State.messageClass (s : State) (va cls : Nat) : Nat :=
  if vaRegion va = 2 ∧ vaUnit va = 0x1F0 ∧ !s.isLocal va then 0 else cls

/-- The queue of a class at a core is full (R315); its capacity, 1 or more, is a free value (log 58). -/
def State.queueFull (s : State) (c cls : Nat) : Bool :=
  let q := s.msgs.filter (fun m => m.chan == 0 && !m.id.host && m.id.node == 0x3FF && m.id.core == c && m.cls == cls && !m.remote
    && (m.mkind == 1 || m.mkind == 5 || m.mkind == 6))
  !q.isEmpty && decide (Config.classQueue < q.length)

/-! ### `hint.gather` (R130) -/

/-- Another open row of the grove, of the code domain of row r of core c, is to issue next from the block of its PC, at a lower PC. -/
def State.gatherBehind (s : State) (c r : Nat) : Bool :=
  (upto 4).any (fun j =>
    let d := groveOf c * 4 + j
    s.partid d == s.partid c && (s.core d).codebase == (s.core c).codebase && (s.core d).latches.any (fun l =>
      let pc := (s.nextInstr d l.row).1
      !(d == c && l.row == r) && s.rowState d l.row == stOpen && s.codeVa d pc / 32 == s.codeVa c (s.rowPc c r) / 32
        && decide (pc < s.rowPc c r)))

/-- The `hint.gather` at the row's PC holds it. -/
def State.gatherHeld (s : State) (c r : Nat) : Bool := (s.latch? c r).any (fun l => l.gather.any (fun t => t.2 == s.rowPc c r))

/-- The hold of a `hint.gather k` ends: no such row remains, or the grove's clock has made k cycles since it began (log 75). -/
def State.gatherOver (s : State) (c r k : Nat) : Bool :=
  k == 0 || !s.gatherBehind c r || (s.latch? c r).any (fun l => l.gather.any (fun t =>
    t.2 == s.rowPc c r && decide (t.1 + k ≤ (s.grove (groveOf c)).cc)))

/-- The instruction stalls without closing for want of a wait-table entry, a place in the matrix queue or a place in the
header or class queue (R108, R137, R169, R175, R212, R289, R315), or, in
`gstop`, until the gangs have stopped (R370, R371). -/
def stallsFor (i : Instr) (s : State) : Bool :=
  let c := s.curCore
  let r := s.curRow
  match i with
  | .waitAll o => !((s.core c).tags &&& (s.reg o.ra ||| o.imm)) == (s.reg o.ra ||| o.imm) && !s.waitRoom c
  | .waitAny o => !((s.reg o.ra ||| o.imm) == 0 || ((s.core c).tags &&& (s.reg o.ra ||| o.imm)) != 0) && !s.waitRoom c
  | .waitUntil o => !decide ((s.reg o.ra + o.imm) ≤ s.time) && !s.waitRoom c
  | .gbar _ | .gbarArrive _ | .gbarWait _ => !s.hasWait c r WaitOn.isBarrier && !s.waitRoom c
  | .clarm o => o.a != 0 && !s.hasWait c r WaitOn.isTimed && !s.waitRoom c
  | .stm o => !o.fn3 && (s.reg o.ra + o.offset).toNat == 0x100000 && o.count == 8
      && !isControlWord (s.reg o.rd) && decide (32 ≤ (s.core c).mx.queue.length)
  | .launch _ => decide (64 ≤ (s.part (s.partid c)).hdrs.length)
  | .send o => s.queueFull c (s.messageClass (s.reg o.rb + o.extOffset).toNat (o.fnAt 5 2))
  | .post o | .sig o => s.queueFull c (o.fnAt 0 2)
  | .gstop _ | .gstopP _ => (s.core c).gstops.any (fun e => e.row == r && !s.stopRests (s.partid c) (ctlGang (s.ctl c r)) e.gang)
  | _ => false

/-- The instruction may issue now (R113, R114, R154, R155, R158, R175, R191, R293). -/
def mayIssue (i : Instr) (s : State) : Bool :=
  let c := s.curCore
  let r := s.curRow
  let op := opcodeOf i
  let ps := s.pendingOf c r
  let outs := s.outstanding c r
  let quiet := ps.isEmpty
  ps.all (fun p => decide (p.since < p.lah))
    && (!longLatency op || decide (ps.length < 4))
    && (!controlTransfer op || (quiet && outs.isEmpty))
    && (outs.isEmpty || !(op == 0x0B || op == 0x0C || op == 0x0D || op == 0x47 || op == 0x48 || op == 0x63))
    && outs.all (fun q => decide (q.age < 15))
    && (op != 0x63 || (quiet && !s.storesWaiting c r))
    && (!accessesMemory op || !ps.any (fun p => p.acquire))
    && (!startsWork i s || !ps.any (fun p => p.op.isRowAlu))
    && (!isDispatch i s || !s.dispatchOnWay c r)
    && (!(isRelease i s || isCommand i s) || (outs.isEmpty && !s.storesWaiting c r))
    && (!isRelease i s || !ps.any (fun p => p.op.reads || p.op.writes))
    && (!(globalTarget i s).any inCallWindow || !ps.any (fun p => p.op.feedsCall))
    && (match i with
        | .fence o => !(o.fnAt 0 1 == 1 && ps.any (fun p => p.op.reads)) && !(o.fnAt 1 1 == 1 && ps.any (fun p => p.op.writes))
            && !(o.fnAt 1 1 == 1 && s.storesWaiting c r)
            && !(o.fnAt 2 1 == 1 && (s.unperformed c r || ps.any (fun p => p.op.isLaunch)))
        | .fenceLb _ => !ps.any (fun p => s.onPath c true p || s.onPath c false p) && !s.storesWaiting c r
            && !outs.any (fun q => s.loopBack c q.va) && !s.msgs.any (s.loopBackMsg c r)
        | .wb o | .inv o => !outs.any (fun q => overlaps (s.canonVa q.va) q.data.length (s.canonVa (s.reg o.ra).toNat / 64 * 64)
            ((s.reg o.rb).toNat + 128))
        | .hintGather o => !s.gatherHeld c r || s.gatherOver c r (o.immAt 0 8)
        | .gresume _ | .gresumeP _ => outs.isEmpty && !s.storesWaiting c r && !ps.any (fun p => p.op.reads || p.op.writes)
        | .lease o => !s.writeBefore (s.reg o.rb).toNat 272
            && !s.writeBefore (s.descVa (s.partid c) (bitsAt (s.reg o.ra) 0 12) + 8) 8
        | .tlbinv _ => outs.isEmpty && !s.storesWaiting c r
        | _ => true)
    && !stallsFor i s

/-! ### Quantum and scheduling classes (R111, R112) -/

/-- SHED names the class (R46, R341). -/
def State.isShed (s : State) (cls : Nat) : Bool := s.power.shed.toNat / 2 ^ cls % 2 == 1
/-- A READY row is aged (R111). -/
def State.aged (s : State) (c : Nat) (e : FifoEntry) : Bool := decide ((s.core c).agelim ≤ e.age)
/-- The class a READY row counts as (R111). -/
def State.effClass (s : State) (c : Nat) (e : FifoEntry) : Nat := if s.aged c e then 0 else ctlClass (s.ctl c e.row)
/-- READY rows whose class is not shed, in the order they entered READY. -/
def State.eligible (s : State) (c : Nat) : List FifoEntry :=
  (s.core c).fifo.filter (fun e => !s.isShed (ctlClass (s.ctl c e.row)))

/-- The next instruction of an OPEN row stalls without closing (R108, R212, R289, R315): a `gstop` until it completes (R370). -/
def State.stallsNow (s0 : State) (c r : Nat) : Bool :=
  let s := { s0 with curCore := c, curRow := r }
  (s.core c).gstops.any (fun e => e.row == r) || match s.fetch c (!ctlMode (s.ctl c r)) (s.rowPc c r) with
  | .instr i pc s1 => stallsFor i (s1.setRowPc c r pc)
  | .trap .. => false
  | .pads .. => false

/-- An ENGINE trap is pending that the row can take at its next boundary (R125). -/
def State.trapDue (s : State) (c r : Nat) : Bool := (s.core c).engTraps.any (fun e => e.1 == r) && !bitAt (s.slot c r 3) 40

/-- The row's quantum has expired and a READY row may take its place (R112); not while it stalls without closing, nor where an ENGINE
trap comes first (log 55). -/
def State.quantumDue (s : State) (c r : Nat) : Bool :=
  match s.latch? c r with
  | none => false
  | some l => decide ((s.core c).quantum ≤ l.count)
      && (s.eligible c).any (fun e => decide (s.effClass c e ≤ ctlClass (s.ctl c r))) && !s.trapDue c r && !s.stallsNow c r

/-- The row to be activated next: of the lowest effective class, the one that entered READY first (R111). -/
def State.nextReady (s : State) (c : Nat) : Option FifoEntry :=
  (upto 8).findSome? (fun k => (s.eligible c).find? (fun e => s.effClass c e == k))

/-! ### Issue -/

/-- Instructions after which a row may issue nothing for 2 cc: the multiplier's, and control transfers (R116, R117). -/
def holdsRow (op : Nat) : Bool := controlTransfer op || op == 0x1A || op == 0x1B || op == 0x29

/-- The issuing row's counters after an instruction of opcode `op` issues from a code block (R110, R112, R113, R154). -/
def State.issued (s : State) (op blk : Nat) : State :=
  let x := s.core s.curCore
  let s1 := { s with stores := s.stores.map (fun (q : StoreReq) => if q.id.isRow s.curCore s.curRow then q.older else q) }
  s1.setCore s.curCore { x with
    last := match x.latch? s.curRow with
      | some l => l.idx
      | none => x.last
    latches := x.latches.map (fun (l : Latch) =>
      if l.row == s.curRow then
        { l with
          count := l.count + 1, pending := l.pending.map (fun (p : Pending) => { p with since := p.since + 1 })
          block := some blk, hold := if holdsRow op then 2 else 0, gather := if op == 0x02 then l.gather else none }
      else { l with hold := l.hold - 1 }) }

/-- What an issue of core c, row r comes to. -/
inductive Prep where
  /-- The instruction, or the agent's step, that `exec` is to run. -/
  | run (i : Instr) (s : State)
  /-- Nothing for `exec`: the row stalls, or it has trapped on its fetch or decode, or a hazard. -/
  | done (s : State)

/-- A latch is surely able to issue in this cycle (R110): its next instruction lies in the block from which its row last issued,
is stalled by nothing, and takes no trap; no cycle of the multiplier, of a branch or of an outside access may hold it (log 50). -/
def State.surelyAble (s0 : State) (c : Nat) (l : Latch) : Bool :=
  let s := { s0 with curCore := c, curRow := l.row }
  match l.block with
  | none => false
  | some blk =>
    l.intent == .run && l.hold == 0 && s.rowState c l.row == stOpen && !(s.core c).engTraps.any (fun e => e.1 == l.row)
      && !s.quantumDue c l.row && !s.rowReqs.any (fun q => q.core == c && q.row == l.row)
      && l.pending.all (fun p => decide (p.since < p.lah))
      && (match s.fetchHeld c (!ctlMode (s.ctl c l.row)) blk (s.rowPc c l.row) with
          | .instr i pc s1 =>
            let s2 := s1.setRowPc c l.row pc
            mayIssue i s2 && (hazardCode i s2 (s2.pendingOf c l.row)).isNone
          | .trap .. => false
          | .pads .. => false)

/-- Latch a comes before latch b in latch order after the latch that issued last (R110). -/
def CoreSt.before (x : CoreSt) (a b : Nat) : Bool := decide ((a + 15 - x.last) % 8 < (b + 15 - x.last) % 8)

/-- The issue belongs to another latch, which is able and comes first after the one that issued last (R110). -/
def State.passedOver (s : State) (c idx : Nat) : Bool :=
  (s.core c).latches.any (fun l => (s.core c).before l.idx idx && s.surelyAble c l)

/-- Core c issues from row r (R110): a pending ENGINE trap (R125), then the quantum (R112), then the instruction at PC with
its checks in the order of R34, the windows (R113) and the hazards (R115). DESIGN CHOICE (log 55): where a pending ENGINE trap
and the quantum meet at one boundary, the trap comes first. -/
def State.prepare (s0 : State) (c r : Nat) : Prep :=
  let s := { s0 with curCore := c, curRow := r }
  match s.latch? c r with
  | none => .done s
  | some l =>
    if l.intent ≠ .run ∨ s.rowState c r ≠ stOpen ∨ s.passedOver c l.idx then .done s
    else if s.trapDue c r then .run (.engineTrapDelivery c r) s
    else if s.quantumDue c r then .run (.quantumExpiry c r) s
    else if !l.pending.all (fun p => decide (p.since < p.lah)) then .done s
    else
      match s.fetch c (!ctlMode (s.ctl c r)) (s.rowPc c r) with
      | .pads _ s1 => .done s1
      | .trap k pc len s1 =>
        .done ((s1.setRowPc c r pc).raise { cause := k, pc := pc, code := 0, deferred := false, len := len })
      | .instr i pc s1 =>
        let s2 := s1.setRowPc c r pc
        if !mayIssue i s2 then .done s1
        else
          match hazardCode i s2 (s2.pendingOf c r) with
          | some code =>
            let len := match i.operands? with
              | some o => o.len.units
              | none => 0
            .done (s2.raise { cause := .haz, pc := pc, code := BitVec.ofNat 8 code, deferred := false, len := len })
          | none => .run i (s2.issued (opcodeOf i) (s2.codeVa c pc / 32 * 32))

end Sys2Proof.Machine
end

