-- ==== Sys2Proof/Machine/Control.lean ====
section
/-! DEFINITION. No-operation, hints, branches, jumps, yield, halt, wait, trap and return (R129 to R139). -/

namespace Sys2Proof.Machine

abbrev Result := Host.Outcome State Fault Refusal

/-- R129. -/
def execNop (o : Operands) (s : State) : Result := .next (s.advance o)

/-- The hold of a `hint.gather` has ended. -/
def State.endGather (s : State) : State :=
  if s.gatherHeld s.curCore s.curRow then s.modLatch s.curCore s.curRow (fun l => { l with gather := none }) else s

/-- The hold of a `hint.gather` begins, in this cycle of the grove. -/
def State.startGather (s : State) : State :=
  if s.gatherHeld s.curCore s.curRow then s
  else s.modLatch s.curCore s.curRow (fun l => { l with gather := some ((s.grove (groveOf s.curCore)).cc, s.pc) })

/-- R130: the row is held, for up to k cycles, while another one may catch up with it; then PC becomes next. -/
def execHintGather (o : Operands) (s : State) : Result :=
  if s.gatherOver s.curCore s.curRow (o.immAt 0 8) then .next (s.endGather.advance o) else .next s.startGather.stallHere

/-- R131: the block that holds pc + imm is brought into the instruction cache; a request that fails is dropped, and memory stays
as it is. -/
def execHintFetch (o : Operands) (s : State) : Result :=
  .next ((s.prefetchBlock s.curCore (s.codeVa s.curCore (s.pc + o.imm.setWidth 32))).advance o)

/-- `bt := (1 << 32) OR t` (R132). -/
def State.prepareTarget (s : State) (t : BitVec 32) : State := s.setReg 2 (word (2 ^ 32 + t.toNat))

/-- R132, FN 0. -/
def execPbr (o : Operands) (s : State) : Result := .next ((s.prepareTarget (s.pc + o.imm.setWidth 32)).advance o)

/-- R132, FN 1. -/
def execPbrRegister (o : Operands) (s : State) : Result :=
  .next ((s.prepareTarget ((s.reg o.ra).setWidth 32 + o.imm.setWidth 32)).advance o)

/-- A branch through `bt` (R134): taken with VALID 0 it raises BT; `s1` is the state with the counter of `loop` written. -/
def State.branch (s : State) (o : Operands) (take : Bool) (s1 : State) : State :=
  if take && !bitAt (s.reg 2) 32 then s.trap o .bt 0
  else if take then s1.setPc ((s.reg 2).setWidth 32)
  else s1.advance o

/-- R134, OP 0x04. -/
def execBr (o : Operands) (s : State) : Result := .next (s.branch o true s)

/-- R134, OP 0x05. -/
def execBCc (o : Operands) (s : State) : Result :=
  .next (s.branch o (intCond o.cc o.is32 (s.reg o.ra) (s.reg o.rb)) s)

/-- R134, OP 0x06. -/
def execBiCc (o : Operands) (s : State) : Result :=
  .next (s.branch o (intCond o.cc o.is32 (s.reg o.ra) o.imm) s)

/-- R134, OP 0x07. -/
def execLoop (o : Operands) (s : State) : Result :=
  let v := s.reg o.rd - 1
  .next (s.branch o (v != 0) (s.setReg o.rd v))

/-- R135, `j`. -/
def execJ (o : Operands) (s : State) : Result := .next (s.setPc (s.pc + o.imm.setWidth 32))

/-- The link register takes `next`, and PC a target computed before the write (R135). -/
def State.callTo (s : State) (o : Operands) (t : BitVec 32) : State :=
  (s.setReg o.rd ((s.next o).setWidth 64)).setPc t

/-- R135, `call`. -/
def execCall (o : Operands) (s : State) : Result := .next (s.callTo o (s.pc + o.imm.setWidth 32))

/-- R135, `jr`. -/
def execJr (o : Operands) (s : State) : Result := .next (s.setPc ((s.reg o.ra).setWidth 32 + o.imm.setWidth 32))

/-- R135, `callr`. -/
def execCallr (o : Operands) (s : State) : Result :=
  .next (s.callTo o ((s.reg o.ra).setWidth 32 + o.imm.setWidth 32))

/-- The row issues nothing more and closes once it has drained (R109, R112). -/
def State.closing (s : State) (dest : CloseTo) : State := s.setIntent s.curCore s.curRow (.close dest)

/-- R112, R136: the row closes when a READY row of a class not shed exists, else a `nop`. -/
def execYield (o : Operands) (s : State) : Result :=
  if (s.eligible s.curCore).isEmpty then .next (s.advance o) else .next ((s.advance o).closing .ready)

/-- R7, R136: PC holds the address of the `halt`. -/
def execHalt (_o : Operands) (s : State) : Result := .next (s.closing (.halt s.pc))

/-- `Block(kind, operand)` of R137: an entry is reserved, and the row drains and closes into WAIT. -/
def State.block (s : State) (o : Operands) (kind : Nat) (on : Option WaitOn) : State :=
  let s1 := match on with
    | some w => s.addWait s.curCore { row := s.curRow, on := w, met := false }
    | none => s
  s1.closing (.wait kind (s.next o))

/-- R137, FN 0. -/
def execWaitClasp (o : Operands) (s : State) : Result :=
  if bitAt (s.reg 1) 32 then .next (s.block o 1 none) else .next (s.advance o)

/-- A `wait` whose condition does not hold: it stalls while the wait table is full (R137). -/
def State.blockOn (s : State) (o : Operands) (kind : Nat) (w : WaitOn) : State :=
  if s.waitRoom s.curCore then s.block o kind (some w) else s

/-- R137, FN 1. A wait that observes a tag set by an acknowledgement acquires it at system scope (R317, R360). -/
def execWaitAll (o : Operands) (s : State) : Result :=
  let m := s.reg o.ra ||| o.imm
  if (s.core s.curCore).tags &&& m = m then .next ((s.acquireTags s.curCore m).advance o) else .next (s.blockOn o 2 (.tagsAll m))

/-- R137, FN 2; as for FN 1 the tags that it observes are acquired. -/
def execWaitAny (o : Operands) (s : State) : Result :=
  let m := s.reg o.ra ||| o.imm
  if m = 0 ∨ (s.core s.curCore).tags &&& m ≠ 0 then
    .next ((s.acquireTags s.curCore ((s.core s.curCore).tags &&& m)).advance o)
  else .next (s.blockOn o 3 (.tagsAny m))

/-- R137, FN 3. -/
def execWaitUntil (o : Operands) (s : State) : Result :=
  let t := s.reg o.ra + o.imm
  if t ≤ s.time then .next (s.advance o) else .next (s.blockOn o 5 (.time t))

/-- R139: TRAPI with CODE the code. -/
def execTrap (o : Operands) (s : State) : Result := .next (s.trap o .trapi (o.immAt 0 8))

/-- R139: BRK. -/
def execBrk (o : Operands) (s : State) : Result := .next (s.trap o .brk 0)

/-- R123: a `tret` with BUSY clear raises ILL; A = 0 is the plain form. -/
def execTret (o : Operands) (s : State) : Result :=
  if bitAt (s.reg 3) 40 then
    .next (s.returnTrap (if o.a = 0 then none else some ((s.reg o.ra).setWidth 32)))
  else .next (s.trap o .ill 0)

end Sys2Proof.Machine
end

