-- ==== Sys2Proof/Machine/Integer.lean ====
section
/-! DEFINITION. Integer, compare, select, address and bit-field instructions (R140 to R144). -/

namespace Sys2Proof.Machine

/-- The operand width of an integer form (R140). -/
def Operands.intWidth (o : Operands) : Nat := if o.is32 then 32 else 64

/-- The second operand of an integer form: `imm` or register B (R140). -/
def State.intB (s : State) (o : Operands) : Word := if o.useImm then o.imm else s.reg o.rb

/-- `wd := (n = 32) ? Sext(res, 32) : res` (R140). -/
def intResult (n res : Nat) : Word := if n = 32 then sextNat 32 res else word res

/-- An integer operation of R140 on n-bit operands: the result modulo 2^n. -/
def State.intOp (s : State) (o : Operands) (f : Nat → Nat → Nat → Nat) : Word :=
  let n := Operands.intWidth o
  intResult n (f n ((s.reg o.ra).toNat % 2 ^ n) ((s.intB o).toNat % 2 ^ n) % 2 ^ n)

/-- D is written and PC := next. -/
def State.finish (s : State) (o : Operands) (v : Word) : State := (s.setReg o.rd v).advance o

def addF (n x y : Nat) : Nat := (x + y) % 2 ^ n
def subF (n x y : Nat) : Nat := (x + 2 ^ n - y) % 2 ^ n
def andF (_n x y : Nat) : Nat := x &&& y
def orF (_n x y : Nat) : Nat := x ||| y
def xorF (_n x y : Nat) : Nat := x ^^^ y
def andnF (n x y : Nat) : Nat := x &&& (2 ^ n - 1 - y)
def shlF (n x y : Nat) : Nat := x * 2 ^ (y % n) % 2 ^ n
def shrF (n x y : Nat) : Nat := x / 2 ^ (y % n)
def sarF (n x y : Nat) : Nat := wrapInt n (signedNat n x / Int.ofNat (2 ^ (y % n)))
def rolF (n x y : Nat) : Nat := (x * 2 ^ (y % n) + x / 2 ^ (n - y % n)) % 2 ^ n
def mulF (n x y : Nat) : Nat := x * y % 2 ^ n
def mulhF (uns : Bool) (n x y : Nat) : Nat :=
  if uns then x * y / 2 ^ n else wrapInt n (signedNat n x * signedNat n y / Int.ofNat (2 ^ n))
def minF (uns : Bool) (n x y : Nat) : Nat :=
  if uns then min x y else if signedNat n x ≤ signedNat n y then x else y
def maxF (uns : Bool) (n x y : Nat) : Nat :=
  if uns then max x y else if signedNat n x ≤ signedNat n y then y else x

/-- Quotient of R141. -/
def divF (uns : Bool) (n x y : Nat) : Nat :=
  if y = 0 then 2 ^ n - 1
  else if uns then x / y
  else wrapInt n (Int.tdiv (signedNat n x) (signedNat n y))

/-- Remainder of R141. -/
def remF (uns : Bool) (n x y : Nat) : Nat :=
  if y = 0 then x
  else if uns then x % y
  else wrapInt n (Int.tmod (signedNat n x) (signedNat n y))

def execAdd (o : Operands) (s : State) : Result := .next (s.finish o (s.intOp o addF))
def execSub (o : Operands) (s : State) : Result := .next (s.finish o (s.intOp o subF))
def execAnd (o : Operands) (s : State) : Result := .next (s.finish o (s.intOp o andF))
def execOr (o : Operands) (s : State) : Result := .next (s.finish o (s.intOp o orF))
def execXor (o : Operands) (s : State) : Result := .next (s.finish o (s.intOp o xorF))
def execAndn (o : Operands) (s : State) : Result := .next (s.finish o (s.intOp o andnF))
def execShl (o : Operands) (s : State) : Result := .next (s.finish o (s.intOp o shlF))
def execShr (o : Operands) (s : State) : Result := .next (s.finish o (s.intOp o shrF))
def execSar (o : Operands) (s : State) : Result := .next (s.finish o (s.intOp o sarF))
def execRol (o : Operands) (s : State) : Result := .next (s.finish o (s.intOp o rolF))
def execMul (o : Operands) (s : State) : Result := .next (s.finish o (s.intOp o mulF))
def execMulh (o : Operands) (s : State) : Result := .next (s.finish o (s.intOp o (mulhF o.fn0)))
def execMin (o : Operands) (s : State) : Result := .next (s.finish o (s.intOp o (minF o.fn0)))
def execMax (o : Operands) (s : State) : Result := .next (s.finish o (s.intOp o (maxF o.fn0)))

/-- A long-latency operation becomes pending and PC := next (R113); what it reads and writes is noted for R115. -/
def State.pend (s : State) (i : Instr) (o : Operands) (op : PendOp) (acquire : Bool) : State :=
  let u := usesOf i s
  let p : Pending := {
    op := op, lah := o.lah.toNat, since := 0, pc := s.pc, len := o.len.units, rregs := u.rregs, wregs := u.wregs,
    rrows := u.rrows.map (fun x => x.1), wrows := u.wrows.map (fun x => x.1), acquire := acquire, seq := s.seq }
  ((s.modLatch s.curCore s.curRow (fun l => { l with pending := l.pending ++ [p] })).bump).advance o

/-- R141: operands read at issue, the result written at completion. -/
def execDiv (o : Operands) (s : State) : Result :=
  .next (s.pend (.div o) o (.value o.rd (s.intOp o (divF o.fn0))) false)
def execRem (o : Operands) (s : State) : Result :=
  .next (s.pend (.rem o) o (.value o.rd (s.intOp o (remF o.fn0))) false)

/-- R142. -/
def execCmpCc (o : Operands) (s : State) : Result :=
  .next (s.finish o (if intCond o.cc o.is32 (s.reg o.ra) (s.intB o) then 1 else 0))
def execSel (o : Operands) (s : State) : Result :=
  .next (s.finish o (if s.reg o.rc ≠ 0 then s.reg o.ra else s.reg o.rb))
def execLi (o : Operands) (s : State) : Result := .next (s.finish o o.imm)
def execLea (o : Operands) (s : State) : Result :=
  .next (s.finish o (s.reg o.ra + s.reg o.rb * word (2 ^ o.fnAt 0 2) + o.imm))

/-- R143. -/
def execBext (o : Operands) (s : State) : Result :=
  let pos := o.immAt 0 6
  let len := o.immAt 6 7
  let f := (s.reg o.ra).toNat / 2 ^ pos % 2 ^ len
  .next (s.finish o (if o.fn0 then sextNat len f else word f))
def execBins (o : Operands) (s : State) : Result :=
  let pos := o.immAt 0 6
  let mask := word ((2 ^ o.immAt 6 7 - 1) * 2 ^ pos)
  .next (s.finish o ((s.reg o.ra &&& ~~~mask) ||| ((s.reg o.rb * word (2 ^ pos)) &&& mask)))

/-- Zero bits above the highest set bit of n (R144). -/
def clzNat (n x : Nat) : Nat := if x = 0 then n else n - 1 - Nat.log2 x
/-- Zero bits below the lowest set bit of n (R144). -/
def ctzNat (n x : Nat) : Nat := ((upto n).find? (fun i => x / 2 ^ i % 2 == 1)).getD n
/-- Set bits of n (R144). -/
def popNat (n x : Nat) : Nat := ((upto n).filter (fun i => x / 2 ^ i % 2 == 1)).length

def State.countOp (s : State) (o : Operands) (f : Nat → Nat → Nat) : Word :=
  word (f (Operands.intWidth o) ((s.reg o.ra).toNat % 2 ^ Operands.intWidth o))

def execClz (o : Operands) (s : State) : Result := .next (s.finish o (s.countOp o clzNat))
def execCtz (o : Operands) (s : State) : Result := .next (s.finish o (s.countOp o ctzNat))
def execPopc (o : Operands) (s : State) : Result := .next (s.finish o (s.countOp o popNat))

/-- R144. -/
def execMadd (o : Operands) (s : State) : Result :=
  let n := Operands.intWidth o
  .next (s.finish o (intResult n (((s.reg o.ra).toNat * (s.reg o.rb).toNat + (s.reg o.rc).toNat) % 2 ^ n)))

end Sys2Proof.Machine
end

