-- ==== Sys2Proof/Machine/Float.lean ====
section
/-! DEFINITION. Scalar FP32 instructions (R145 to R151). -/

namespace Sys2Proof.Machine

/-- The exact value of register[31:0] as FP32 (R145). -/
def State.fval (s : State) (k : Nat) : Val := Fmt.fp32.decode ((s.reg k).toNat % 2 ^ 32)
/-- `Rnd(v, FP32, rm, 1)` zero-extended (R145, R146). -/
def fp32Word (rm : Nat) (v : Val) : Word := word (rnd .fp32 rm true v)

def execFadd (o : Operands) (s : State) : Result :=
  .next (s.finish o (fp32Word o.rm (Val.add o.rm (s.fval o.ra) (s.fval o.rb))))
def execFsub (o : Operands) (s : State) : Result :=
  .next (s.finish o (fp32Word o.rm (Val.add o.rm (s.fval o.ra) (s.fval o.rb).neg)))
def execFmul (o : Operands) (s : State) : Result :=
  .next (s.finish o (fp32Word o.rm ((s.fval o.ra).mul (s.fval o.rb))))
def execFfma (o : Operands) (s : State) : Result :=
  .next (s.finish o (fp32Word o.rm (Val.add o.rm ((s.fval o.ra).mul (s.fval o.rb)) (s.fval o.rc))))
def execFdiv (o : Operands) (s : State) : Result :=
  .next (s.pend (.fdiv o) o (.value o.rd (word (divRnd .fp32 o.rm true (s.fval o.ra) (s.fval o.rb)))) false)
def execFsqrt (o : Operands) (s : State) : Result :=
  .next (s.pend (.fsqrt o) o (.value o.rd (word (sqrtRnd .fp32 o.rm true (s.fval o.ra)))) false)

/-- `fmin` and `fmax` on FP32 codes (R147): the operand code chosen. -/
def chooseFp32 (larger : Bool) (a b : Nat) : Nat :=
  let x := Fmt.fp32.decode a
  let y := Fmt.fp32.decode b
  if x.isNan && y.isNan then 0x7FC00000
  else if x.isNan then b
  else if y.isNan then a
  else if larger then (if x.below y then b else a)
  else (if y.below x then b else a)

def State.low32 (s : State) (k : Nat) : Nat := (s.reg k).toNat % 2 ^ 32

def execFmin (o : Operands) (s : State) : Result :=
  .next (s.finish o (word (chooseFp32 false (s.low32 o.ra) (s.low32 o.rb))))
def execFmax (o : Operands) (s : State) : Result :=
  .next (s.finish o (word (chooseFp32 true (s.low32 o.ra) (s.low32 o.rb))))
/-- R148. -/
def execFcmpCc (o : Operands) (s : State) : Result :=
  .next (s.finish o (if floatCond o.cc (s.fval o.ra) (s.fval o.rb) then 1 else 0))

/-- R149 by the kinds of R43. -/
def convert (kind rm : Nat) (w : Word) : Word :=
  let lo := w.toNat % 2 ^ 32
  let x := Fmt.fp32.decode lo
  match kind with
  | 0 => sextNat 32 (rndInt 32 true rm false x)
  | 1 => word (rndInt 32 false rm false x)
  | 2 => word (rndInt 64 true rm false x)
  | 3 => word (rndInt 64 false rm false x)
  | 4 => word (rnd .fp32 0 true (Val.ofInt (signedNat 32 lo)))
  | 5 => word (rnd .fp32 0 true (Val.ofInt (Int.ofNat lo)))
  | 6 => word (rnd .fp32 rm true (Val.ofInt (signedNat 64 w.toNat)))
  | 7 => word (rnd .fp32 rm true (Val.ofInt (Int.ofNat w.toNat)))
  | 8 => word (rnd .bf16 rm true x)
  | _ => word (rnd .fp32 0 true (Fmt.bf16.decode (w.toNat % 2 ^ 16)))

def execFcvt (o : Operands) (s : State) : Result := .next (s.finish o (convert (o.fnAt 0 4) o.rm (s.reg o.ra)))

/-- R150: wa with sign bit `sign`; a NaN gives the canonical NaN. -/
def withSign (a : Nat) (sign : Bool) : Word :=
  if (Fmt.fp32.decode a).isNan then 0x7FC00000 else word (sign.toNat * 2 ^ 31 + a % 2 ^ 31)

def execFsgn (o : Operands) (s : State) : Result := .next (s.finish o (withSign (s.low32 o.ra) (bitAt (s.reg o.rb) 31)))
def execFsgnN (o : Operands) (s : State) : Result := .next (s.finish o (withSign (s.low32 o.ra) (!bitAt (s.reg o.rb) 31)))
def execFsgnX (o : Operands) (s : State) : Result :=
  .next (s.finish o (withSign (s.low32 o.ra) (bitAt (s.reg o.ra) 31 != bitAt (s.reg o.rb) 31)))

/-- The class bit of an FP32 code (R151). -/
def classBit (a : Nat) : Nat :=
  let neg := a / 2 ^ 31 % 2 == 1
  match Fmt.fp32.decode a with
  | .nan => 8
  | .inf _ => if neg then 0 else 7
  | .zero _ => if neg then 3 else 4
  | .fin _ _ _ =>
    if a % 2 ^ 31 < 2 ^ 23 then (if neg then 2 else 5) else (if neg then 1 else 6)

def execFclass (o : Operands) (s : State) : Result := .next (s.finish o (word (2 ^ classBit (s.low32 o.ra))))

end Sys2Proof.Machine
end

