-- ==== Sys2Proof/Machine/Telemetry.lean ====
section
/-! DEFINITION. What a telemetry frame does: its checks (R334, R335), the curves (R339), shedding, CADENCE and POWCAP
(R340), and restoration (R343). -/

namespace Sys2Proof.Machine

/-- What the management controller tells the host: codes of `mcall` below 65536, and the model's numbers for its own
alerts. -/
abbrev alertStale : Nat := 65536
abbrev alertAlarm : Nat := 65537
abbrev alertTimebase : Nat := 65538
abbrev alertCrit : Nat := 65539
abbrev alertConfig : Nat := 65540

def State.alert (s : State) (code : Nat) : State := { s with mgmt := { s.mgmt with alerts := s.mgmt.alerts ++ [code] } }

/-- n bytes of a frame from byte k as an unsigned value. -/
def frameNat (bs : List Byte) (k n : Nat) : Nat := natOfBytes ((bs.drop k).take n)

/-- The frame begins with SYNC (R334). -/
def frameSync (bs : List Byte) : Bool := frameNat bs 0 2 == 0xA57E

/-- The checks of R335 other than SYNC. -/
def frameGood (lastseq : Nat) (bs : List Byte) : Bool :=
  frameNat bs 28 4 == crc32 (bs.take 28) && frameNat bs 17 11 == 0 && decide (frameNat bs 16 1 < 8)
    && frameNat bs 2 2 != lastseq

/-- The value of a curve at x (R339): points X and F, ascending. -/
def curveAt (x : Int) : List (Int × Nat) → Nat
  | [] => 1024
  | [p] => p.2
  | p :: q :: rest =>
    if x ≤ p.1 then p.2
    else if x < q.1 then
      (Int.ofNat p.2 + (Int.ofNat q.2 - Int.ofNat p.2) * (x - p.1) / (q.1 - p.1)).toNat
    else curveAt x (q :: rest)

/-- The points of a curve in effect: `n` registers from an offset. -/
def PowerSt.points (x : PowerSt) (base n : Nat) : List (Int × Nat) :=
  (upto n).map (fun i => (signedNat 32 (bitsAt (x.now (base + 8 * i)) 0 32), bitsAt (x.now (base + 8 * i)) 32 11))

/-- A of R339 for a frame. -/
def PowerSt.fraction (x : PowerSt) (bs : List Byte) : Nat :=
  let f0 : Int := if bitAt (x.reg 0x0000) 1 then 60000000 else 50000000
  let df : Int := (Int.ofNat (frameNat bs 4 4) - f0) / 1000
  let dv : Int := Int.ofNat (frameNat bs 12 4) - Int.ofNat (bitsAt (x.reg 0x0010) 0 20)
  min (curveAt df (x.points 0x0100 (bitsAt (x.now 0x01C0) 0 5))) (curveAt dv (x.points 0x0180 (bitsAt (x.now 0x01C0) 8 4)))

/-- A class in SHED. -/
def PowerSt.sheds (x : PowerSt) (k : Nat) : Bool := x.shed.toNat / 2 ^ k % 2 == 1
def PowerSt.setShed (x : PowerSt) (k : Nat) (b : Bool) : PowerSt :=
  { x with shed := BitVec.ofNat 8 (x.shed.toNat % 2 ^ k + b.toNat * 2 ^ k + x.shed.toNat / 2 ^ (k + 1) * 2 ^ (k + 1)) }

/-- THR of class k in effect. -/
def PowerSt.thr (x : PowerSt) (k : Nat) : Nat := bitsAt (x.now (0x0200 + 8 * (k - 1))) 0 11
/-- HYST in effect. -/
def PowerSt.hyst (x : PowerSt) : Nat := bitsAt (x.now 0x0240) 0 11

/-- Classes 1 to 7. -/
def shedClasses : List Nat := [1, 2, 3, 4, 5, 6, 7]

/-- A class is added to SHED with its mark (R340). -/
def PowerSt.shedClass (x : PowerSt) (k t : Nat) : PowerSt :=
  let y := x.setShed k true
  { y with mark := y.mark.set none k (some t), since := y.since.set none k none }

/-- The shedding of R340 at fraction a. `thermal7` says that class 7 is shed by the thermal rule alone (R352). -/
def PowerSt.shedAll (x : PowerSt) (a t : Nat) : PowerSt :=
  let y := shedClasses.foldl (fun (y : PowerSt) k => if a < y.thr k ∧ ¬ y.sheds k then y.shedClass k t else y) x
  { y with thermal7 := y.thermal7 && !decide (a < y.thr 7) }

/-- A class is drained: no core holds in a latch a row of it (R340). -/
def State.drained (s : State) (k : Nat) : Bool :=
  s.cores.items.all (fun e => e.2.latches.all (fun l => ctlClass (s.ctl e.1 l.row) != k))

/-- BASE and MATRIX of a class (R340). -/
def PowerSt.classPower (x : PowerSt) (k : Nat) : Nat × Nat :=
  let o := x.reg (0x0300 + 8 * k)
  let w := if bitAt o 63 then o else x.cpwr.get 0 (0x0280 + 8 * k)
  (bitsAt w 0 24, bitsAt w 24 24)

/-- PI of R340. -/
def PowerSt.idlePower (x : PowerSt) : Nat :=
  let o := x.reg 0x0340
  if bitAt o 63 then bitsAt o 0 24 else bitsAt (x.cpwr.get 0 0x02C0) 0 24

/-- `E(c) <= lim` of R340, exact, both sides multiplied by 1024·c. -/
def State.fits (s : State) (a c : Nat) : Bool :=
  let x := s.power
  let ks := (upto 8).filter (fun k => !(x.sheds k && s.drained k))
  let base := x.idlePower + (ks.map (fun k => (x.classPower k).1)).sum
  let mat := (ks.map (fun k => (x.classPower k).2)).sum
  decide ((base * c + mat) * 1024 ≤ a * bitsAt (x.reg 0x0018) 0 12 * 1000 * c)

/-- The CADENCE that was in force in every core over the last 1 ms; none where it changed in that time or differs among cores, as the
thermal floor makes it (R340, R342). -/
def State.steadyCadence (s : State) : Option Nat :=
  if s.power.cadFrom.all (fun t => decide (t + 1000000 ≤ s.time.toNat))
      && (upto numGroves).all (fun g => s.cadence (4 * g) == s.cadence 0) then some (s.cadence 0)
  else none

/-- The CADENCE of some core has changed on the way from `s` to `t`. -/
def State.cadenceFrom (t s : State) : State :=
  if (upto numGroves).all (fun g => t.cadence (4 * g) == s.cadence (4 * g)) then t
  else { t with power := { t.power with cadFrom := some t.time.toNat } }

/-- PMEAS of R340: IDLE and the measured power of every class at the CADENCE in force over the window, whole mW. Where more than one was
in force, the matrix units took a free value between what CADENCE 16 and CADENCE 1 give (log 10). -/
def measuredPower (cpwr : Sparse Word) (cad : Option Nat) (free : Nat) : Nat :=
  let base := ((upto 8).map (fun k => bitsAt (cpwr.get 0 (0x0280 + 8 * k)) 0 24)).sum
  let mat := ((upto 8).map (fun k => bitsAt (cpwr.get 0 (0x0280 + 8 * k)) 24 24)).sum
  let now := match cad with
    | some c => mat / c
    | none => mat / 16 + free % (mat - mat / 16 + 1)
  (bitsAt (cpwr.get 0 0x02C0) 0 24 + base + now) % 2 ^ 24

/-- The measured registers take new values (R340, log 10). -/
def State.measure (s : State) : State :=
  let m (k : Nat) : Nat := (Config.measured s.draws k).toNat
  let cp := (upto 8).foldl (fun (q : Sparse Word) k => q.set 0 (0x0280 + 8 * k) (word (m (2 * k) + m (2 * k + 1) * 2 ^ 24)))
    s.power.cpwr
  let ip := cp.set 0 0x02C0 (word (m 16))
  { s with power := { s.power with cpwr := ip.set 0 0x02C8 (word (measuredPower ip s.steadyCadence (m 17))) } }.draw

/-- CADENCE and POWCAP of R340. -/
def State.adjust (s : State) (a : Nat) : State :=
  let x := s.power
  let cad := ([1, 2, 3, 4, 6, 8, 12, 16].find? (fun c => s.fits a c)).getD 16
  let pmeas := bitsAt (x.cpwr.get 0 0x02C8) 0 24
  let pl := bitsAt (x.reg 0x0018) 0 12
  let cap :=
    if !s.fits a 16 then min (x.powcap + 1) 7
    else if cad = 1 ∧ 0 < x.powcap ∧ pmeas * 1024 + x.hyst * pl * 1000 ≤ a * pl * 1000 then x.powcap - 1
    else x.powcap
  State.cadenceFrom { s with power := { x with cad := cad, powcap := cap } } s

/-! ### Restoration (R343) -/

/-- Some grove is at HOT (R352). -/
def State.anyHot (s : State) : Bool := (upto numGroves).any (fun g => decide (2 ≤ s.thermal g))

/-- The class of a gang's descriptor. -/
def State.gangClass (s : State) (p g : Nat) : Option Nat := (s.descriptor p g).1.map (fun d => d.cls)

/-- A grove in G1 or G2 wakes for a class that leaves SHED while one of its cores holds a READY row of it (R349). -/
def State.wakeFor (s : State) (k g : Nat) : State :=
  let ready := (upto 4).any (fun j => (s.core (4 * g + j)).fifo.any (fun e => ctlClass (s.ctl (4 * g + j) e.row) == k))
  if ready then s.rouse g else s

/-- A gang whose class has left SHED loses the mark, and its held releases get their instant from now (R178, R343). Nothing happens
while its descriptor breaks R121. -/
def State.unshedGang (s : State) (p g : Nat) : State :=
  match (s.descriptor p g).1 with
  | none => s
  | some d =>
    let t := if (s.gang p g).shed then s.clearMark p g .shed else s
    let x := t.gang p g
    t.setGang p g { x with due := x.due.map (fun (e : Episode) =>
      if e.held then { e with t := d.release t.time.toNat, held := false } else e) }

/-- A class leaves SHED: groves wake for its READY rows (R349), its shed-stopped gangs lose the mark, and held releases get their instant
from now (R178, R343). -/
def State.unshed (s : State) (k : Nat) : State :=
  let s0 := { s with power := { s.power.setShed k false with thermal7 := s.power.thermal7 && k != 7 } }
  let s1 := (upto numGroves).foldl (fun (t : State) g => t.wakeFor k g) s0
  let keys := (s1.gangs.items.map (fun e => e.1)).filter (fun key => s1.gangClass (key / 4096) (key % 4096) == some k)
  keys.foldl (fun (t : State) key => t.unshedGang (key / 4096) (key % 4096)) s1

/-- `Restore(t)` at fraction a. -/
def State.restore (s : State) (a : Nat) : State :=
  let t := s.time.toNat
  let x := s.power
  if x.stale then s
  else
    let since := shedClasses.foldl (fun (m : Sparse (Option Nat)) k =>
      if x.sheds k ∧ x.thr k + x.hyst ≤ a then (if m.get none k = none then m.set none k (some t) else m)
      else m.set none k none) x.since
    let s1 := { s with power := { x with since := since } }
    let free := match x.lastrest with
      | none => true
      | some l => decide (bitsAt (x.now 0x0258) 0 32 ≤ t - l)
    if !free then s1
    else
      match shedClasses.find? (fun k => x.sheds k && !(k == 7 && s1.anyHot) && (match since.get none k with
          | none => false
          | some t0 => decide (bitsAt (x.now 0x0250) 0 32 ≤ t - t0))) with
      | none => s1
      | some k => ({ s1 with power := { s1.power with lastrest := some t } }).unshed k

/-! ### A frame -/

/-- An accepted frame is recorded (R335). -/
def State.acceptFrame (s : State) (bs : List Byte) : State :=
  let x := s.power
  let fl := frameNat bs 16 1
  let s1 := { s with power := { x with
    lastseq := frameNat bs 2 2, islanded := fl % 2 == 1, alarm := fl / 4 % 2 == 1, goodfr := (x.goodfr + 1) % 2 ^ 32,
    tlast := bs } }
  let s2 := if fl / 4 % 2 = 1 then s1.alert alertAlarm else s1
  s2.measure

/-- What a usable frame does (R336, R338, R340). -/
def State.useFrame (s : State) (bs : List Byte) : State :=
  let x := s.power
  let t := s.time.toNat
  let x1 := { x with stale := false, lastUsable := t, eff := x.pending.getD x.eff, pending := none }
  let a := x1.fraction bs
  let s1 := { s with power := { x1.shedAll a t with allowed := a } }
  (((s1.adjust a).restore a)).repointAll

/-- One frame of 32 bytes, from the port or through REPLAY (R335, R337). -/
def State.frame (s : State) (bs : List Byte) (replay : Bool) : State :=
  if !replay && (bitAt (s.power.reg 0x0000) 0 || !frameSync bs || bs.length != 32) then s
  else if !frameSync bs || bs.length != 32 || !frameGood s.power.lastseq bs then
    { s with power := { s.power with badfr := (s.power.badfr + 1) % 256 } }
  else
    let s1 := s.acceptFrame bs
    if frameNat bs 16 1 / 2 % 2 = 1 then s1 else s1.useFrame bs

end Sys2Proof.Machine
end

