-- ==== Sys2Proof/Machine/Access.lean ====
section
/-! DEFINITION. Accesses to the units of REGION 10 and to memory at the receiver (R71 to R73, R77, R85, R168, R262, R288,
R332), control requests (R103, R104), outside stores (R105, R106), and the sender's checks (R72, R89, R154). -/

namespace Sys2Proof.Machine

/-! ### Control requests -/

/-- The sender's checks of a control request (R103): the cause and its CODE. -/
def State.controlRefusal (s : State) (id : Ident) (c r : Nat) (w : Word) (wide : Bool) : Option (Cause × Nat) :=
  let cur := s.ctl c r
  let st := ctlState w
  if !wide then some (.cwstate, 1)
  else if st ≠ stIdle ∧ st ≠ stReady ∧ st ≠ stHalt then some (.cwstate, 2)
  else if bitsAt w 56 8 ≠ 0 ∨ (id.mode = false ∧
      (ctlClass w ≠ ctlClass cur ∨ ctlMode w ≠ ctlMode cur ∨ ctlGang w ≠ ctlGang cur)) then some (.cwstate, 3)
  else if !id.mode && id.gang != ctlGang cur then some (.prot, 0)
  else if s.rowDenied id c r true then some (.prot, 0)
  else none

/-- A request is discarded, and posted with KIND 3 (R104). -/
def State.refuseControl (s : State) (id : Ident) (c r : Nat) (w : Word) (k : Cause) : State :=
  s.postRecord (s.partid c) (s.record 3 k.code (rowVa 0x3FF c r) 0 w id.origin)

/-- A pool row (R294). -/
def State.poolRow (s : State) (c r : Nat) : Option PoolRow := (s.core c).pool.find? (fun q => q.row == r)

/-- A lent row that has come to HALT is IDLE and free again, or leaves its pool (R294, R295); its wait-table entries are freed
(R108). -/
def State.returnPool (s : State) (c r : Nat) : State :=
  match s.poolRow c r with
  | none => s
  | some q =>
    if !q.lent then s
    else if q.leaving then ((s.leavePool c r).freeWaits c r).setRowState c r stIdle
    else ((s.setCore c { s.core c with pool := (s.core c).pool.map (fun (x : PoolRow) =>
      if x.row == r then { x with lent := false } else x) }).freeWaits c r).setRowState c r stIdle

/-- A free row whose state a request changed leaves its pool (R294). -/
def State.dropFree (s : State) (c r : Nat) : State :=
  match s.poolRow c r with
  | none => s
  | some q => if q.lent then s else s.leavePool c r

/-- CLASS, MODE and GANG as a request writes them (R103). -/
def State.setIdentity (s : State) (c r : Nat) (w : Word) : State :=
  s.setCtl c r (putBits (putBit (putBits (s.ctl c r) 36 3 (ctlClass w)) 39 (ctlMode w)) 44 12 (ctlGang w))

/-- READY written to an OPEN row: its PC is replaced (R103). DESIGN CHOICE (log 73): of a row that drains it is the PC from which the row
goes on: once it has entered its trap, while it waits, or from its FIFO; a row on its way to HALT closes into READY instead. -/
def State.redirect (s : State) (c r : Nat) (pc : BitVec 32) : State :=
  match s.latch? c r with
  | none => s.setRowPc c r pc
  | some l => (match l.intent with
    | .trap t => s.setIntent c r (.trap { t with redirect := some (pc, false) })
    | .close (.wait k _) => s.setIntent c r (.close (.wait k pc))
    | .close (.halt _) => (s.setRowPc c r pc).setIntent c r (.close .ready)
    | .close .ready => s.setRowPc c r pc
    | .close .stopped => s.setRowPc c r pc
    | .run => s.setRowPc c r pc
    | .stalled => s.setRowPc c r pc)

/-- HALT written to an OPEN row: it issues nothing more, drains and closes into HALT (R103); one that drains to enter a trap does so
first (log 73). A wait that it was about to close for is cancelled. -/
def State.haltOpen (s : State) (c r : Nat) (pc : BitVec 32) : State :=
  match s.latch? c r with
  | none => s
  | some l => (match l.intent with
    | .trap t => s.setIntent c r (.trap { t with redirect := some (pc, true) })
    | .close (.wait k _) =>
      ((s.freeWaitOp c r).dropWaits c (fun e => e.row == r && e.on.isBarrier && k == 4)).setIntent c r (.close (.halt pc))
    | .stalled => (s.dropWaits c (fun e => e.row == r && e.on.isBarrier)).setIntent c r (.close (.halt pc))
    | .close (.halt _) => s.setIntent c r (.close (.halt pc))
    | .close .ready => s.setIntent c r (.close (.halt pc))
    | .close .stopped => s.setIntent c r (.close (.halt pc))
    | .run => s.setIntent c r (.close (.halt pc)))

/-- The table of R103 at the target: the state after the request, or none where it is refused. DESIGN CHOICE (log 78): so is a request
that passed its sender's checks, if it is no supervisor's and its CLASS, MODE or GANG are no longer those of the target. -/
def State.controlTable (s : State) (id : Ident) (c r : Nat) (w : Word) : Option State :=
  let cur := s.ctl c r
  let st := ctlState cur
  let new := ctlState w
  let sup := id.mode
  let moved := ctlClass w ≠ ctlClass cur ∨ ctlMode w ≠ ctlMode cur ∨ ctlGang w ≠ ctlGang cur
  if moved ∧ (!sup ∨ (st ≠ stIdle ∧ st ≠ stHalt ∧ st ≠ stFault)) then none
  else
    let s1 := (s.setIdentity c r w).setRowPc c r (ctlPc w)
    match st, new with
    | 0, 0 => some s1
    | 0, 1 => some ((s1.dropFree c r).makeReady c r)
    | 0, _ => some ((s1.dropFree c r).setRowState c r stHalt)
    | 1, 1 => some s1
    | 1, 4 => some (((s1.leaveFifo c r).setRowState c r stHalt).returnPool c r)
    | 2, 1 => some (s.redirect c r (ctlPc w))
    | 2, 4 => some (s.haltOpen c r (ctlPc w))
    | 3, 1 => some s1
    | 3, 4 =>
      let s2 := (s1.freeWaitOp c r).dropWaits c (fun e => e.row == r && e.on.isBarrier && ctlWait cur == 4)
      some (((s2.setWaitKind c r 0).setRowState c r stHalt).returnPool c r)
    | 4, 0 => if sup then some ((s1.freeWaits c r).setRowState c r stIdle) else none
    | 4, 1 => some (s1.makeReady c r)
    | 4, 4 => some s1
    | 5, 0 => if sup then some ((s1.freeWaits c r).setRowState c r stIdle) else none
    | 5, 4 => if sup then some (s1.setRowState c r stHalt) else none
    | 7, 4 =>
      if sup then
        let s2 := (s1.freeWaitOp c r).dropWaits c (fun e => e.row == r && e.on.isBarrier && ctlWait cur == 4)
        some (((s2.setWaitKind c r 0).setRowState c r stHalt).returnPool c r)
      else none
    | _, _ => none

/-- A row that a request has brought to HALT or IDLE takes no pending ENGINE trap (R125). -/
def State.settleTraps (s : State) (c r : Nat) : State :=
  if s.rowState c r = stHalt ∨ s.rowState c r = stIdle then s.postTraps c r else s

/-- A control request is applied, or refused and posted (R103, R104). -/
def State.applyControl (s : State) (id : Ident) (c r : Nat) (w : Word) : State :=
  match s.controlTable id c r w with
  | some t => ((t.leaveStop c r).leaveBar c r).settleTraps c r
  | none => s.refuseControl id c r w .cwstate

/-! ### Stores into rows -/

/-- Bytes of a store from a row offset, other than those of slot 0. -/
def State.writeRowBytes (s : State) (c r off : Nat) (bs : List Byte) (keep0 : Bool) : State :=
  let d := if keep0 then bs.drop (8 - min 8 off) else bs
  let o := if keep0 then max off 8 else off
  { s with mem := s.mem.storeBytes (rowKey c r o) d }.cleanse (rowKey c r o) d.length

/-- A store of bytes into a row (R105, R106, R156): slot 0 of a context row takes a control request, after the other slots. -/
def State.applyRowStore (s : State) (id : Ident) (c r off : Nat) (bs : List Byte) : State :=
  if off < 8 && s.isContext c r then
    ((s.writeRowBytes c r off bs true).trimTarget c r).applyControl id c r (word (natOfBytes (bs.take 8)))
  else (s.writeRowBytes c r off bs false).trimTarget c r

/-- A row that takes stores at its boundaries, or has one waiting (R105). -/
def State.rowBusy (s : State) (c r : Nat) : Bool :=
  (s.latch? c r).isSome || s.rowReqs.any (fun q => q.core == c && q.row == r)

/-- An allowed store into a row of an array: applied at the array, or queued for the row's next boundary (R105) and behind the
earlier accesses of its path (R363). `seq` is 0 for work of an engine, which follows no row's program order. -/
def State.storeRow (s : State) (id : Ident) (c r off : Nat) (bs : List Byte) (rs : Bool) (seq : Nat) : State :=
  let q : RowReq := {
    core := c, row := r, off := off, data := bs, ctl := decide (off < 8) && s.isContext c r && bs.length == 8, id := id, rs := rs,
    seq := seq }
  if s.rowBusy c r || !s.arrived q || (seq != 0 && s.rowReqs.any (fun x => x.alongside q)) then { s with rowReqs := s.rowReqs ++ [q] }
  else s.applyRowStore id c r off bs

/-! ### The stack windows and the dispatch windows -/

/-- Call status of a stack (R263). -/
def StackSt.status (x : StackSt) : Word := word (x.calls.length + x.actbank.toNat * 2 ^ 9 + x.pendswap.toNat * 2 ^ 10)

/-- Window status of a partition (R288). -/
def PartSt.window (x : PartSt) : Word := word (x.hdrs.length + x.refused * 2 ^ 16)

/-! ### REGION 10 at the receiver -/

/-- A reserved unit number of REGION 10 (R73). -/
def unitReserved (u : Nat) : Bool :=
  !(u < 0x140 || (0x180 ≤ u && u ≤ 0x187) || u == 0x1F0 || u == 0x1F1)

/-- The access is one of this device (R262). -/
def Ident.local_ (id : Ident) : Bool := id.node == 0x3FF || id.host

/-- What comes at a place in program order is refused with ABSENT: the partition is swapped out, or has closed its admission (R375,
R377). -/
def PartSt.shut (x : PartSt) (seq : Nat) : Bool := x.saved.isSome || x.shutAt.any (fun n => decide (n ≤ seq))

/-- The core's partition is swapped out: accesses are refused with ABSENT (R377, R397). -/
def State.swappedOut (s : State) (c : Nat) : Bool := (s.part (s.partid c)).saved.isSome

/-- A read or an atomic at a unit of a partition is refused with ABSENT; one by the host comes when it is made (R375, R377, R397). -/
def State.readsRefused (s : State) (id : Ident) (p : Nat) : Bool :=
  (s.part p).saved.isSome || (id.host && (s.part p).shutAt.isSome)

/-- A load of n bytes of a core's unit, in arrival order with the stores to its row (R68, R71, R73, R85, R105). One of an array in G3 faults,
one of an engine page is held until its grove wakes (R349). -/
def State.coreLoad (s : State) (id : Ident) (c o n : Nat) (multi : Bool) : Acc (List Byte) :=
  if 2 ^ 21 ≤ o ∨ id.part ≠ s.partid c then .fault .prot
  else if s.readsRefused id (s.partid c) ∨ (s.absent c ∧ o < 2 ^ 20) then .fault .absent
  else if s.asleep (groveOf c) ∨ s.absent c then .hold
  else if o < 2 ^ 20 then
    if s.rowDenied id c (o / 256) false then .fault .prot
    else if s.rowWaits c (o / 256) then .hold
    else if s.poisoned (arrayKey c o) n then .fault .memerr
    else .ok (s.shownBytes c o n)
  else
    match s.pageLoad c o n multi with
    | .ok v => .ok (bytesOfNat 8 v.toNat)
    | .fault k => .fault k
    | .hold => .hold

/-- The key of a scratch offset of a grove (R81). -/
def State.scratchAt (s : State) (g o : Nat) : Nat := scratchKey g ((s.grove g).epochs.get 0 (o / 2 ^ 18)) o

/-- The scratch offset lies below the grove's scratch, and the grove is the accessor's partition's (R73, R81). -/
def State.scratchOk (s : State) (id : Ident) (g o n : Nat) : Bool :=
  s.owns id.part g && decide (o + n ≤ (s.grove g).ways * 2 ^ 18)

/-- A load of n bytes from a unit of REGION 10, checked at the receiver. -/
def State.unitLoad (s : State) (id : Ident) (va n : Nat) (multi : Bool) : Acc (List Byte) :=
  let u := vaUnit va
  let o := vaOff va
  if u < 0x100 then s.coreLoad id u o n multi
  else if u < 0x140 then
    let g := u - 0x100
    if !s.scratchOk id g o n then .fault .prot
    else if s.readsRefused id id.part then .fault .absent
    else if s.asleep g then .hold
    else if s.poisoned (s.scratchAt g o) n then .fault .memerr
    else .ok (s.mem.loadBytes n (s.scratchAt g o))
  else if 0x180 ≤ u ∧ u ≤ 0x187 then
    if o = 0x40 ∧ n = 8 ∧ !multi ∧ id.local_ then .ok (bytesOfNat 8 (s.stack (u - 0x180)).status.toNat) else .fault .prot
  else if u = 0x1F0 then
    if o / 0x1000 < 16 ∧ o % 0x1000 = 0x40 ∧ n = 8 ∧ !multi ∧ id.part = o / 0x1000 then
      .ok (bytesOfNat 8 (s.part (o / 0x1000)).window.toNat)
    else .fault .prot
  else if u = 0x1F1 then
    if !id.mode || multi then .fault .prot
    else
      match s.blockLoad o n with
      | some v => .ok (bytesOfNat 8 v.toNat)
      | none => .fault .prot
  else .fault .prot

/-- A store to slot 0 of a context row, through REGION 10 (R103, R104). -/
def State.controlStore (s : State) (c o : Nat) : Bool := decide (o < 2 ^ 20) && decide (o % 256 < 8) && s.isContext c (o / 256)

/-- A store to a core's unit (R68, R71, R73, R85, R104, R349); `seq` is its place in its row's program order. DESIGN CHOICE (log 57):
a control request over part of an atom with an error is discarded and posted with KIND 3 and cause MEMERR, as R104 has it for a failure
at the receiver, and its writer takes no trap. -/
def State.coreStore (s : State) (id : Ident) (c o : Nat) (bs : List Byte) (multi : Bool) (seq : Nat) : Acc State :=
  if s.controlStore c o && id.part != s.partid c then .ok (s.refuseControl id c (o / 256) (word (natOfBytes (bs.take 8))) .prot)
  else if 2 ^ 21 ≤ o ∨ id.part ≠ s.partid c then .fault .prot
  else if (s.part (s.partid c)).shut seq ∨ (s.absent c ∧ o < 2 ^ 20) then .fault .absent
  else if s.asleep (groveOf c) ∨ s.absent c then .hold
  else if o < 2 ^ 20 then
    let r := o / 256
    let off := o % 256
    if s.controlStore c o then
      let w := word (natOfBytes (bs.take 8))
      match s.controlRefusal id c r w (bs.length == 8 || multi) with
      | some (k, _) => .ok (s.refuseControl id c r w k)
      | none =>
        if s.partlyPoisoned (arrayKey c o) bs.length then .ok (s.refuseControl id c r w .memerr)
        else .ok (s.storeRow id c r off bs false seq)
    else if s.rowDenied id c r true then .fault .prot
    else if s.partlyPoisoned (arrayKey c o) bs.length then .fault .memerr
    else .ok (s.storeRow id c r off bs false seq)
  else if !id.local_ then .fault .prot
  else s.pageStore c id o bs multi .prot

/-- A store to a stack's windows (R262, R263, R265): a call, or bytes of its operand buffers. A call of a stopped gang is to end
with ABORTED (R371), and so is one of a row that the watchdog has ended (R381). -/
def State.stackStore (s : State) (id : Ident) (k o : Nat) (bs : List Byte) (multi : Bool) : Acc State :=
  if !id.local_ then .fault .prot
  else if o = 0 ∧ bs.length = 64 ∧ multi then
    let x := s.stack k
    if 256 ≤ x.calls.length then .hold
    else .ok (s.setStack k { x with calls := x.calls ++ [{
      words := wordsOf bs, id := id, abort := s.idStopped id || s.idEnded id, late := false, run := CallRun.start, ended := none }] })
  else if 0x10000 ≤ o ∧ o + bs.length ≤ 0x20000 ∧ o % 8 = 0 ∧ (bs.length = 8 ∨ multi) then
    .ok { s with mem := s.mem.storeBytes (bufferKey k (o - 0x10000)) bs }
  else .fault .prot

/-- How a header came (R298): from this device, or over the fabric. -/
def Ident.path (id : Ident) : HdrPath := if id.local_ then .window else .fabric id.node

/-- A store to a dispatch header window (R288, R289, R325), which a partition that has closed its admission refuses (R375, R377). -/
def State.headerStore (s : State) (id : Ident) (o : Nat) (bs : List Byte) (multi : Bool) (seq : Nat) : Acc State :=
  let p := o / 0x1000
  if p < 16 ∧ o % 0x1000 = 0 ∧ bs.length = 64 ∧ multi ∧ id.part = p ∧ !(s.part p).shut seq then
    if 64 ≤ (s.part p).hdrs.length then .hold
    else .ok (s.setPart p { s.part p with hdrs := (s.part p).hdrs ++ [{
      words := wordsOf bs, id := if id.local_ then id else { id with mode := true }, path := id.path }] })
  else .fault .prot

/-- A store to the power and telemetry block (R332, R337, R338). -/
def State.powerStore (s : State) (id : Ident) (o : Nat) (bs : List Byte) (multi : Bool) : Acc State :=
  let v := word (natOfBytes bs)
  let res := fun (x : Option State) => match x with
    | some t => Acc.ok t
    | none => Acc.fault Cause.prot
  if !id.mode then .fault .prot
  else if o = 0x40 ∧ bs.length = 32 ∧ multi then
    if bitAt (s.power.reg 0x0000) 0 then .ok (s.frame bs true) else .fault .prot
  else if multi then .fault .prot
  else if o = 0x0000 then res (s.tctlStore bs.length v)
  else if o = 0x0068 then res (s.commitStore bs.length v)
  else res (s.blockStore o bs.length v)

/-- A store to a unit of REGION 10, checked at the receiver; `multi` for a store of several registers, one record; `seq` its place
in its row's program order. -/
def State.unitStore (s : State) (id : Ident) (va : Nat) (bs : List Byte) (multi : Bool) (seq : Nat) : Acc State :=
  let u := vaUnit va
  let o := vaOff va
  if u < 0x100 then s.coreStore id u o bs multi seq
  else if u < 0x140 then
    let g := u - 0x100
    if !s.scratchOk id g o bs.length then .fault .prot
    else if (s.part id.part).shut seq then .fault .absent
    else if s.asleep g then .hold
    else if s.partlyPoisoned (s.scratchAt g o) bs.length then .fault .memerr
    else .ok ({ s with mem := s.mem.storeBytes (s.scratchAt g o) bs }.cleanse
      (s.scratchAt g o) bs.length)
  else if 0x180 ≤ u ∧ u ≤ 0x187 then s.stackStore id (u - 0x180) o bs multi
  else if u = 0x1F0 then s.headerStore id o bs multi seq
  else if u = 0x1F1 then s.powerStore id o bs multi
  else .fault .prot

/-! ### Atomic values (R165 to R167) -/

/-- `f(old, y)` of R165 on n bits. -/
def amoNew (op n old y : Nat) : Nat :=
  match op with
  | 0 => (old + y) % 2 ^ n
  | 1 => old &&& y
  | 2 => old ||| y
  | 3 => old ^^^ y
  | 4 => if signedNat n old ≤ signedNat n y then old else y
  | 5 => if signedNat n old ≤ signedNat n y then y else old
  | 6 => min old y
  | 7 => max old y
  | _ => y

/-- The rounded sum of two codes of a format (R167). -/
def addCodes (f : Fmt) (a b : Nat) : Nat := rnd f 0 true (Val.add 0 (f.decode a) (f.decode b))

/-- `new` of R167. -/
def famoNew (op old y : Nat) : Nat :=
  match op with
  | 0 => addCodes .fp32 old y
  | 1 => chooseFp32 false old y
  | 2 => chooseFp32 true old y
  | _ => addCodes .bf16 (old % 2 ^ 16) (y % 2 ^ 16) + addCodes .bf16 (old / 2 ^ 16 % 2 ^ 16) (y / 2 ^ 16 % 2 ^ 16) * 2 ^ 16

/-- An atomic operation as a unit performs it (R164): its width in bytes, whether the old value is sign-extended in wd,
whether the host may perform it (R168), and its new value, none where it writes nothing. -/
structure AtomicOp where
  kind : Nat
  op   : Nat
  size : Nat
  y    : Nat
  z    : Nat
  deriving DecidableEq, Repr

/-- Kinds of atomics. -/
abbrev kAmo : Nat := 0
abbrev kAcas : Nat := 1
abbrev kFamo : Nat := 2

/-- The new value; none where nothing is written (R166). -/
def AtomicOp.new (a : AtomicOp) (old : Nat) : Option Nat :=
  if a.kind = kAmo then some (amoNew a.op (8 * a.size) old (a.y % 2 ^ (8 * a.size)))
  else if a.kind = kAcas then (if old = a.y % 2 ^ (8 * a.size) then some (a.z % 2 ^ (8 * a.size)) else none)
  else some (famoNew a.op old (a.y % 2 ^ 32))

/-- The value that wd receives (R164). -/
def AtomicOp.result (a : AtomicOp) (old : Nat) : Word :=
  if a.kind = kFamo then word old else if a.size = 4 then sextNat 32 old else word old

/-- The host performs FetchAdd, Swap and CAS only (R168). -/
def AtomicOp.hostOk (a : AtomicOp) : Bool := a.kind == kAcas || (a.kind == kAmo && (a.op == 0 || a.op == 8))

/-! ### Atomics at a unit -/

/-- An atomic on bytes at a key: the old value and the state after. -/
def State.atomicKey (s : State) (key : Nat) (a : AtomicOp) : Nat × State :=
  let old := natOfBytes (s.readPhys key a.size)
  match a.new old with
  | some v => (old, s.writePhys key (bytesOfNat a.size v))
  | none => (old, s)

/-- An atomic on bytes of an array, once R71 allows it (R164, R168). Bits [63:33] of `bt` of a context row read as zero and are not
written (R98). DESIGN CHOICE (log 74): R8 names no atomic among what changes `bt` from outside; one that R71 allows on slots 1 to 3
of another row acts as an outside store does (R106). -/
def State.arrayAtomic (s : State) (c o : Nat) (a : AtomicOp) : Acc (Nat × State) :=
  if o % 256 < 8 && s.isContext c (o / 256) then .fault .cwstate
  else if s.poisoned (arrayKey c o) a.size then .fault .memerr
  else
    let old := natOfBytes (s.arrayBytes c o a.size)
    match a.new old with
    | some v => .ok (old, (s.writePhys (arrayKey c o) (bytesOfNat a.size v)).trimTarget c (o / 256))
    | none => .ok (old, s)

/-- An atomic of an identity on a row of an array, which counts as a write for R71 (R165). -/
def State.rowAtomic (s : State) (id : Ident) (c o : Nat) (a : AtomicOp) : Acc (Nat × State) :=
  if s.rowDenied id c (o / 256) true then .fault .prot else s.arrayAtomic c o a

/-- An atomic on a unit of REGION 10 (R168). -/
def State.unitAtomic (s : State) (id : Ident) (va : Nat) (a : AtomicOp) : Acc (Nat × State) :=
  let u := vaUnit va
  let o := vaOff va
  if u < 0x100 then
    if 2 ^ 20 ≤ o ∨ id.part ≠ s.partid u then .fault .prot
    else if s.readsRefused id (s.partid u) ∨ s.absent u then .fault .absent
    else if s.asleep (groveOf u) then .hold
    else if s.rowWaits u (o / 256) then .hold
    else s.rowAtomic id u o a
  else if u < 0x140 then
    let g := u - 0x100
    if !s.scratchOk id g o a.size then .fault .prot
    else if s.readsRefused id id.part then .fault .absent
    else if s.asleep g then .hold
    else if s.poisoned (s.scratchAt g o) a.size then .fault .memerr
    else .ok (s.atomicKey (s.scratchAt g o) a)
  else .fault .prot

/-- A write is logged, when it goes to REGION 00 or 01 (R87); none waits for a free half. -/
def State.logged (s : State) (c va : Nat) : Option State :=
  if vaRegion va < 2 then s.logWrite c va else some s

/-- The slice copies that an atomic finds (R79, R168): of REGION 00 every grove's copy is recalled and invalidated; of REGIONs 01
and 11 the issuing grove's own copy is written back and dropped. -/
def State.atomicCopies (s : State) (g : Option Nat) (part va key : Nat) : State :=
  match g with
  | none => if vaRegion va = 0 then s.recallKey key true else s
  | some gr =>
    if vaRegion va = 0 then s.recall (fun _ l => l.part == part && l.line == va / 64) true
    else s.flushLines gr (fun l => l.part == part && l.line == va / 64) false

/-- An atomic on REGION 00, 01 or 11 (R77, R85, R168): performed at the point. The host completes it, or refuses it with MEMERR
(a free value, log 56). -/
def State.memAtomic (s0 : State) (g : Option Nat) (part va0 : Nat) (a : AtomicOp) : Acc Nat × State :=
  let va := s0.canonVa va0
  if vaRegion va = 3 ∧ !a.hostOk then (.fault .prot, s0)
  else
    let s := if vaRegion va = 3 then s0.draw else s0
    match s.translate part va true with
    | (none, s1) => (.fault (s.translateCause part va), s1)
    | (some k, s1) =>
      if s1.poisoned k a.size || (vaRegion va == 3 && Config.hostRefuses s0.draws) then (.fault .memerr, s1)
      else
        let s2 := s1.atomicCopies g part va k
        let r := s2.atomicKey k a
        (.ok r.1, r.2)

/-- The cause with a code, in the AUX of an answer (R308). -/
def causeOf (code : Nat) : Cause :=
  ([Cause.ill, .len, .haz, .bt, .align, .prot, .lease, .xlate, .cwstate, .engine, .trapi, .brk, .wdog, .priv, .queue,
    .absent, .memerr, .rsvd].find? (fun k => k.code == code)).getD .prot

/-! ### Any address of this device -/

/-- The grove whose slice an identity's accesses go through. -/
def Ident.slice (id : Ident) : Option Nat := if id.host || id.bank || id.node != 0x3FF then Option.none else some (groveOf id.core)

/-- The core whose dirty log takes an identity's writes (R87). DESIGN CHOICE (log 91): work of the host, a call that it stored among it, is
logged in the lowest core of its partition, and so are writes of another device; core 0 stands for a partition that owns no core. -/
def State.logCore (s : State) (id : Ident) : Nat :=
  if id.node == 0x3FF && !id.host then id.core else (s.lowCore id.part).getD 0

/-- An access to a row of a core is made at a boundary of the row where it is OPEN (R105). -/
def State.touchAt (s : State) (va : Nat) : State :=
  if vaUnit va < numCores ∧ vaOff va < 2 ^ 20 then s.touch (vaUnit va) (vaOff va / 256) else s

/-- A load of n bytes from this device. -/
def State.anyLoad (s : State) (id : Ident) (va n : Nat) (multi : Bool) : Acc (List Byte) × State :=
  if vaRegion va = 2 then (s.unitLoad id va n multi, s.touchAt va) else s.loadMem id.slice id.part va n

/-- A unit's answer to a store as an answer and the state after it. -/
def Acc.after (x : Acc State) (s : State) : Acc Unit × State :=
  match x with
  | .ok t => (.ok (), t)
  | .fault k => (.fault k, s)
  | .hold => (.hold, s)

/-- A store of bytes to this device; held while no log entry is free (R88). -/
def State.anyStore (s : State) (id : Ident) (va : Nat) (bs : List Byte) (multi : Bool) (seq : Nat) : Acc Unit × State :=
  if vaRegion va = 2 then (s.unitStore id va bs multi seq).after s
  else
    match s.storeMem id.slice id.part va bs with
    | (.ok _, s1) =>
      match s1.logged (s.logCore id) va with
      | some s2 => (.ok (), s2)
      | none => (.hold, s)
    | (.fault k, s1) => (.fault k, s1)
    | (.hold, s1) => (.hold, s1)

/-- An atomic on this device. -/
def State.anyAtomic (s : State) (id : Ident) (va : Nat) (a : AtomicOp) : Acc Nat × State :=
  if vaRegion va = 2 then
    match s.unitAtomic id va a with
    | .ok (old, t) => (.ok old, t.touchAt va)
    | .fault k => (.fault k, s)
    | .hold => (.hold, s)
  else
    match s.memAtomic id.slice id.part va a with
    | (.ok old, s1) =>
      match s1.logged (s.logCore id) va with
      | some s2 => (.ok old, s2)
      | none => (.hold, s)
    | (.fault k, s1) => (.fault k, s1)
    | (.hold, s1) => (.hold, s1)

/-! ### The sender's checks (R72, R73, R89, R154, R312) -/

/-- No link leads to the device that an address names (R312). -/
def State.unreachable (s : State) (va : Nat) : Bool := !s.isLocal va && s.fabric.route.get 31 (vaNode va) == 31

/-- The precise refusal of a global access of a row: bits [63:57], an unreachable node, a reserved unit, the lease. -/
def State.senderRefusal (s : State) (id : Ident) (ea : Word) (n : Nat) (read write : Bool) : Option Cause :=
  let va := ea.toNat
  if 2 ^ 57 ≤ va then some .xlate
  else if s.unreachable va then some .xlate
  else if vaRegion va = 2 then (if unitReserved (vaUnit va) then some .prot else none)
  else if (read && !s.leaseGrants id va n false) || (write && !s.leaseGrants id va n true) then some .lease
  else none

/-- The precise refusal of a row-space access of the issuing row to the array (R68, R71). -/
def State.rowRefusal (s : State) (id : Ident) (ea : Word) (write : Bool) : Option Cause :=
  if 2 ^ 20 ≤ ea.toNat then some .prot
  else if s.rowDenied id id.core (ea.toNat / 256) write then some .prot
  else none

end Sys2Proof.Machine
end

