-- ==== Sys2Proof/Machine/Matrix.lean ====
section
/-! DEFINITION. The matrix unit: guards, field checks and faults (R213 to R224), WLOAD, MRUN, MZERO, MSYNC, MFILL and MNOP,
injections and C writes (R206 to R210, R63, R64), RESUME and FLUSH (R221), and the current-slew limiter (R226 to R229). -/

namespace Sys2Proof.Machine

/-! ### Fields and formats -/

/-- The bits that word k of a command may set (R213, R216, R218, R220). -/
def mxMask (cmd k : Nat) : Nat :=
  if k = 7 then maskBits 0 57
  else if k = 0 then
    if cmd = 1 then maskBits 0 28 else if cmd = 2 then maskBits 0 27 else if cmd = 6 then maskBits 0 22 else maskBits 0 20
  else if k = 1 then (if cmd = 1 then maskBits 0 48 else if cmd = 2 then maskBits 0 60 else if cmd = 3 then maskBits 0 24 else 0)
  else if k = 2 then (if cmd = 2 ∨ cmd = 3 ∨ cmd = 5 then maskBits 0 13 else 0)
  else if k = 3 then (if cmd = 2 then maskBits 0 64 else 0)
  else 0

/-- CMD is defined (R213). -/
def mxCmdOk (cmd : Nat) : Bool := 1 ≤ cmd && cmd ≤ 6

/-- A reserved field, CTAG, CLASP or a bad CMD: RSVD (R213, R216, R218, R220, R224). -/
def mxRsvd (ws : List Word) : Bool :=
  let cmd := mxCmdOf ws
  let w0 := wordAt ws 0
  let w1 := wordAt ws 1
  !mxCmdOk cmd || mxTargetBad ws || (upto 8).any (fun k => !within (wordAt ws k) (mxMask cmd k))
    || (cmd == 1 && (bitsAt w0 24 2 == 3 || (!bitAt w0 26 && bitsAt w1 24 12 != 0) || (!bitAt w0 27 && bitsAt w1 36 12 != 0)))
    || (cmd == 2 && ((!bitAt w0 25 && bitsAt w1 48 12 != 0) || (!bitAt w0 26 && wordAt ws 3 != 0)))
    || (cmd == 6 && bitsAt w0 20 2 != 0)

/-- WFMT or AFMT. -/
def mxFmt (ws : List Word) : Nat := bitsAt (wordAt ws 0) 20 4
/-- M or N. -/
def mxCount (ws : List Word) : Nat := bitsAt (wordAt ws 2) 0 13
/-- M or N lies outside 1 to 4096. -/
def mxCountBad (ws : List Word) : Bool := mxCount ws == 0 || decide (4096 < mxCount ws)

/-- Width of a format of the matrix unit. -/
def mxWidth (f : Nat) : Nat := if f = 1 then 16 else if f = 4 ∨ f = 8 then 4 else 8

/-- The weight sets of R206: format, sparse, K. -/
def mxSetOk (f : Nat) (sparse : Bool) (k : Nat) : Bool :=
  if f = 1 then (if sparse then k == 256 else k == 128)
  else if f = 4 ∨ f = 8 then !sparse && k == 512
  else if f = 2 ∨ f = 3 ∨ f = 5 ∨ f = 9 then (if sparse then k == 256 || k == 512 else k == 128 || k == 256)
  else false

/-- The depth of an activation format (R206); none when it is no activation format. -/
def mxDepth (f : Nat) : Option Nat :=
  if f = 1 then some 128
  else if f = 2 ∨ f = 3 ∨ f = 5 then some 256
  else if f = 4 ∨ f = 8 then some 512
  else none

/-- K and P of the latched set (R206). -/
def MatrixSt.depthK (m : MatrixSt) : Nat := 128 * 2 ^ m.ksel
def MatrixSt.depthP (m : MatrixSt) : Nat := if m.sparse then m.depthK / 2 else m.depthK

/-- The value of a code (R49, R60, R61). -/
def mxVal (f : Nat) (ctab0 ctab1 : Word) (code : Nat) : Val :=
  if f = 1 then Fmt.bf16.decode code
  else if f = 2 then Fmt.e4m3.decode code
  else if f = 3 then Fmt.e5m2.decode code
  else if f = 4 then Fmt.e2m1.decode code
  else if f = 5 then Val.ofInt (signedNat 8 code)
  else if f = 8 then t4 ctab0 ctab1 code
  else ts8 code

/-- Flat lane i of rows taken in order (R207). -/
def flatLane (w : Nat) (rows : List (BitVec 2048)) (i : Nat) : Nat := lane w (rows.getD (i / (2048 / w)) 0) (i % (2048 / w))

/-! ### Rows -/

/-- n rows from `first` by `stride`, modulo 4096. -/
def strideRows (first stride n : Nat) : List Nat := (upto n).map (fun i => (first + i * stride) % 4096)

/-- The row is refused to a command: PROT of R215. -/
def State.mxDenied (s : State) (c : Nat) (id : Ident) (r : Nat) (write : Bool) : Bool :=
  s.isContext c r || s.rowDenied id c r write

/-- FCODE of a read of a row: PROT or MEMERR (R215, R85). -/
def State.mxReadFault (s : State) (c : Nat) (id : Ident) (r : Nat) : Option Nat :=
  if s.mxDenied c id r false then some 6 else if s.poisoned (rowKey c r 0) 256 then some 7 else none

/-- A C write to one of the rows is on its way (R214). -/
def MatrixSt.awaits (m : MatrixSt) (rows : List Nat) : Bool := m.pipe.any (fun w => rows.contains w.row)

/-! ### The queue and its faults (R212, R222, R224) -/

/-- The matrix unit of a core written. -/
def State.setMx (s : State) (c : Nat) (m : MatrixSt) : State := s.setCore c { s.core c with mx := m }

/-- What a fault writes: FCODE, FCMD, FIDX and HALT; then the signal, unless the command names no valid target, and the
ENGINE trap (R224). -/
def State.mxReport (s : State) (c : Nat) (id : Ident) (code cmd idx : Nat) (t : Option Target) : State :=
  let m := (s.core c).mx
  ((s.setMx c { m with fcode := code, fcmd := cmd, fidx := idx, halt := true }).signalIf id t).engineTrap id 0

/-- The cycle count of a core's grove (R233). -/
def State.cycleOf (s : State) (c : Nat) : Nat := (s.grove (groveOf c)).cc

/-- The head command leaves the queue; the one behind it may begin in the next cycle (R232). -/
def State.mxLeave (s : State) (c : Nat) : State :=
  s.setMx c { (s.core c).mx with queue := (s.core c).mx.queue.drop 1, headFrom := s.cycleOf c + 1 }

/-- The head command faults with no C write of its own on its way. -/
def State.mxFault (s : State) (c : Nat) (q : MxCmd) (code idx : Nat) : State :=
  (s.mxLeave c).mxReport c q.id code (mxCmdOf q.words) idx (mxTarget c q.words)

/-- The head command completes and signals (R22). -/
def State.mxDone (s : State) (c : Nat) (q : MxCmd) : State := (s.mxLeave c).signalIf q.id (mxTarget c q.words)

/-- GUARD slot k of a core: 0 PEND, 1 TRUE, 2 FALSE; no guard counts as TRUE (R24, R25). -/
def State.guardOf (s : State) (c k : Nat) : Nat := if k = 0 then 1 else bitsAt (s.core c).guards (2 * k) 2

/-- The head command that may begin in cycle cc: none while the unit is frozen or halted, while a control command has still to act, or
when the head has begun or came in this cycle (R212, R221, R224, R230, R232). -/
def MatrixSt.next? (m : MatrixSt) (cc : Nat) : Option MxCmd :=
  if m.frozen || m.halt || m.controlled || decide (cc < m.headFrom) then none
  else
    match m.queue with
    | q :: _ => if q.begun then none else some q
    | [] => none

/-- The head, when `kind` picks its CMD, begins: held while its guard is PEND; on FALSE discarded when its completion fields name a valid
target, and otherwise a fault that signals nothing; on TRUE its field checks follow, then `run` (R222). Completion fields that break R213
but name a valid target are then a fault that signals it (R224). -/
def State.mxBegin (s : State) (c : Nat) (kind : Nat → Bool) (run : MxCmd → State) : State :=
  match (s.core c).mx.next? (s.cycleOf c) with
  | none => s
  | some q =>
    if !kind (mxCmdOf q.words) then s
    else if s.guardOf c (mxGuard q.words) = 0 then s
    else if s.guardOf c (mxGuard q.words) = 2 then
      if (mxTarget c q.words).isNone then s.mxFault c q 1 0
      else (s.setMx c (s.core c).mx.discard).mxDone c q
    else if mxRsvd q.words then s.mxFault c q 1 0
    else run q

/-- The head of a matrix unit rewritten. -/
def MatrixSt.setHead (m : MatrixSt) (q : MxCmd) : MatrixSt := { m with queue := q :: m.queue.drop 1 }

/-- The head command has begun: what it does next waits for nothing but the row writes ahead of it (R214, R232). -/
def State.mxBegun (s : State) (c : Nat) (q : MxCmd) : State := s.setMx c ((s.core c).mx.setHead { q with begun := true })

/-- The head goes on with `run` when it has begun and `kind` picks its CMD; else it begins so, with `start` (R222, R232). -/
def State.mxGoOn (s : State) (c : Nat) (kind : Nat → Bool) (start run : MxCmd → State) : State :=
  match (s.core c).mx.queue with
  | [] => s
  | q :: _ =>
    if !q.begun then s.mxBegin c kind start
    else if (s.core c).mx.frozen || (s.core c).mx.controlled || !kind (mxCmdOf q.words) then s
    else run q

/-! ### WLOAD (R216, R217) -/

/-- The weight, metadata and scale rows of a WLOAD, in order. -/
structure WloadRows where
  weights : List Nat
  metas   : List Nat
  scales  : List Nat
  deriving DecidableEq, Repr

/-- KSEL, SPARSE and K of a WLOAD. -/
def wloadK (ws : List Word) : Nat := 128 * 2 ^ bitsAt (wordAt ws 0) 24 2
def wloadSparse (ws : List Word) : Bool := bitAt (wordAt ws 0) 26

/-- The rows that a WLOAD reads (R207 to R209). -/
def wloadRows (ws : List Word) : WloadRows :=
  let k := wloadK ws
  let p := if wloadSparse ws then k / 2 else k
  let w1 := wordAt ws 1
  { weights := strideRows (bitsAt w1 0 12) (bitsAt w1 12 12) (p * mxWidth (mxFmt ws) / 32)
    metas := if wloadSparse ws then strideRows (bitsAt w1 24 12) 1 (k / 32) else []
    scales := if bitAt (wordAt ws 0) 27 then strideRows (bitsAt w1 36 12) 1 (k / 128) else [] }

/-- Nibble i breaks p0 < p1 (R208). -/
def nibbleBad (metas : List (BitVec 2048)) (i : Nat) : Bool := decide (flatLane 4 metas i / 4 ≤ flatLane 4 metas i % 4)

/-- The first of the numbered rows that a read faults on: its index and FCODE. -/
def State.firstBad (s : State) (c : Nat) (id : Ident) : Nat → List Nat → Option (Nat × Nat)
  | _, [] => none
  | i, r :: rs =>
    match s.mxReadFault c id r with
    | some code => some (i, code)
    | none => s.firstBad c id (i + 1) rs

/-- The set is lost: WVALID 0; what WFMT, KSEL and SPARSE then read is a free value (log 29). -/
def MatrixSt.lose (m : MatrixSt) (draw : Nat) : MatrixSt :=
  let f := Config.lostSet draw
  { m with wvalid := false, wfmt := f % 16, ksel := f / 16 % 4, sparse := f / 64 % 2 == 1 }

/-- A WLOAD faults after clearing WVALID. -/
def State.mxLose (s : State) (c : Nat) (q : MxCmd) (code idx : Nat) : State :=
  ((s.setMx c ((s.core c).mx.lose s.draws)).draw).mxFault c q code idx

/-- A WLOAD whose checks have passed begins: it copies CTAB for T4 weights and clears WVALID (R60, R217). -/
def State.wloadBegin (s : State) (c : Nat) (q : MxCmd) : State :=
  let x := s.core c
  let m := x.mx.setHead { q with begun := true }
  s.setMx c (if mxFmt q.words = 8 then { m with wvalid := false, wctab0 := x.ctab0, wctab1 := x.ctab1 } else { m with wvalid := false })

/-- A WLOAD that has begun reads its rows, once the writes to them are made, and latches the set. -/
def State.latchSet (s : State) (c : Nat) (q : MxCmd) : State :=
  let x := wloadRows q.words
  let rows := x.weights ++ x.metas ++ x.scales
  let m := (s.core c).mx
  if m.awaits rows then s
  else
    match s.firstBad c q.id 0 rows with
    | some (i, code) => s.mxLose c q code i
    | none =>
      let metas := x.metas.map (fun r => s.rowBits c r)
      match (upto (512 * metas.length)).find? (fun i => nibbleBad metas i) with
      | some i => s.mxLose c q 3 (x.weights.length + i / 512)
      | none =>
        (s.setMx c { m with
          wvalid := true
          wfmt := mxFmt q.words
          ksel := bitsAt (wordAt q.words 0) 24 2
          sparse := wloadSparse q.words
          weights := x.weights.map (fun r => s.rowBits c r)
          metas := metas
          scales := x.scales.map (fun r => s.rowBits c r)
          hasScale := bitAt (wordAt q.words 0) 27 }).mxDone c q

/-- R217: the head WLOAD, whole, but for a wait for row writes ahead of it (R214). -/
def execWload (core : Nat) (s : State) : Result :=
  .next (s.mxGoOn core (fun k => k == 1)
    (fun q => if mxSetOk (mxFmt q.words) (wloadSparse q.words) (wloadK q.words) then (s.wloadBegin core q).latchSet core q
      else s.mxFault core q 2 0)
    (fun q => s.latchSet core q))

/-! ### MRUN (R218, R219) -/

/-- A command may inject from now on; an MRUN with T4 activations copies CTAB (R60, R219). -/
def State.mxStart (s : State) (c : Nat) (q : MxCmd) : State :=
  let x := s.core c
  let m := x.mx.setHead { q with begun := true, started := true }
  s.setMx c (if mxCmdOf q.words = 2 ∧ mxFmt q.words = 8 then { m with actab0 := x.ctab0, actab1 := x.ctab1 } else m)

/-- TIMED, and START lies ahead (R17). -/
def State.mxEarly (s : State) (q : MxCmd) : Bool := bitAt (wordAt q.words 0) 26 && decide (s.time < wordAt q.words 3)

/-- R219: the head MRUN passes its checks and begins; a TIMED one waits for START. It injects from the next cycle on (R232). -/
def execMrun (core : Nat) (s : State) : Result :=
  .next (s.mxBegin core (fun k => k == 2) (fun q =>
    let m := (s.core core).mx
    if mxCountBad q.words then s.mxFault core q 5 0
    else if !m.wvalid then s.mxFault core q 4 0
    else if mxDepth (mxFmt q.words) ≠ some m.depthP then s.mxFault core q 2 0
    else
      let q1 := { q with begun := true, injFrom := s.cycleOf core + 1, run := s.seq }
      let s1 := s.bump
      if s.mxEarly q then s1.setMx core (m.setHead q1) else s1.mxStart core q1))

/-- R17: START of a TIMED MRUN is reached. -/
def execMrunTimedStart (core : Nat) (s : State) : Result :=
  match (s.core core).mx.queue with
  | [] => .next s
  | q :: _ =>
    if (s.core core).mx.frozen || !q.begun || q.started || s.mxEarly q then .next s else .next (s.mxStart core q)

/-! ### Products and sums (R63, R64) -/

/-- The products of group g of column n: activations by logical position, weights that are present (R207, R208). -/
def MatrixSt.products (m : MatrixSt) (act : Nat → Val) (n g : Nat) : List Val :=
  let wt (j : Nat) : Val := mxVal m.wfmt m.wctab0 m.wctab1 (flatLane (mxWidth m.wfmt) m.weights (n * m.depthP + j))
  if m.sparse then
    (upto 4).flatMap (fun i =>
      let q := 4 * g + i
      let nib := flatLane 4 m.metas (n * (m.depthK / 4) + q)
      [(act (4 * q + nib % 4)).mul (wt (2 * q)), (act (4 * q + nib / 4)).mul (wt (2 * q + 1))])
  else (upto 16).map (fun i => (act (16 * g + i)).mul (wt (16 * g + i)))

/-- The weight scale over group g of column n (R209). -/
def MatrixSt.weightScale (m : MatrixSt) (n g : Nat) : Val :=
  if m.hasScale then e8m0 (flatLane 8 m.scales (n * (m.depthK / 32) + g / 2)) else .fin false 1 0

/-- The rounded sums of the groups of column n (R63). -/
def MatrixSt.groupSums (m : MatrixSt) (act : Nat → Val) (sa : Nat → Val) (n : Nat) : List (BitVec 32) :=
  (upto (m.depthK / 16)).map (fun g =>
    BitVec.ofNat 32 (groupCode (((exactSum (m.products act n g)).mul (sa (g / 2))).mul (m.weightScale n g))))

/-- The rows of an MRUN's injection m: activations, the scale row, and the C row (R209, R210). -/
structure InjRows where
  acts  : List Nat
  scale : Option Nat
  crow  : Nat
  deriving DecidableEq, Repr

def MatrixSt.injRows (m : MatrixSt) (q : MxCmd) : InjRows :=
  let w1 := wordAt q.words 1
  let a := (bitsAt w1 0 12 + q.idx * bitsAt w1 12 12) % 4096
  { acts := if m.sparse then [a, (a + 1) % 4096] else [a]
    scale := if bitAt (wordAt q.words 0) 25 then some ((bitsAt w1 48 12 + q.idx * (m.depthK / 32) / 256) % 4096) else none
    crow := (bitsAt w1 24 12 + q.idx * bitsAt w1 36 12) % 4096 }

/-- The rows that an injection reads. -/
def InjRows.reads (x : InjRows) : List Nat := x.acts ++ x.scale.toList

/-- The fault of an injection (R215, R219): PROT on a row it reads or writes, then MEMERR on a row it reads. -/
def State.injFault (s : State) (c : Nat) (q : MxCmd) (x : InjRows) : Option Nat :=
  let acc := bitAt (wordAt q.words 0) 24
  if x.reads.any (fun r => s.mxDenied c q.id r false) || s.mxDenied c q.id x.crow true
      || (acc && s.mxDenied c q.id x.crow false) then some 6
  else if x.reads.any (fun r => s.poisoned (rowKey c r 0) 256) then some 7
  else none

/-- The C write that an injection leads to. -/
def State.injWrite (s : State) (c : Nat) (q : MxCmd) (x : InjRows) : CWrite :=
  let m := (s.core c).mx
  let rows := x.acts.map (fun r => s.rowBits c r)
  let act (k : Nat) : Val := mxVal (mxFmt q.words) m.actab0 m.actab1 (flatLane (mxWidth (mxFmt q.words)) rows k)
  let sa (b : Nat) : Val :=
    match x.scale with
    | some r => e8m0 (rowByte (s.rowBits c r) ((q.idx * (m.depthK / 32) + b) % 256))
    | none => .fin false 1 0
  { row := x.crow
    m := q.idx
    acc := bitAt (wordAt q.words 0) 24
    sums := (upto 64).map (fun n => m.groupSums act sa n)
    id := q.id
    run := q.run
    target := (mxTarget c q.words).getD .none
    last := q.idx + 1 == mxCount q.words
    cc := s.cycleOf c }

/-! ### Injections and grants (R219, R226, R228) -/

/-- The head MRUN or MFILL that has injections left in cycle cc, past its start, its checks and the cycle in which it began; none while
the unit is frozen (R228, R232). -/
def MatrixSt.injecting (m : MatrixSt) (cc : Nat) : Option MxCmd :=
  match m.queue with
  | [] => none
  | q :: _ =>
    if !m.frozen && q.begun && q.started && decide (q.injFrom ≤ cc) && q.fault.isNone && (mxCmdOf q.words == 2 || mxCmdOf q.words == 5)
        && decide (q.idx < mxCount q.words) then some q
    else none

/-- A core's next injection is ready in this cycle (R228): CADENCE spacing is met, its operand rows are free, and no control command has
still to act (R221). -/
def State.injReady (s : State) (c : Nat) : Bool :=
  let m := (s.core c).mx
  match m.injecting (s.cycleOf c) with
  | none => false
  | some q =>
    (match m.lastInj with
      | none => true
      | some t => decide (t + s.cadence c ≤ s.cycleOf c))
      && !m.controlled
      && (mxCmdOf q.words == 5 || !m.awaits (m.injRows q).reads)

/-- The cores before core c in the rotation from LAST + 1. -/
def GroveSt.before (x : GroveSt) (c : Nat) : List Nat :=
  (upto ((c % 4 + 4 - (x.slewLast + 1) % 4) % 4)).map (fun j => (x.slewLast + 1 + j) % 4)

/-- A grant to core c is due in this cycle (R228): its step has begun, allowance is left, and no candidate comes before it. -/
def State.granted (s : State) (c : Nat) : Bool :=
  let x := s.grove (groveOf c)
  x.slewAt == some (x.cc / 4 * 4) && decide (1 ≤ x.allowance) && s.injReady c
    && (x.before c).all (fun j => !s.injReady (4 * groveOf c + j))

/-- The grant lowers the allowance and moves LAST; the core has its injection of the cycle (R228, R229). -/
def State.takeGrant (s : State) (c : Nat) : State :=
  let x := s.grove (groveOf c)
  s.setGrove (groveOf c) { x with allowance := x.allowance - 1, slewLast := c % 4, busy := x.busy ++ [c % 4] }

/-- An injection is made: the command counts it, and leaves the queue at its last (R212). -/
def State.injected (s : State) (c : Nat) (q : MxCmd) : State :=
  let m := (s.core c).mx
  let m1 := { m with lastInj := some (s.cycleOf c) }
  s.setMx c (if q.idx + 1 = mxCount q.words then { m1 with queue := m.queue.drop 1, headFrom := s.cycleOf c + 1 } else m1.setHead { q with idx := q.idx + 1 })

/-- A command stops at an injection: reported at once, or after its C writes on their way are made (R219, R224). -/
def State.injStop (s : State) (c : Nat) (q : MxCmd) (code : Nat) : State :=
  let m := (s.core c).mx
  if m.pipe.any (fun w => w.run == q.run) then s.setMx c (m.setHead { q with fault := some (code, q.idx) })
  else s.mxFault c q code q.idx

/-- The injection of the head of a core that holds a grant: a filler of an MFILL, or one of an MRUN (R219, R220). -/
def State.inject (s : State) (c : Nat) (q : MxCmd) : State :=
  let s1 := s.takeGrant c
  if mxCmdOf q.words = 5 then
    let s2 := s1.injected c q
    if q.idx + 1 = mxCount q.words then s2.signalIf q.id (mxTarget c q.words) else s2
  else
    let x := (s.core c).mx.injRows q
    match s.injFault c q x with
    | some code => s1.injStop c q code
    | none =>
      let s2 := s1.injected c q
      let m := (s2.core c).mx
      s2.setMx c { m with pipe := m.pipe ++ [s.injWrite c q x] }

/-- R219: the next injection of an MRUN. -/
def execInjection (core : Nat) (s : State) : Result :=
  match (s.core core).mx.injecting (s.cycleOf core) with
  | none => .next s
  | some q => if mxCmdOf q.words = 2 ∧ s.granted core then .next (s.inject core q) else .next s

/-- R220: the head MFILL begins, or makes its next filler injection. -/
def execMfill (core : Nat) (s : State) : Result :=
  match (s.core core).mx.injecting (s.cycleOf core) with
  | some q => if mxCmdOf q.words = 5 ∧ s.granted core then .next (s.inject core q) else .next s
  | none =>
    .next (s.mxBegin core (fun k => k == 5) (fun q =>
      if mxCountBad q.words then s.mxFault core q 5 0 else s.mxStart core { q with injFrom := s.cycleOf core + 1 }))

/-! ### C writes (R219) -/

/-- Column n of a C row: the group sums added to the prior lane or to +0, one rounding each (R63). -/
def CWrite.column (w : CWrite) (prior : BitVec 2048) (n : Nat) : Nat :=
  (w.sums.getD n []).foldl (fun (a : Nat) (g : BitVec 32) => accGroup a g.toNat) (if w.acc then lane 32 prior n else 0)

/-- The C row of a C write. -/
def CWrite.bits (w : CWrite) (prior : BitVec 2048) : BitVec 2048 :=
  BitVec.ofNat 2048 (packLanes 32 ((upto 64).map (fun n => w.column prior n)))

/-- The queue and the pipe without what a run still has in them. -/
def MatrixSt.endRun (m : MatrixSt) (run : Nat) : MatrixSt :=
  { m with
    pipe := m.pipe.filter (fun w => w.run != run)
    queue := m.queue.filter (fun q => !(q.begun && mxCmdOf q.words == 2 && q.run == run)) }

/-- A fault that waited for the C writes of its run is reported once they are made (R219). -/
def State.lateFault (s : State) (c run : Nat) : State :=
  let m := (s.core c).mx
  match m.queue with
  | [] => s
  | q :: _ =>
    match q.fault with
    | none => s
    | some (code, idx) =>
      if q.run = run ∧ ¬ m.pipe.any (fun w => w.run == run) then s.mxFault c q code idx else s

/-- A C write is made: the whole row at once; the last of a run signals (R192, R219). -/
def State.writeC (s : State) (c : Nat) (w : CWrite) : State :=
  let m := (s.core c).mx
  let s1 := (s.setRowBits c w.row (w.bits (s.rowBits c w.row))).cleanse (rowKey c w.row 0) 256
  let s2 := s1.setMx c { m with pipe := m.pipe.drop 1 }
  if w.last then s2.signal w.id w.target else s2.lateFault c w.run

/-- R219: the oldest C write, 160 cc after its injection; an accumulating one that meets an uncorrectable error ends its
run with MEMERR. -/
def execCRowWrite (core : Nat) (s : State) : Result :=
  let m := (s.core core).mx
  match m.pipe with
  | [] => .next s
  | w :: _ =>
    if m.frozen || m.controlled || decide (s.cycleOf core < w.cc + 160) then .next s
    else if w.acc && s.poisoned (rowKey core w.row 0) 256 then
      .next ((s.setMx core { m.endRun w.run with headFrom := s.cycleOf core + 1 }).mxReport core w.id 7 2 w.m (some w.target))
    else .next (s.writeC core w)

/-! ### MZERO, MSYNC and MNOP (R220) -/

/-- Rows are zeroed in order up to the first that may not be written; its index, when there is one. -/
def State.zeroRows (s : State) (c : Nat) (id : Ident) : Nat → List Nat → Option Nat × State
  | _, [] => (none, s)
  | i, r :: rs =>
    if s.mxDenied c id r true then (some i, s)
    else ((s.setRowBits c r 0).cleanse (rowKey c r 0) 256).zeroRows c id (i + 1) rs

/-- An MZERO that has begun writes its rows, once the C writes to them are made (R214). -/
def State.mxZero (s : State) (c : Nat) (q : MxCmd) : State :=
  let rows := strideRows (bitsAt (wordAt q.words 1) 0 12) (bitsAt (wordAt q.words 1) 12 12) (mxCount q.words)
  if (s.core c).mx.awaits rows then s
  else
    match s.zeroRows c q.id 0 rows with
    | (some i, t) => t.mxFault c q 6 i
    | (none, t) => t.mxDone c q

/-- R220: the head MZERO, whole, but for a wait for C writes ahead of it. -/
def execMzero (core : Nat) (s : State) : Result :=
  .next (s.mxGoOn core (fun k => k == 3)
    (fun q => if mxCountBad q.words then s.mxFault core q 5 0 else (s.mxBegun core q).mxZero core q)
    (fun q => s.mxZero core q))

/-- An MSYNC that has begun completes once no C write is on its way. -/
def State.mxSync (s : State) (c : Nat) (q : MxCmd) : State := if (s.core c).mx.pipe.isEmpty then s.mxDone c q else s

/-- R220: the head MSYNC. -/
def execMsync (core : Nat) (s : State) : Result :=
  .next (s.mxGoOn core (fun k => k == 4) (fun q => (s.mxBegun core q).mxSync core q) (fun q => s.mxSync core q))

/-- R220: the head MNOP; a reserved CMD faults here. -/
def execMnop (core : Nat) (s : State) : Result :=
  .next (s.mxBegin core (fun k => k == 6 || !mxCmdOk k) (fun q => s.mxDone core q))

/-! ### RESUME and FLUSH (R221) -/

/-- The oldest control MNOP that was held, when it is `act` and the unit is no longer frozen. -/
def MatrixSt.control (m : MatrixSt) (act : Nat) : Bool := !m.frozen && m.controls.head? == some act

/-- The oldest control MNOP has acted. -/
def MatrixSt.dropControl (m : MatrixSt) : MatrixSt := { m with controls := m.controls.drop 1 }

/-- R221: a RESUME that a frozen unit held is applied. -/
def execResume (core : Nat) (s : State) : Result :=
  let m := (s.core core).mx
  if m.control 1 then .next ((s.setMx core m.dropControl).mxResume core) else .next s

/-- R221: a FLUSH that a frozen unit held is applied. -/
def execFlush (core : Nat) (s : State) : Result :=
  let m := (s.core core).mx
  if m.control 2 then .next ((s.setMx core m.dropControl).mxFlush core) else .next s

/-! ### The current-slew limiter (R227 to R229) -/

/-- E0 to E7 of a grove's SLEWRAMP (R227). -/
def State.ramp (s : State) (g : Nat) : List Nat := (upto 8).map (fun i => bitsAt (s.power.reg (0x0400 + 8 * g)) (5 * i) 5)

/-- Up(V): the smallest E above V, or E7. -/
def rampUp (e : List Nat) (v : Nat) : Nat := (e.find? (fun x => decide (v < x))).getD (e.getD 7 0)
/-- Down(V): the largest E below V, or 0. -/
def rampDown (e : List Nat) (v : Nat) : Nat := (e.filter (fun x => decide (x < v))).foldl Nat.max 0

/-- The demand D of a grove (R228), as its cores stand. -/
def State.demand (s : State) (g : Nat) : Nat :=
  (upto 4).foldl (fun (d : Nat) k =>
    let c := 4 * g + k
    if ((s.core c).mx.injecting (s.cycleOf c)).isSome then d + (4 + s.cadence c - 1) / s.cadence c else d) 0

/-- R228: the step boundary of a grove, before its clock leaves the cycle and before any grant in it, with the demand at the start of
that cycle (R233); its fillers fall in the step's earliest cycles, as each of them ends (R229). -/
def execSlewStep (grove : Nat) (s : State) : Result :=
  let x := s.grove grove
  if !x.boundaryDue then .next s
  else
    let e := s.ramp grove
    let a := Nat.min (rampUp e x.slewV) x.slewD
    let f := rampDown e x.slewV
    .next (s.setGrove grove { x with slewAt := some x.cc, allowance := a, fillers := f - a, slewV := Nat.max a f })

end Sys2Proof.Machine
end

