-- ==== Sys2Proof/Machine/Agenda.lean ====
section
/-! DEFINITION. What makes the machine move when no instruction issues: the class of an outstanding store, the move taken
when the agenda is empty (log 1), the timebase with its energy counters, grove clocks, early reads of the row ALU, and replacement in
the slices and the instruction cache (R13, R16, R77, R79, R118, R192, R229, R233, R353, R379). -/

namespace Sys2Proof.Machine

/-! ### Classes of outstanding stores -/

/-- Where an outstanding store goes (R68, R73, R236, R262, R288, R332, R398). -/
inductive StoreClass where
  | plain
  | matrix
  | head
  | call
  | broadcast
  | header
  | powerReg
  | replay
  | commit
  | tctl
  | mailbox
  | remote
  | bad
  deriving DecidableEq, Repr

/-- The class of a store by its address. -/
def State.classOf (s : State) (q : StoreReq) : StoreClass :=
  let va := q.va
  if !s.isLocal va then .remote
  else if vaRegion va ≠ 2 then
    let tail := (s.part q.id.part).tailva.toNat
    if q.release && q.scope == 5 && q.id.mode && !q.id.host && tail != 0 && va == tail then .mailbox else .plain
  else
    let u := vaUnit va
    let o := vaOff va
    if u < 0x100 then
      if o < 2 ^ 20 then .plain else if inMatrixWindow o then .matrix else if inHead o then .head else .bad
    else if u < 0x140 then .plain
    else if 0x180 ≤ u ∧ u ≤ 0x187 then
      if o < 0x40 then .call else if 0x10000 ≤ o ∧ o < 0x20000 then .broadcast else .bad
    else if u = 0x1F0 then (if o < 0x10000 ∧ o % 0x1000 < 0x40 then .header else .bad)
    else if u = 0x1F1 then
      if o = 0 then .tctl else if 0x40 ≤ o ∧ o < 0x60 then .replay else if o = 0x68 then .commit else .powerReg
    else .bad

/-- The value of a HEAD store is STOP (R236). -/
def isStopValue (bs : List Byte) : Bool := natOfBytes bs == 0x4000000000000000

/-- The agent's step that accepts the k-th outstanding store (R154). -/
def acceptStep (s : State) (k : Nat) (q : StoreReq) : Instr :=
  match s.classOf q with
  | .plain | .remote | .bad => .storeAcceptance k
  | .matrix => .matrixCommandStore k
  | .head => if isStopValue q.data then .stop k else .head k
  | .call => .callRecordStore k
  | .broadcast => .broadcastWrite k
  | .header => .taskHeaderStore k
  | .powerReg => .registerWrite (.store k)
  | .replay => .replay k
  | .commit => .commit k
  | .tctl => .tctl k
  | .mailbox => .mailboxInterrupt k

/-- The agent's step that performs the k-th message (R309). -/
def messageStep (k : Nat) (m : Msg) : Instr :=
  if m.mkind = 1 then .write k else if m.mkind = 2 then .read k else if m.mkind = 3 then .resp k
  else if m.mkind = 4 then .atomic k else if m.mkind = 5 then .count k else if m.mkind = 6 then .postMessage k else .ack k

/-- The move taken when the agenda is empty (log 1): deliver what is in flight, then drain the current row, then issue. -/
def State.defaultMove (s : State) : Move :=
  let c := s.curCore
  let r := s.curRow
  if !s.arrivals.isEmpty then .agent (.claspArrival 0)
  else
    match s.rowReqs.zipIdx.find? (fun (e : RowReq × Nat) => s.reqMay e.2 e.1) with
    | some (q, k) => if q.ctl then .agent (.controlRequest k) else .agent (.outsideAccess k)
    | none =>
      match s.msgs.findIdx? (fun m => !m.remote && s.isLocal m.addr && (m.mkind != 6 || s.ringRoom (vaUnit m.addr) m.cls)) with
      | some k => .agent (messageStep k ((s.msgs.drop k).headD ⟨0, 0, 0, 0, Ident.none, 0, 0, [], none, false, 0, false, false, false, 0⟩))
      | none =>
        match s.stores.findIdx? (fun q => q.id.isRow c r && !q.sent), s.latch? c r with
        | some k, _ =>
          match s.stores[k]? with
          | some q => .agent (acceptStep s k q)
          | none => .issue c r
        | none, none => .agent (.activation c)
        | none, some l =>
          match l.pending with
          | _ :: _ => .agent (.longLatencyCompletion c r 0)
          | [] =>
            match l.intent with
            | .run => .issue c r
            | .trap _ => .agent (.trapEntry c r)
            | .close _ => .agent (.rowClose c r)
            | .stalled => .issue c r

/-! ### Time -/

/-- A gang's WDCNT after ns nanoseconds (R379): it counts while no stop mark is set, no release is held by shedding, and a
member is READY, OPEN or WAIT. -/
def State.watchdogTick (s : State) (ns : Nat) (key : Nat) (x : GangSt) : State :=
  if !x.stopped && !x.due.any (fun e => e.held) && s.gangRuns (key / 4096) (key % 4096) then
    s.setGang (key / 4096) (key % 4096) { x with wdcnt := x.wdcnt + ns }
  else s

/-- The gangs that have a context row, by key. -/
def State.gangKeys (s : State) : List Nat :=
  (s.allRows.map (fun x => s.partid x.1 * 4096 + ctlGang (s.ctl x.1 x.2))).eraseDups

/-- The energy counter of a grove, or of the package at 64, in mJ (R353). -/
def State.energyOf (s : State) (k : Nat) : Word := s.energy.get 0 k

/-- What the groves and the package use while time passes, a free value (log 10), is added to their counters, modulo 2^64 (R353). -/
def State.useEnergy (s : State) : State :=
  State.draw { s with energy := (upto 65).foldl (fun (m : Sparse Word) k => m.set 0 k (m.get 0 k + Config.energy s.draws k)) s.energy }

/-- How many of ns nanoseconds may pass before the deadline of a clasp that has its count would read as not passed (R18): it has acted by
then (R17). -/
def State.timeRoom (s : State) (ns : Nat) : Nat :=
  s.allRows.foldl (fun (n : Nat) x =>
    let cl := s.slot x.1 x.2 1
    if bitAt cl 32 && bitAt cl 33 && decide (bitsAt cl 16 16 ≤ bitsAt cl 0 16) && !s.swappedOut x.1 && !s.absent x.1 then
      min n ((2 ^ 28 - 1 + bitsAt cl 35 29 + 2 ^ 29 - s.time.toNat % 2 ^ 29) % 2 ^ 29)
    else n) ns

/-- The timebase advances (R16), and with it the watchdog counts and the energy counters. DESIGN CHOICE (log 82): past 2^64 - 1 ns the
count wraps to 0. It waits for a clasp that is about to lose its deadline (R17). -/
def State.tick (s : State) (ns0 : Nat) : State :=
  let ns := s.timeRoom ns0
  let s1 := s.gangKeys.foldl (fun (t : State) k => t.watchdogTick ns k (t.gang (k / 4096) (k % 4096))) s
  State.useEnergy { s1 with time := s1.time + word ns }

/-- The cores that take a limiter filler in this cycle, after its grants: those without an injection, from LAST + 1 (R229). A frozen
core takes none. -/
def State.fillNow (s : State) (g : Nat) : List Nat :=
  let x := s.grove g
  (((upto 4).map (fun j => (x.slewLast + 1 + j) % 4)).filter (fun j =>
    !x.busy.contains j && !(s.core (4 * g + j)).mx.frozen)).take x.fillers

/-- A grove's clock advances one cycle (R13), not past a step boundary that is still to come; at the start of a boundary's cycle the
demand is taken (R228, R233). The fillers of the cycle are placed as it ends (R229). -/
def State.clockGrove (s : State) (g : Nat) : State :=
  let x := s.grove g
  if x.boundaryDue then s
  else
    let fs := s.fillNow g
    let y := { x with cc := x.cc + 1, fillers := x.fillers - fs.length, busy := [], filled := fs }
    s.setGrove g { y with slewD := if y.cc % 4 = 0 then (s.setGrove g y).demand g else x.slewD }

/-! ### Early reads and replacement -/

/-- A pending row ALU operation reads one of its source rows now (R192). -/
def PendOp.sample (s : State) (c src : Nat) : PendOp → PendOp
  | .rowAlu i vd va vb vc rd =>
    if rd.any (fun e => e.1 == src) || s.poisoned (rowKey c src 0) 256 then .rowAlu i vd va vb vc rd
    else .rowAlu i vd va vb vc (rd ++ [(src, s.rowBits c src)])
  | p => p

/-- The k-th pending operation of a row reads source row `src`, one that it names. -/
def State.sampleRow (s : State) (c r k src : Nat) : State :=
  match (s.pendingOf c r)[k]? with
  | none => s
  | some p =>
    if p.rrows.contains src && !s.aluHeld c r p.seq then
      s.modLatch c r (fun l => { l with pending := setNth l.pending k { p with op := p.op.sample s c src } })
    else s

/-- The slice of a grove evicts its k-th line; a pinned line stays, but what was stored to it is written back (R79, R160, R362). -/
def State.evictSlice (s : State) (g k : Nat) : State :=
  match (s.grove g).lines[k]? with
  | none => s
  | some l =>
    s.flushLines g (fun x => x == l) ((s.grove g).pins.any (fun p => p.part == l.part && p.line == l.line))

/-- The executor fetches a block ahead of use (R118): the one after the block of an open row's PC, or that of its `bt`. -/
def State.prefetchAhead (s : State) (c r : Nat) (target : Bool) : State :=
  match s.latch? c r with
  | none => s
  | some _ =>
    if target then (if bitAt (s.slot c r 2) 32 then s.prefetchBlock c (s.codeVa c ((s.slot c r 2).setWidth 32)) else s)
    else s.prefetchBlock c ((s.codeVa c (s.rowPc c r) / 32 * 32 + 32) % 2 ^ 57)

/-- The units that a move names exist (R10). -/
def Move.unitsOk : Move → Bool
  | .issue c r => decide (c < numCores) && decide (r < 4096)
  | .agent i => i.operands?.isNone && i.wellFormed
  | .tick _ => true
  | .clock g => decide (g < numGroves)
  | .sample c r _ src => decide (c < numCores) && decide (r < 4096) && decide (src < 4096)
  | .evictTlb _ => true
  | .evictLine g _ => decide (g < numGroves)
  | .evictCode g _ => decide (g < numGroves)
  | .evictSide k _ => decide (k < numStacks)
  | .part i _ => i.operands?.isNone && i.wellFormed
  | .hostRead w _ n => decide ((w.getD 0) < numParts) && decide (n ≤ 64)
  | .groveFail g => decide (g < numGroves)
  | .prefetch c r _ => decide (c < numCores) && decide (r < 4096)

/-- A reset brings power back (R352, R402). -/
def Move.isReset : Move → Bool
  | .agent i => (match i with
    | .coldReset => true
    | .warmReset => true
    | _ => false)
  | .issue _ _ | .tick _ | .clock _ | .sample .. | .evictTlb _ | .evictLine _ _ | .evictCode _ _ | .evictSide _ _
  | .prefetch .. | .part .. | .hostRead .. | .groveFail _ => false

/-! ### Placing an instruction where the next step fetches it -/

/-- Core 0 issues next from row 16, a supervisor context row open in latch 0 at PC 0, whose code block is in the instruction
cache of grove 0 and holds the bytes given. It stands for the loader (R394, R395); see log 16. -/
def State.placeCode (s : State) (bs : List Byte) : State :=
  let x := s.core 0
  let l : Latch := { idx := 0, row := 16, count := 0, pending := [], intent := .run, block := none, hold := 0, gather := none }
  let x1 := { x with
    last := 7
    latches := l :: x.latches.filter (fun y => y.row != 16 && y.idx != 0),
    engTraps := x.engTraps.filter (fun e => e.1 != 16),
    ctxmap := x.ctxmap.set 0 0 (putBit (x.ctxmap.get 0 0) 16 true) }
  let s1 := s.setCore 0 x1
  let va := s1.codeVa 0 0
  let b : ICBlock := {
    part := s1.partid 0, codebase := x.codebase, va := va / 32 * 32,
    data := BitVec.ofNat 256 (natOfBytes bs * 2 ^ (8 * (va % 32))) }
  let s2 := s1.setGrove 0 { s1.grove 0 with icache := b :: (s1.grove 0).icache.take 8191 }
  { (s2.setCtl 0 16 (putBit (putBits (putBits (s2.ctl 0 16) 0 32 0) 32 4 stOpen) 39 true)) with
    curCore := 0, curRow := 16, agenda := [.issue 0 16],
    stores := s2.stores.filter (fun q => !q.id.isRow 0 16),
    mgmt := { s2.mgmt with powered := true } }

end Sys2Proof.Machine
end

