-- ==== Sys2Proof/Machine/Accept.lean ====
section
/-! DEFINITION. The acceptance and refusal of outstanding global stores (R122, R154, R323, R357, R397), and completion with a
deferred fault. -/

namespace Sys2Proof.Machine

/-! ### Deferred faults (R122) -/

/-- A row is to take a deferred fault once it has drained: it takes precedence over a close and over a trap that is not
deferred; a row takes the first of two deferred faults (log 25). DESIGN CHOICE (log 25): where R7 and R137 leave open what becomes
of a `halt` whose row still drains, the `halt` is dropped, NEXT names it, and `tret` runs it again; and where R103 leaves it open, an
applied HALT request for which the row still drains is dropped as well. -/
def State.deferFault (s : State) (c r : Nat) (t : TrapInfo) : State :=
  match s.latch? c r with
  | none => s
  | some l => (match l.intent with
    | .trap u => if u.deferred || u.cause == .lease || u.cause == .wdog then s
      else s.setIntent c r (.trap { t with redirect := u.redirect })
    | .run => s.setIntent c r (.trap t)
    | .close _ => s.setIntent c r (.trap t)
    | .stalled => s.setIntent c r (.trap t))

/-! ### Refused messages (R323) -/

/-- The partition that owns the target of an address: of its core, its grove, or its dispatch window (R288, R323). -/
def State.ownerOf (s : State) (id : Ident) (va : Nat) : Nat :=
  if vaRegion va = 2 ∧ vaUnit va = 0x1F0 ∧ vaOff va < 0x10000 then vaOff va / 0x1000 else
  if vaRegion va = 2 ∧ vaUnit va < 0x100 then s.partid (vaUnit va)
  else if vaRegion va = 2 ∧ vaUnit va < 0x140 then s.partid (4 * (vaUnit va - 0x100))
  else id.part

/-- The sender's slot-0 address with SNODE, the id of its device (R308, R323); zero for the host. -/
def State.senderVa (s : State) (id : Ident) : Nat :=
  if id.host then 0 else rowVa (if id.node = 0x3FF then s.fabric.nodeId else id.node) id.core id.row

/-- A refused message or host write is discarded and posted with KIND 7. -/
def State.refuseMessage (s : State) (id : Ident) (va : Nat) (k : Cause) : State :=
  s.postRecord (s.ownerOf id va) (s.record 7 k.code va 0 0 (s.senderVa id))

/-! ### Acceptance (R154) -/

/-- The unit at which an access is performed, as a number (R326). -/
def unitKey (va : Nat) : Nat := if vaRegion va = 2 then vaUnit va else 512 + pointOf va

/-- Two addresses lie at one unit of one device. -/
def State.oneUnit (s : State) (a b : Nat) : Bool :=
  vaNode (s.canonVa a) == vaNode (s.canonVa b) && (if s.isLocal a then unitKey a == unitKey b
    else (vaRegion a == 2) == (vaRegion b == 2) && unitKey a == unitKey b)

/-- A store that leaves by the network interface: to REGION 10, or to another device (R73, R324). -/
def State.byUnit (s : State) (va : Nat) : Bool := vaRegion va == 2 || !s.isLocal va

/-- The class in which a store travels (R310). -/
def storeCls (va : Nat) : Nat := if vaRegion va = 2 ∧ vaUnit va = 0x1F0 then 0 else 1

/-- Two stores of one core go to one unit of REGION 10, or of another device (R326). -/
def State.sameUnit (s : State) (a b : StoreReq) : Bool :=
  a.id.host == b.id.host && a.id.core == b.id.core && s.byUnit a.va && s.byUnit b.va && s.oneUnit a.va b.va

/-- An earlier message of the store's core, in its class, is still to be performed at its unit (R326). -/
def State.messageBefore (s : State) (q : StoreReq) : Bool :=
  s.byUnit q.va && s.msgs.any (fun m => m.chan == 0 && !m.remote && m.id.host == q.id.host && m.id.node == q.id.node
    && m.id.core == q.id.core && decide (m.seq < q.seq) && m.cls == storeCls q.va
    && (m.mkind == 1 || m.mkind == 5 || m.mkind == 6) && s.oneUnit m.addr q.va)

/-- An earlier store of the same party, by the network interface, waits for its turn at a row of the core whose engine page a store is for
(R326, R397). -/
def State.queuedBefore (s : State) (q : StoreReq) : Bool :=
  s.isLocal q.va && vaRegion q.va == 2 && decide (2 ^ 20 ≤ vaOff q.va) && s.rowReqs.any (fun x =>
    !x.rs && x.core == vaUnit q.va && x.id.host == q.id.host && x.id.node == q.id.node && x.id.core == q.id.core
      && (!q.id.host || x.id.part == q.id.part) && decide (x.seq < q.seq))

/-- An earlier write of the host through a function's window has not been made, which a header that it stores follows (R301). -/
def State.hostBefore (s : State) (k : Nat) (q : StoreReq) : Bool :=
  q.id.host && isHeaderVa q.va && ((s.stores.take k).any (fun p => p.id.host && p.id.part == q.id.part)
    || s.rowReqs.any (fun x => x.id.host && x.id.part == q.id.part))

/-- A store may be accepted: no earlier access of its row overlaps it or takes the same loop-back path, no earlier store of its
core waits at its unit, and a header of the host follows its earlier writes (R301, R326, R357, R363, R397). -/
def State.mayAccept (s : State) (k : Nat) (q : StoreReq) : Bool :=
  !s.hostBefore k q && !s.queuedBefore q && (q.id.host || !s.olderSend q.id.core q.id.row q.seq q.va q.data.length) && (s.stores.take k).all (fun p =>
      !(s.sameUnit p q || (p.id == q.id && overlaps (s.canonVa p.va) p.data.length (s.canonVa q.va) q.data.length)))
    && (!s.isLocal q.va || !s.messageBefore q)
    && !(!q.id.host && s.loopBack q.id.core q.va && s.msgs.any (fun m => decide (m.seq < q.seq) && s.loopBackMsg q.id.core q.id.row m))
    && (q.id.host || (s.pendingOf q.id.core q.id.row).all (fun p => (match p.op.global with
        | some (ea, n) => !(p.seq < q.seq && (overlaps (s.canonVa ea) n (s.canonVa q.va) q.data.length
            || (s.loopBack q.id.core ea && s.loopBack q.id.core q.va)))
        | none => true)))

/-- A store is refused: a deferred fault of its row, or, for a host write, a KIND 7 record. -/
def State.refuseStore (s : State) (q : StoreReq) (k : Cause) : State :=
  if q.id.host then s.refuseMessage q.id q.va k
  else s.deferFault q.id.core q.id.row { cause := k, pc := q.pc, code := 0, deferred := true, len := q.len }

/-- The k-th outstanding store no longer is. -/
def State.dropStore (s : State) (k : Nat) : State := { s with stores := dropNth s.stores k }

/-- The receiver accepts or refuses the k-th outstanding store, when it is one that `kind` picks; a receiver that holds it
leaves it outstanding. -/
def State.acceptStore (s : State) (k : Nat) (kind : StoreClass → StoreReq → Bool) : State :=
  match s.stores[k]? with
  | none => s
  | some q =>
    if !kind (s.classOf q) q || !s.mayAccept k q then s
    else
      match s.anyStore q.id q.va q.data q.whole q.seq with
      | (.ok _, t) => t.dropStore k
      | (.fault c, t) => (t.dropStore k).refuseStore q c
      | (.hold, _) => s

/-- A message of the same core issued after the store (R326). -/
def Msg.follows (m : Msg) (q : StoreReq) : Bool :=
  m.via == 0 && m.chan == 0 && !m.remote && m.id.host == q.id.host && m.id.node == q.id.node && m.id.core == q.id.core
    && decide (q.seq < m.seq)

/-- A remote store leaves as a WRITE message, in its place among those of its core (R326), and stays outstanding until its ACK
(R324). -/
def State.sendStore (s : State) (k : Nat) (q : StoreReq) : State :=
  if q.sent || !s.mayAccept k q then s
  else
    let m : Msg := {
      mkind := 1, chan := 0, via := 0, cls := storeCls q.va, id := q.id, addr := q.va, aux := 0,
      data := q.data, count := none, ackreq := false, acktag := 0, remote := false, inCore := false, sys := false, seq := q.seq }
    { s with msgs := s.msgs.takeWhile (fun x => !x.follows q) ++ m :: s.msgs.dropWhile (fun x => !x.follows q)
             stores := setNth s.stores k { q with sent := true } }

/-- R154: a store to memory, to the array or scratch of a unit, or to another device. -/
def execStoreAcceptance (k : Nat) (s : State) : Result :=
  match s.stores[k]? with
  | none => .next s
  | some q =>
    if s.classOf q = .remote then .next (s.sendStore k q)
    else .next (s.acceptStore k (fun c _ => c == .plain || c == .bad))

/-- R212: a command store through REGION 10 enters the matrix queue. -/
def execMatrixCommandStore (k : Nat) (s : State) : Result := .next (s.acceptStore k (fun c _ => c == .matrix))

/-- R236: a store to HEAD other than STOP. -/
def execHead (k : Nat) (s : State) : Result := .next (s.acceptStore k (fun c q => c == .head && !isStopValue q.data))

/-- R236: STOP stored to HEAD. -/
def execStop (k : Nat) (s : State) : Result := .next (s.acceptStore k (fun c q => c == .head && isStopValue q.data))

/-- R263: bytes for the 64 operand buffers of a stack. -/
def execBroadcastWrite (k : Nat) (s : State) : Result := .next (s.acceptStore k (fun c _ => c == .broadcast))

/-- R289: a header enters its partition's queue. -/
def execTaskHeaderStore (k : Nat) (s : State) : Result := .next (s.acceptStore k (fun c _ => c == .header))

/-- R337: one frame through REPLAY. -/
def execReplay (k : Nat) (s : State) : Result := .next (s.acceptStore k (fun c _ => c == .replay))

/-- R337: TCTL. -/
def execTctl (k : Nat) (s : State) : Result := .next (s.acceptStore k (fun c _ => c == .tctl))

/-- R338: COMMIT. -/
def execCommit (k : Nat) (s : State) : Result := .next (s.acceptStore k (fun c _ => c == .commit))

/-- R398: a release store to TAILVA is performed at the host, and the vector is raised. -/
def execMailboxInterrupt (k : Nat) (s : State) : Result :=
  match s.stores[k]? with
  | none => .next s
  | some q =>
    if s.classOf q ≠ .mailbox ∨ !s.mayAccept k q then .next s
    else
      match s.anyStore q.id q.va q.data q.whole q.seq with
      | (.ok _, t) =>
        let t1 := match q.id.slice with
          | some g => t.flushLines g (fun l => l.part == q.id.part && l.line == t.canonVa q.va / 64) true
          | none => t
        let x := t1.part q.id.part
        .next ((t1.setPart q.id.part { x with raised := (x.raised + 1) % 2 ^ 32 }).dropStore k)
      | (.fault c, t) => .next ((t.dropStore k).refuseStore q c)
      | (.hold, _) => .next s

end Sys2Proof.Machine
end

