-- ==== Sys2Proof/Machine/LoadStore.lean ====
section
/-! DEFINITION. Loads, stores, multiple-register transfers, prefetch and fences (R152 to R159). -/

namespace Sys2Proof.Machine

/-! ### Shared operations -/

/-- The scope number of `system` (R39). -/
abbrev scopeSystem : Nat := 5

/-- The grove of the issuing row. -/
def State.myGrove (s : State) : Nat := groveOf s.curCore

/-- `ea := (wa + imm) mod 2^64` (R152). -/
def State.eaOf (s : State) (o : Operands) : Word := s.reg o.ra + o.offset

/-- A loaded value in wd (R152). -/
def loadValue (signed : Bool) (bs : List Byte) : Word :=
  if signed then sextNat (8 * bs.length) (natOfBytes bs) else word (natOfBytes bs)

/-- The alignment of an n-register transfer (R69, R156). -/
def multiAlign (n : Nat) : Nat := if n = 1 then 8 else if n = 2 then 16 else if n ≤ 4 then 32 else 64

/-- A message of the issuing row to another device (R308, R324). For a READ, `data` has the length that SIZE gives. -/
def State.sendMsg (s : State) (mkind cls va aux : Nat) (data : List Byte) (count : Option Word) (ackreq : Bool) (acktag : Nat)
    (sys : Bool := false) : State :=
  State.bump { s with msgs := s.msgs ++ [{
      mkind := mkind, cls := cls, chan := 0, via := 0, id := s.me, addr := va, aux := aux, data := data, count := count, ackreq := ackreq,
      acktag := acktag, remote := false, inCore := false, sys := sys, seq := s.seq }] }

/-- A READ message when the address names another device. -/
def State.readMsg (s : State) (va n : Nat) : State :=
  if s.isLocal va then s else s.sendMsg 2 1 va 0 (List.replicate n 0) none false 0

/-- A global store of the issuing row becomes outstanding (R154); a release at system scope writes the grove's dirty lines
back first (R80, R155). -/
def State.issueStore (s : State) (o : Operands) (va : Nat) (bs : List Byte) (whole release : Bool) (scope : Nat) : State :=
  let s1 := if release && scope == scopeSystem then s.sysRelease s.myGrove else s
  let q : StoreReq := {
    id := s1.me, va := va, data := bs, whole := whole, release := release, scope := scope, pc := s1.pc,
    len := o.len.units, seq := s1.seq, age := 0, sent := false }
  (State.bump { s1 with stores := s1.stores ++ [q] }).advance o

/-- n bytes of the issuing row's own latch from a row offset, as they stand after the instruction (R153); slot 0 shows the PC of
the next one, past pads (R105). -/
def State.ownBytes (s : State) (o : Operands) (off n : Nat) : List Byte :=
  (s.advance o).shownBytes s.curCore (s.curRow * 256 + off) n

/-- The 32 slots' registers that n bytes from a row offset cover. -/
def slotsOf (off n : Nat) : List Nat := (upto ((off % 8 + n + 7) / 8)).map (fun i => off / 8 + i)

/-! ### `ld` and `lr` -/

/-- R152, R154, R155. -/
def execLd (o : Operands) (s : State) : Result :=
  let ea := s.eaOf o
  let n := loadSize o.cc
  if ea.toNat % n ≠ 0 then .next (s.trap o .align 0)
  else
    match s.senderRefusal s.me ea n true false with
    | some k => .next (s.trap o k 0)
    | none =>
      .next ((s.pend (.ld o) o (.load o.rd n (loadSigned o.cc) true ea.toNat (if o.fn3 then o.memScope else 0)) o.fn3).readMsg
        ea.toNat n)

/-- R152 to R154: the engine page, another row of the array, or the row's own latch, a load of which completes in its issue cycle
(R182). -/
def execLr (o : Operands) (s : State) : Result :=
  let ea := s.eaOf o
  let n := loadSize o.cc
  if ea.toNat % n ≠ 0 then .next (s.trap o .align 0)
  else if 2 ^ 21 ≤ ea.toNat then .next (s.trap o .prot 0)
  else if 2 ^ 20 ≤ ea.toNat then
    match s.pageLoad s.curCore ea.toNat n false with
    | .ok v => .next (s.pend (.lr o) o (.taken o.rd v false) false)
    | .fault k => .next (s.trap o k 0)
    | .hold => .next s
  else
    match s.rowRefusal s.me ea false with
    | some k => .next (s.trap o k 0)
    | none =>
      if ea.toNat / 256 = s.curRow then
        .next (s.finish o (loadValue (loadSigned o.cc) (s.ownBytes o (ea.toNat % 256) n)))
      else .next (s.pend (.lr o) o (.load o.rd n (loadSigned o.cc) false ea.toNat 0) false)

/-! ### `st` and `sr` -/

/-- R152, R154, R155. -/
def execSt (o : Operands) (s : State) : Result :=
  let ea := s.eaOf o
  let n := storeSize o.cc
  if ea.toNat % n ≠ 0 then .next (s.trap o .align 0)
  else
    match s.senderRefusal s.me ea n false true with
    | some k => .next (s.trap o k 0)
    | none => .next (s.issueStore o ea.toNat (bytesOfNat n (s.reg o.rb).toNat) false o.fn3 (if o.fn3 then o.memScope else 0))

/-- A row-space store of the issuing row to its own row (R153, R156): slots 1 to 3 raise ILL, slot 0 is a control request
applied at the boundary after the instruction, the other slots are registers. -/
def State.storeOwn (s : State) (o : Operands) (off : Nat) (bs : List Byte) (wide : Bool) : State :=
  if (slotsOf off bs.length).any (fun k => 1 ≤ k && k ≤ 3) then s.trap o .ill 0
  else if off < 8 then
    let w := word (natOfBytes bs)
    match s.controlRefusal s.me s.curCore s.curRow w wide with
    | some (k, code) => s.trap o k code
    | none => (s.advance o).applyControl s.me s.curCore s.curRow w
  else (s.writeRowBytes s.curCore s.curRow off bs false).advance o

/-- A row-space store of the issuing row to the array (R85, R152, R154, R156). DEDUCED (log 57): the checks of a control
request to another row come in the order of the table of R103, that of R71 last; for the issuing row and an ordinary place it comes
first. -/
def State.storeArray (s : State) (o : Operands) (ea : Nat) (bs : List Byte) (wide : Bool) : State :=
  let c := s.curCore
  let r := ea / 256
  let off := ea % 256
  if off < 8 && s.isContext c r && r != s.curRow then
    match s.controlRefusal s.me c r (word (natOfBytes (bs.take 8))) wide with
    | some (k, code) => s.trap o k code
    | none =>
      if s.partlyPoisoned (arrayKey c ea) bs.length then s.trap o .memerr 0
      else (State.bump (s.storeRow s.me c r off bs true s.seq)).advance o
  else
    match s.rowRefusal s.me (word ea) true with
    | some k => s.trap o k 0
    | none =>
      if r = s.curRow then s.storeOwn o off bs wide
      else if s.partlyPoisoned (arrayKey c ea) bs.length then s.trap o .memerr 0
      else (State.bump (s.storeRow s.me c r off bs true s.seq)).advance o

/-- A row-space store of the issuing row to the engine page (R68). A full matrix queue stalls it (R212). -/
def State.storePage (s : State) (o : Operands) (ea : Nat) (bs : List Byte) (multi : Bool) : State :=
  match s.pageStore s.curCore s.me ea bs multi .queue with
  | .ok t => t.advance o
  | .fault k => s.trap o k 0
  | .hold => s

/-- R152 to R154. -/
def execSr (o : Operands) (s : State) : Result :=
  let ea := s.eaOf o
  let n := storeSize o.cc
  let bs := bytesOfNat n (s.reg o.rb).toNat
  if ea.toNat % n ≠ 0 then .next (s.trap o .align 0)
  else if 2 ^ 21 ≤ ea.toNat then .next (s.trap o .prot 0)
  else if 2 ^ 20 ≤ ea.toNat then .next (s.storePage o ea.toNat bs false)
  else .next (s.storeArray o ea.toNat bs (n == 8))

/-! ### `ldm` and `stm` -/

/-- Registers of the issuing row from wd take consecutive words (R156). -/
def State.setMany (s : State) (d : Nat) : List Word → State
  | [] => s
  | v :: vs => (s.setReg d v).setMany (d + 1) vs

/-- R156; an `ldm` of the row's own latch completes in its issue cycle (R182). -/
def execLdm (o : Operands) (s : State) : Result :=
  let ea := s.eaOf o
  let n := 8 * o.count
  if ea.toNat % multiAlign o.count ≠ 0 then .next (s.trap o .align 0)
  else if o.fn3 then
    match s.senderRefusal s.me ea n true false with
    | some k => .next (s.trap o k 0)
    | none => .next ((s.pend (.ldm o) o (.loadMany o.rd o.count true ea.toNat) false).readMsg ea.toNat n)
  else if 2 ^ 21 ≤ ea.toNat then .next (s.trap o .prot 0)
  else if 2 ^ 20 ≤ ea.toNat then
    match s.pageLoad s.curCore ea.toNat n true with
    | .fault k => .next (s.trap o k 0)
    | .ok _ => .next s
    | .hold => .next s
  else
    match s.rowRefusal s.me ea false with
    | some k => .next (s.trap o k 0)
    | none =>
      if ea.toNat / 256 = s.curRow then
        .next ((s.setMany o.rd (wordsOf (s.ownBytes o (ea.toNat % 256) n))).advance o)
      else .next (s.pend (.ldm o) o (.loadMany o.rd o.count false ea.toNat) false)

/-- The bytes of n registers from wd. -/
def State.regBytes (s : State) (d n : Nat) : List Byte := bytesOfWords ((upto n).map (fun i => s.reg (d + i)))

/-- A header for a dispatch window of another device is a release at system scope (R80, R301, R360). -/
def State.headerRelease (s : State) (va : Nat) : State :=
  if vaRegion va = 2 ∧ vaUnit va = 0x1F0 ∧ !s.isLocal va then s.sysRelease s.myGrove else s

/-- R156. -/
def execStm (o : Operands) (s : State) : Result :=
  let ea := s.eaOf o
  let bs := s.regBytes o.rd o.count
  if ea.toNat % multiAlign o.count ≠ 0 then .next (s.trap o .align 0)
  else if o.fn3 then
    match s.senderRefusal s.me ea bs.length false true with
    | some k => .next (s.trap o k 0)
    | none => .next ((s.headerRelease ea.toNat).issueStore o ea.toNat bs true false 0)
  else if 2 ^ 21 ≤ ea.toNat then .next (s.trap o .prot 0)
  else if 2 ^ 20 ≤ ea.toNat then .next (s.storePage o ea.toNat bs true)
  else .next (s.storeArray o ea.toNat bs true)

/-! ### `pf` -/

/-- R157: a line comes into the slice, with `.wr` as if for a write; a request that a load would fault on is dropped. -/
def execPf (o : Operands) (s : State) : Result :=
  let ea := s.eaOf o
  let p := s.partid s.curCore
  let line := s.canonVa ea.toNat / 64 * 64
  if (s.senderRefusal s.me ea 1 true false).isSome ∨ vaRegion ea.toNat = 2 ∨ !s.isLocal ea.toNat then .next (s.advance o)
  else
    match s.peek p line with
    | none => .next (s.advance o)
    | some k =>
      if s.poisoned k 64 then .next (s.advance o)
      else
        let s1 := if vaRegion line = 0 then s.recallOthers s.myGrove p (line / 64) o.fn0 else s
        .next ((s1.readSlice s.myGrove p line k 1).2.advance o)

/-! ### Fences -/

/-- The row has executed a system-scope `fence` from W to E: the fire that consumes a later count of it is an acquire at system
scope (R359, R360). -/
def State.markFenced (s : State) : State :=
  if (s.core s.curCore).fenced.contains s.curRow then s
  else s.setCore s.curCore { s.core s.curCore with fenced := (s.core s.curCore).fenced ++ [s.curRow] }

/-- R158: what the row waits for is in `mayIssue`; at system scope the grove's slice acts as R80 states. -/
def execFence (o : Operands) (s : State) : Result :=
  let sys := o.immScope == scopeSystem
  let s1 := if sys && o.fnAt 1 1 == 1 then s.sysRelease s.myGrove else s
  let s2 := if sys && o.fnAt 3 1 == 1 then s1.sysAcquire s.myGrove else s1
  let s3 := if sys && o.fnAt 1 1 == 1 && o.fnAt 5 1 == 1 then s2.markFenced else s2
  .next (s3.advance o)

/-- R159. -/
def execFenceLb (o : Operands) (s : State) : Result := .next (s.advance o)

end Sys2Proof.Machine
end

