-- ==== Sys2Proof/Machine/Slice.lean ====
section
/-! DEFINITION. Slice control: `lock`, `unlock`, `gresize`, `wb` and `inv` (R81, R82, R160 to R163). -/

namespace Sys2Proof.Machine

/-! ### What pending `lock` and `gresize` do at completion -/

/-- The cache ways of a set that hold no pinned line. -/
def GroveSt.freeWays (x : GroveSt) (set : Nat) : List Nat :=
  x.cacheWays.filter (fun w => !x.wayPinned set w)

/-- A line comes to lie in way `w` of its set: the line that lies there is written back and invalidated. -/
def State.moveLine (s : State) (g part line w : Nat) : State :=
  let s1 := s.flushLines g (fun l => l.way == w && setOf l.line == setOf line && !(l.part == part && l.line == line)) false
  s1.setGrove g { s1.grove g with lines := (s1.grove g).lines.map (fun l =>
    if l.part == part && l.line == line then { l with way := w } else l) }

/-- The way in which a `lock` would pin a line of a set (log 9). -/
def State.lockWayOf (s : State) (g set : Nat) : Nat :=
  let ws := (s.grove g).freeWays set
  ws.getD (Config.lockWay s.draws % ws.length) 0

/-- A `gresize` of the grove is in progress that removes way `w`: it is to succeed, and makes the way scratch (R82, R162). -/
def State.wayLeaves (s : State) (g w : Nat) : Bool :=
  (upto 4).any (fun j => (s.core (4 * g + j)).latches.any (fun l => l.pending.any (fun p => match p.op with
    | .gresize _ n => decide (n.toNat ≤ 12) && decide (16 - n.toNat ≤ w) && decide (w < 16 - (s.grove g).ways)
        && !(s.grove g).pins.any (fun q => decide (16 - n.toNat ≤ q.way))
    | .value .. | .taken .. | .load .. | .loadMany .. | .atomic .. | .rowAlu .. | .lock .. | .launch .. => false)))

/-- An earlier `gresize` of the grove is in progress (R82). -/
def State.resizeBefore (s : State) (g seq : Nat) : Bool :=
  (upto 4).any (fun j => (s.core (4 * g + j)).latches.any (fun l => l.pending.any (fun p => decide (p.seq < seq) && (match p.op with
    | .gresize _ _ => true
    | .value .. | .taken .. | .load .. | .loadMany .. | .atomic .. | .rowAlu .. | .lock .. | .launch .. => false))))

/-- A `lock` of a line that is not pinned waits: its way is being removed (R82). -/
def State.lockHeld (s : State) (g part va : Nat) : Bool :=
  let line := s.canonVa va / 64
  ((s.grove g).pin? part line).isNone && s.wayLeaves g (s.lockWayOf g (setOf line))

/-- `lock` of a line of REGION 00, 01 or 11 whose load would succeed (R160): the status and the state. The way is free
(log 9). DESIGN CHOICE (log 76): a full quota and a full set are answered with QUOTA. -/
def State.lockLine (s : State) (g part va : Nat) : Nat × State :=
  let x := s.grove g
  let line := s.canonVa va / 64
  if (x.pin? part line).isSome then (0, s)
  else if (s.part part).lockquota ≤ (x.pins.filter (fun p => p.part == part)).length then (1, s)
  else
    let ws := x.freeWays (setOf line)
    if ws.length ≤ 1 then (2, s)
    else
      let w := s.lockWayOf g (setOf line)
      let s1 := s.moveLine g part line w
      (0, (s1.setGrove g { s1.grove g with pins := x.pins ++ [{ part := part, line := line, way := w }] }).draw)

/-- The scratch ways become n; offsets of added scratch hold undefined contents (R81). -/
def GroveSt.resize (x : GroveSt) (n : Nat) : GroveSt :=
  { x with ways := n, epochs := ((upto n).filter (fun w => decide (x.ways ≤ w))).foldl (fun (m : Sparse Nat) w =>
      m.set 0 w (m.get 0 w + 1)) x.epochs }

/-- `gresize` at completion (R162): the status and the state. The lines in the ways that become scratch are written back and
invalidated. -/
def State.resizeGrove (s : State) (g : Nat) (n : Word) : Nat × State :=
  let x := s.grove g
  if 12 < n.toNat then (1, s)
  else if n.toNat = x.ways then (0, s)
  else if x.pins.any (fun p => decide (16 - n.toNat ≤ p.way)) then (2, s)
  else
    let s1 := s.flushLines g (fun l => decide (16 - n.toNat ≤ l.way)) false
    (0, s1.setGrove g ((s1.grove g).resize n.toNat))

/-! ### The instructions -/

/-- R160. -/
def execLock (o : Operands) (s : State) : Result :=
  let ea := s.eaOf o
  match s.senderRefusal s.me ea 1 true false with
  | some k => .next (s.trap o k 0)
  | none => .next ((s.pend (.lock o) o (.lock o.rd ea.toNat) false).readMsg ea.toNat 1)

/-- R161. -/
def execUnlock (o : Operands) (s : State) : Result :=
  let ea := s.eaOf o
  if 2 ^ 57 ≤ ea.toNat then .next (s.trap o .xlate 0)
  else
    let g := s.myGrove
    let x := s.grove g
    let part := s.partid s.curCore
    let line := s.canonVa ea.toNat / 64
    if (x.pin? part line).isSome then
      .next ((s.setGrove g { x with pins := x.pins.filter (fun p => !(p.part == part && p.line == line)) }).finish o 0)
    else .next (s.finish o 1)

/-- R162. -/
def execGresize (o : Operands) (s : State) : Result :=
  .next (s.pend (.gresize o) o (.gresize o.rd (s.reg o.ra)) false)

/-- The groves whose slices `wb` and `inv` act on (R163). -/
def State.scopeGroves (s : State) (scope : Nat) : List Nat :=
  let g := s.myGrove
  let p := s.partid s.curCore
  if scope ≤ 2 then [g]
  else if scope = 3 then (upto numGroves).filter (fun k => dieOf k == dieOf g && s.owns p k)
  else (upto numGroves).filter (fun k => s.owns p k)

/-- The lines of the issuer's partition in the range of `wb` and `inv` are written back, and invalidated unless kept. -/
def State.rangeFlush (s : State) (o : Operands) (keep : Bool) : State :=
  let lo := s.canonVa (s.reg o.ra).toNat
  let n := (s.reg o.rb).toNat
  let p := s.partid s.curCore
  (s.scopeGroves o.cc).foldl (fun (t : State) g =>
    t.flushLines g (fun l => l.part == p && decide (0 < n) && overlaps (l.line * 64) 64 lo n) keep) s

/-- R163. A start address with a bit of [63:57] set raises XLATE (R72, log 76). -/
def execWb (o : Operands) (s : State) : Result :=
  if 2 ^ 57 ≤ (s.reg o.ra).toNat then .next (s.trap o .xlate 0) else .next ((s.rangeFlush o true).advance o)
/-- R163, as `execWb`. -/
def execInv (o : Operands) (s : State) : Result :=
  if 2 ^ 57 ≤ (s.reg o.ra).toNat then .next (s.trap o .xlate 0) else .next ((s.rangeFlush o false).advance o)

end Sys2Proof.Machine
end

