-- ==== Sys2Proof/Machine/Atomic.lean ====
section
/-! DEFINITION. Atomics (R164 to R168): their operation and address, and what an atomic does at issue. -/

namespace Sys2Proof.Machine

/-- `ea` of an atomic (R164). -/
def State.eaAtomic (s : State) (o : Operands) : Word := s.reg o.ra + o.extOffset

/-- The operation that an instruction asks of the unit, with the values of its registers (R165 to R167). -/
def atomicOf (i : Instr) (y z : Word) : Option AtomicOp :=
  let amo (o : Operands) (k : Nat) : Option AtomicOp := some {
    kind := kAmo, op := k, size := if o.fn4 then 8 else 4, y := y.toNat, z := 0 }
  let famo (k : Nat) : Option AtomicOp := some { kind := kFamo, op := k, size := 4, y := y.toNat, z := 0 }
  match i with
  | .amoAdd o => amo o 0
  | .amoAnd o => amo o 1
  | .amoOr o => amo o 2
  | .amoXor o => amo o 3
  | .amoMin o => amo o 4
  | .amoMax o => amo o 5
  | .amoMinn o => amo o 6
  | .amoMaxn o => amo o 7
  | .amoSwap o => amo o 8
  | .acas o => some { kind := kAcas, op := 0, size := if o.fn4 then 8 else 4, y := y.toNat, z := z.toNat }
  | .famoAdd _ => famo 0
  | .famoMin _ => famo 1
  | .famoMax _ => famo 2
  | .famoAdd2 _ => famo 3
  | _ => none

/-- An ATOMIC message when the address names another device: AUX holds FN[6:0], the data the operands (R308, R309). -/
def State.atomicMsg (s : State) (o : Operands) (va size : Nat) (y z : Word) (two : Bool) : State :=
  if s.isLocal va then s
  else s.sendMsg 4 1 va (o.fn.toNat % 128) (bytesOfNat size y.toNat ++ (if two then bytesOfNat size z.toNat else [])) none false 0

/-- An atomic to a register of the row's own row acts on its latch at issue (R153), and so does its acquire at system scope
(R80). -/
def State.atomicOwn (s : State) (i : Instr) (o : Operands) (a : AtomicOp) (off : Nat) : State :=
  let r := s.atomicKey (rowKey s.curCore s.curRow off) a
  let acq := o.order == 1 || o.order == 3
  let s1 := if acq ∧ o.immScope = scopeSystem then r.2.sysAcquire s.myGrove else r.2
  s1.pend i o (.taken o.rd (a.result r.1) true) acq

/-- An atomic at issue (R164): its alignment and the sender's checks; the access is made at completion. To its own row, slots 1
to 3 raise ILL and slot 0 CWSTATE (R153). A release at system scope writes the grove's dirty lines back first (R80). -/
def State.atomicIssue (s : State) (i : Instr) (o : Operands) (a : AtomicOp) (two : Bool) : State :=
  let ea := s.eaAtomic o
  let y := s.reg o.rb
  let z := s.reg o.rc
  let acq := o.order == 1 || o.order == 3
  if ea.toNat % a.size ≠ 0 then s.trap o .align 0
  else
    let s0 := if 2 ≤ o.order ∧ o.immScope = scopeSystem then s.sysRelease s.myGrove else s
    if o.rowSpace then
      if 2 ^ 20 ≤ ea.toNat then s.trap o .prot 0
      else if s.rowDenied s.me s.curCore (ea.toNat / 256) true then s.trap o .prot 0
      else if ea.toNat / 256 = s.curRow then
        if ea.toNat % 256 < 8 then s.trap o .cwstate 1
        else if ea.toNat % 256 < 32 then s.trap o .ill 0
        else s0.atomicOwn i o a (ea.toNat % 256)
      else if ea.toNat % 256 < 8 && s.isContext s.curCore (ea.toNat / 256) then s.trap o .cwstate 1
      else s0.pend i o (.atomic i ea.toNat y z) acq
    else
      match s.senderRefusal s.me ea a.size true true with
      | some k => s.trap o k 0
      | none => (s0.pend i o (.atomic i ea.toNat y z) acq).atomicMsg o ea.toNat a.size y z two

/-- An atomic instruction at issue. -/
def State.atomicExec (s : State) (i : Instr) (o : Operands) (two : Bool) : Result :=
  match atomicOf i (s.reg o.rb) (s.reg o.rc) with
  | some a => .next (s.atomicIssue i o a two)
  | none => .next s

def execAmoAdd (o : Operands) (s : State) : Result := s.atomicExec (.amoAdd o) o false
def execAmoAnd (o : Operands) (s : State) : Result := s.atomicExec (.amoAnd o) o false
def execAmoOr (o : Operands) (s : State) : Result := s.atomicExec (.amoOr o) o false
def execAmoXor (o : Operands) (s : State) : Result := s.atomicExec (.amoXor o) o false
def execAmoMin (o : Operands) (s : State) : Result := s.atomicExec (.amoMin o) o false
def execAmoMax (o : Operands) (s : State) : Result := s.atomicExec (.amoMax o) o false
def execAmoMinn (o : Operands) (s : State) : Result := s.atomicExec (.amoMinn o) o false
def execAmoMaxn (o : Operands) (s : State) : Result := s.atomicExec (.amoMaxn o) o false
def execAmoSwap (o : Operands) (s : State) : Result := s.atomicExec (.amoSwap o) o false
def execAcas (o : Operands) (s : State) : Result := s.atomicExec (.acas o) o true
def execFamoAdd (o : Operands) (s : State) : Result := s.atomicExec (.famoAdd o) o false
def execFamoMin (o : Operands) (s : State) : Result := s.atomicExec (.famoMin o) o false
def execFamoMax (o : Operands) (s : State) : Result := s.atomicExec (.famoMax o) o false
def execFamoAdd2 (o : Operands) (s : State) : Result := s.atomicExec (.famoAdd2 o) o false

end Sys2Proof.Machine
end

