-- ==== Sys2Proof/Machine/Work.lean ====
section
/-! DEFINITION. Accesses of the engines on behalf of an issuing row: status codes (R240, R267), copy addresses (R234), checks
(R239, R89, R91), accesses of this device and of others (R309, R324), and units of work done in order. -/

namespace Sys2Proof.Machine

/-! ### Status codes (R240, R267) -/

abbrev wkDone : Nat := 1
abbrev wkDiscarded : Nat := 2
abbrev wkRsvd : Nat := 3
abbrev wkRange : Nat := 4
abbrev wkAlign : Nat := 5
abbrev wkProt : Nat := 6
abbrev wkXlate : Nat := 7
abbrev wkLease : Nat := 8
abbrev wkMemerr : Nat := 9
abbrev wkAbsent : Nat := 10
abbrev wkFormat : Nat := 11
abbrev wkRecord : Nat := 12
abbrev wkNoentry : Nat := 13
abbrev wkAborted : Nat := 14
/-- The model's own mark for work that is held: no status of the hardware. -/
abbrev wkHold : Nat := 201
/-- The model's own mark for an access that touches a range under revocation (R91), while the model only looks. -/
abbrev wkTouch : Nat := 200

/-- The status of a refusal (R240). -/
def wkStatus : Cause → Nat
  | .align => wkAlign
  | .xlate => wkXlate
  | .lease => wkLease
  | .memerr => wkMemerr
  | .absent => wkAbsent
  | .ill | .len | .haz | .bt | .prot | .cwstate | .engine | .trapi | .brk | .wdog | .priv | .queue | .rsvd => wkProt

/-- The cause of a status, for a fault record (R266). -/
def wkCause (st : Nat) : Cause :=
  if st = wkAlign then .align
  else if st = wkXlate then .xlate
  else if st = wkLease then .lease
  else if st = wkMemerr then .memerr
  else if st = wkAbsent then .absent
  else if st = wkRsvd then .rsvd
  else .prot

/-- What an access or a unit of work answers: a value, or a status, `wkHold` when it waits. -/
abbrev Wk (α : Type) := Except Nat α × State

/-! ### Who works -/

/-- The mark in `Msg.chan` of the read of a lease record, a request of its row (R91). -/
abbrev leaseChan : Nat := 13
/-- The mark in `Msg.chan` of a request whose work has ended: nothing takes its answer (R241). -/
abbrev goneChan : Nat := 15
/-- The mark in `Msg.chan` of channel ch of core c. -/
def chanMark (c ch : Nat) : Nat := 16 + 4 * c + ch

/-- A party at work: the core whose array and interface it uses, its mark in `Msg.chan`, its identity, the identity of its
accesses on this device, and whether it works under the lease before a revocation, or only looks for what it touches. -/
structure Work where
  core  : Nat
  chan  : Nat
  id    : Ident
  inner : Ident
  old   : Bool
  mark  : Bool
  deriving DecidableEq, Repr

/-- The identity under which a core's engine accesses this device for another: its checks are those of the issuing row, its
interface is the core's (R79, R87, R239); work of the host is a supervisor's (R211). -/
def Ident.through (id : Ident) (c : Nat) : Ident :=
  { id with host := false, node := 0x3FF, core := c, mode := id.mode || id.host }

/-- A copy address (R234): row space of the channel's core, or a global address. -/
structure CAddr where
  rs  : Bool
  off : Nat
  deriving DecidableEq, Repr

def copyAddr (a : Word) : CAddr := { rs := bitAt a 63, off := if bitAt a 63 then bitsAt a 0 21 else bitsAt a 0 57 }
def CAddr.plus (a : CAddr) (n : Nat) : CAddr := { a with off := a.off + n }
/-- A global address. -/
def globalAddr (va : Nat) : CAddr := { rs := false, off := va }

/-! ### Checks (R239) -/

/-- A REGION 10 address that engine work reaches: a core array, or, for a copy record, grove scratch (R239, R267). -/
def workUnit (scratch : Bool) (va n : Nat) : Bool :=
  (decide (vaUnit va < 0x100) && decide (vaOff va + n ≤ 2 ^ 20))
    || (scratch && decide (0x100 ≤ vaUnit va) && decide (vaUnit va < 0x140))

/-- A row marked in the context map of a core of this device. -/
def State.contextAt (s : State) (va : Nat) : Bool :=
  decide (vaUnit va < 0x100) && s.isContext (vaUnit va) (vaOff va / 256 % 4096)

/-- The host is checked as a supervisor (R211). -/
def Ident.supIf (id : Ident) : Ident := if id.host then { id with mode := true } else id

/-- The refusal of an access by its party before it reaches a unit. -/
def State.workRefusal (s : State) (x : Work) (a : CAddr) (n : Nat) (write : Bool) : Option Nat :=
  if a.rs then
    if 2 ^ 20 < a.off + n then some wkProt
    else if s.isContext x.core (a.off / 256) || s.rowDenied x.id.supIf x.core (a.off / 256) write then some wkProt
    else if s.absent x.core then some wkAbsent
    else none
  else if 2 ^ 57 < a.off + n then some wkXlate
  else if s.unreachable a.off then some wkXlate
  else if vaRegion a.off = 2 then
    if !workUnit (decide (16 ≤ x.chan)) a.off n then some wkProt
    else if s.isLocal a.off && s.contextAt a.off then some wkProt
    else none
  else if !s.leaseGrants x.id.supIf a.off n write then some wkLease
  else if !x.old && s.revokes x.id.supIf a.off n write then some (if x.mark then wkTouch else wkLease)
  else none

/-! ### Other devices (R309, R324) -/

/-- The answer to an access of another device, of as many bytes: taken when it has come; asked for when no request of the party is on
its way. A party that only looks takes zeros for what it would read (log 65). -/
def State.workRemote (s : State) (x : Work) (mkind va aux : Nat) (data : List Byte) : Wk (List Byte) :=
  let kind := if mkind = 1 then 7 else 3
  let mine (m : Msg) : Bool := m.chan == x.chan && m.id == x.id
  match s.msgs.findIdx? (fun m => mine m && m.remote && m.mkind == kind && m.addr == va
      && (mkind == 4 || m.data.length == data.length)) with
  | some k =>
    match s.msgs[k]? with
    | some m =>
      (if m.aux = 0 then .ok m.data else .error (wkStatus (causeOf m.aux)), { s with msgs := dropNth s.msgs k })
    | none => (.error wkHold, s)
  | none =>
    if x.mark then (.ok data, s)
    else if s.msgs.any (fun m => mine m && (m.mkind == 1 || m.mkind == 2 || m.mkind == 4)) then (.error wkHold, s)
    else
      (.error wkHold, State.bump { s with msgs := s.msgs ++ [{
          mkind := mkind, cls := if x.chan = leaseChan then 1 else 2, chan := x.chan, via := 0, id := x.id, addr := va, aux := aux, data := data, count := none,
          ackreq := false, acktag := 0, remote := false, inCore := false, sys := false, seq := s.seq }] })

/-- Answers that work which has ended will not take, those that have come and those that will (R241). -/
def State.dropAnswers (s : State) (x : Work) : State :=
  let mine (m : Msg) : Bool := m.chan == x.chan && m.id == x.id
  { s with msgs := (s.msgs.filter (fun m => !(mine m && m.remote && (m.mkind == 3 || m.mkind == 7)))).map (fun (m : Msg) =>
      if mine m then { m with chan := goneChan } else m) }

/-- Nothing of the work that led from `s` to `t` stays but a request that it has made of another device, or of a grove that is idle. -/
def State.keepRequests (s t : State) : State :=
  { s with knocks := t.knocks, msgs := s.msgs ++ t.msgs.filter (fun m => decide (s.seq ≤ m.seq) && m.chan != 0), seq := t.seq }

/-- An answer of this device as one of the work. -/
def wkOf {α : Type} (r : Acc α × State) : Wk α :=
  match r with
  | (.ok v, t) => (.ok v, t)
  | (.fault k, t) => (.error (wkStatus k), t)
  | (.hold, t) => (.error wkHold, t)

/-- An access that a unit holds knocks at its grove, which may be idle (R349). -/
def knocking {α : Type} (va : Nat) (r : Wk α) : Wk α :=
  match r with
  | (.error code, t) => (.error code, if code = wkHold then t.knock va else t)
  | (.ok v, t) => (.ok v, t)

/-- A party that only looks goes on past an access that is held, with `d` for what it would give (log 65). -/
def Work.past {α : Type} (x : Work) (d : α) (r : Wk α) : Wk α :=
  match r with
  | (.error code, t) => if x.mark && code == wkHold then (.ok d, t) else (.error code, t)
  | (.ok v, t) => (.ok v, t)

/-- What a party that only looks starts from: no part ends its look, and every grove that sleeps is awake to it (R91, R349). -/
def State.looked (s : State) : State := (upto numGroves).foldl (fun (t : State) g => t.rouse g) { s with pause := none }

/-! ### Accesses that cross no 64-byte line -/

/-- A read of n bytes. -/
def State.workRead (s : State) (x : Work) (a : CAddr) (n : Nat) : Wk (List Byte) :=
  match s.workRefusal x a n false with
  | some code => (.error code, s)
  | none =>
    if a.rs then
      if s.poisoned (arrayKey x.core a.off) n then (.error wkMemerr, s)
      else (.ok (s.mem.loadBytes n (arrayKey x.core a.off)), s)
    else if s.isLocal a.off then x.past (List.replicate n 0) (knocking a.off (wkOf (s.anyLoad x.inner a.off n true)))
    else s.workRemote x 2 a.off 0 (List.replicate n 0)

/-- Stores wait before a row of this device that the address names: an engine's write follows them. -/
def State.rowQueued (s : State) (va : Nat) : Bool :=
  vaRegion va == 2 && s.rowReqs.any (fun q => q.core == vaUnit va && q.row == vaOff va / 256)

/-- A write of bytes. -/
def State.workWrite (s : State) (x : Work) (a : CAddr) (bs : List Byte) : Wk Unit :=
  match s.workRefusal x a bs.length true with
  | some code => (.error code, s)
  | none =>
    if a.rs then
      if s.partlyPoisoned (arrayKey x.core a.off) bs.length then (.error wkMemerr, s)
      else (.ok (), { s with mem := s.mem.storeBytes (arrayKey x.core a.off) bs }.cleanse (arrayKey x.core a.off) bs.length)
    else if s.isLocal a.off then
      x.past () (if s.rowQueued a.off then (.error wkHold, s) else knocking a.off (wkOf (s.anyStore x.inner a.off bs true 0)))
    else
      match s.workRemote x 1 a.off 0 bs with
      | (.ok _, t) => (.ok (), t)
      | (.error code, t) => (.error code, t)

/-- One indivisible combine (R249). -/
def State.workCombine (s : State) (x : Work) (a : CAddr) (op : AtomicOp) : Wk Unit :=
  match s.workRefusal x a op.size true with
  | some code => (.error code, s)
  | none =>
    let r : Wk Nat :=
      if a.rs then
        match s.rowAtomic (x.inner) x.core a.off op with
        | .ok (old, t) => (.ok old, t)
        | .fault k => (.error (wkStatus k), s)
        | .hold => (.error wkHold, s)
      else if s.isLocal a.off then knocking a.off (wkOf (s.anyAtomic x.inner a.off op))
      else if vaRegion a.off = 3 ∧ !op.hostOk then (.error wkProt, s)
      else
        match s.workRemote x 4 a.off (op.op + (if op.size = 8 then 16 else 0)) (bytesOfNat op.size op.y) with
        | (.ok _, t) => (.ok 0, t)
        | (.error code, t) => (.error code, t)
    match r with
    | (.ok _, t) => (.ok (), t)
    | (.error code, t) => x.past () (.error code, t)

/-! ### Accesses in pieces -/

/-- Reads of consecutive pieces, each within a line or an atom of `unit` bytes. -/
def State.workReads (s : State) (x : Work) (a : CAddr) : List (Nat × Nat) → Wk (List Byte)
  | [] => (.ok [], s)
  | (off, n) :: ps =>
    match s.workRead x { a with off := off } n with
    | (.error code, t) => (.error code, t)
    | (.ok bs, t) =>
      match t.workReads x a ps with
      | (.ok cs, u) => (.ok (bs ++ cs), u)
      | (.error code, u) => (.error code, u)

/-- The piece of n bytes at an address that an engine asks another device for, in one message: 8-byte parts of one 64-byte line, or
1, 2 or 4 bytes (R258, R308). -/
def messagePiece (va n : Nat) : Nat :=
  if va % 8 = 0 ∧ 8 ≤ n then min (n / 8 * 8) (64 - va % 64)
  else if va % 4 = 0 ∧ 4 ≤ n then 4
  else if va % 2 = 0 ∧ 2 ≤ n then 2
  else 1

/-- The n bytes from va cut into pieces that a message can carry. -/
def messagePieces (va : Nat) : Nat → Nat → List (Nat × Nat)
  | 0, _ => []
  | fuel + 1, n =>
    if n = 0 then [] else (va, messagePiece va n) :: messagePieces (va + messagePiece va n) fuel (n - messagePiece va n)

/-- The pieces in which engine work accesses n bytes: lines, or, on another device, what a message of a line can carry. -/
def State.workPieces (s : State) (a : CAddr) (n : Nat) : List (Nat × Nat) :=
  if a.rs || s.isLocal a.off then pieces a.off (n + 1) n else messagePieces a.off (n + 1) n

/-- A read of n bytes from an address, a line at a time. -/
def State.workLoad (s : State) (x : Work) (a : CAddr) (n : Nat) : Wk (List Byte) := s.workReads x a (s.workPieces a n)

/-- Writes of consecutive pieces. -/
def State.workWrites (s : State) (x : Work) (a : CAddr) (bs : List Byte) : List (Nat × Nat) → Wk Unit
  | [] => (.ok (), s)
  | (off, n) :: ps =>
    match s.workWrite x { a with off := off } ((bs.drop (off - a.off)).take n) with
    | (.error code, t) => (.error code, t)
    | (.ok _, t) => t.workWrites x a bs ps

/-- The refusal, before the first of them, of writes to another device that make up one unit of work (R241): those that reach it one
by one are not taken back (log 79). -/
def State.unitRefusal (s : State) (x : Work) (as : List (CAddr × Nat)) : Option Nat :=
  as.findSome? (fun (e : CAddr × Nat) => if e.1.rs || s.isLocal e.1.off then none else s.workRefusal x e.1 e.2 true)

/-- A write of bytes to an address, a line at a time. -/
def State.workStore (s : State) (x : Work) (a : CAddr) (bs : List Byte) : Wk Unit :=
  let ps := s.workPieces a bs.length
  match s.unitRefusal x (ps.map (fun (e : Nat × Nat) => (({ a with off := e.1 } : CAddr), e.2))) with
  | some code => (.error code, s)
  | none => s.workWrites x a bs ps

/-! ### Units in order -/

/-- The step of an engine has done its part of the work (log 63). -/
def State.paused (s : State) : Bool := s.pause == some 0
/-- One more unit of the part is done. -/
def State.spend (s : State) : State := { s with pause := s.pause.map (fun n => n - 1) }

/-- How work stands: the units completed, the status that stopped it, if any, `wkHold` where it is to go on later, and the
state. -/
structure Ended where
  units : Nat
  stop  : Option Nat
  state : State
  deriving DecidableEq, Repr

/-- A unit that did not complete: one that fails leaves no trace, one that waits leaves its request for another device. -/
def Ended.stopAt (s t : State) (done code : Nat) : Ended :=
  { units := done, stop := some code, state := if code = wkHold then s.keepRequests t else s }

/-- Units of a given size, done in order up to the first that does not complete, or to the end of the part. A part ends, and work
waits, only where a group begins, at a unit that `starts` picks: `b` is how the group at hand began. -/
def runGroups (f : Nat → State → Wk Unit) (size : Nat) (starts : Nat → Bool) : List Nat → Nat × State → Nat → State → Ended
  | [], _, done, s => { units := done, stop := none, state := s }
  | u :: us, b0, done, s =>
    let b := if starts u then (done, s) else b0
    if s.paused && starts u then { units := done, stop := some wkHold, state := s }
    else
      match f u s with
      | (.ok _, t) => runGroups f size starts us b (done + size) t.spend
      | (.error code, t) => if code = wkHold then Ended.stopAt b.2 t b.1 code else Ended.stopAt s t done code

/-- Units each of which is a group. -/
def runUnits (f : Nat → State → Wk Unit) (size : Nat) (us : List Nat) (done : Nat) (s : State) : Ended :=
  runGroups f size (fun _ => true) us (done, s) done s

/-- Work that stops before its first unit. -/
def Ended.at0 (s : State) (code : Nat) : Ended := { units := 0, stop := some code, state := s }

end Sys2Proof.Machine
end

