-- ==== Sys2Proof/Machine/Expand.lean ====
section
/-! DEFINITION. The weight expander: stream formats (R269 to R272), decoding from a source of bytes. -/

namespace Sys2Proof.Machine

/-! ### Groups of a fixed size (R269 to R271) -/

/-- Bytes of a 64-element group of a format other than EC4 (R269). -/
def groupBytes (fmt : Nat) : Nat :=
  if fmt = 1 then 34 else if fmt = 2 then 26 else if fmt = 7 then 128 else 64

/-- Bytes of a decoded element: 1 for TS8, E4M3 and E5M2, 2 for BF16 codes. -/
def elemBytes (fmt : Nat) : Nat := if fmt = 4 ∨ fmt = 5 ∨ fmt = 6 then 1 else 2

/-- `Rnd(code · scale, BF16, RNE, 1)` (R270, R271). -/
def scaledCode (code : Int) (scale : Nat) : Nat := rnd .bf16 0 true ((Val.ofInt code).mul (Fmt.bf16.decode scale))

/-- The 64 codes of a group (R269 to R271). -/
def groupCodes (fmt : Nat) (bs : List Byte) : List Nat :=
  let v := natOfBytes bs
  if fmt = 1 then
    (upto 64).map (fun i => scaledCode (signedNat 4 (v / 2 ^ (4 * i))) (v / 2 ^ 256 % 2 ^ 16))
  else if fmt = 2 then
    (upto 64).map (fun i => scaledCode (signedNat 3 (v / 2 ^ (3 * i))) (v / 2 ^ 192 % 2 ^ 16))
  else if fmt = 7 then (upto 64).map (fun i => v / 2 ^ (16 * i) % 2 ^ 16)
  else (upto 64).map (fun i => v / 2 ^ (8 * i) % 2 ^ 8)

/-- The exact value of a decoded code (R269). -/
def elemVal (fmt code : Nat) : Val :=
  if fmt = 4 then ts8 code
  else if fmt = 5 then Fmt.e4m3.decode code
  else if fmt = 6 then Fmt.e5m2.decode code
  else Fmt.bf16.decode code

/-! ### EC4 blocks (R272) -/

/-- The codes of a block: length, code and symbol, in canonical order. -/
structure EcCode where
  len  : Nat
  code : Nat
  sym  : Nat
  deriving DecidableEq, Repr

/-- The used symbols by length, then symbol. -/
def ecOrder (lens : Nat) : List (Nat × Nat) :=
  (upto 15).flatMap (fun l => ((upto 16).filter (fun k => lens / 2 ^ (4 * k) % 16 == l + 1)).map (fun k => (l + 1, k)))

/-- The canonical rule: `next` is the code after the last one assigned, of length `l`. -/
def ecAssign : Nat → Nat → List (Nat × Nat) → List EcCode
  | _, _, [] => []
  | next, l, (n, k) :: rest => { len := n, code := next * 2 ^ (n - l), sym := k } :: ecAssign (next * 2 ^ (n - l) + 1) n rest

/-- Bit i of the bits of a block with G groups; none at the end of the bytes. -/
def ecBit (bs : List Byte) (g i : Nat) : Option Nat := (bs[42 + 2 * g + i / 8]?).map (fun b => b.toNat / 2 ^ (i % 8) % 2)

/-- One symbol from bit p: the symbol and the next bit. -/
def ecSymbol (codes : List EcCode) (bs : List Byte) (g : Nat) : Nat → Nat → Nat → Nat → Option (Nat × Nat)
  | 0, _, _, _ => none
  | fuel + 1, p, v, l =>
    match ecBit bs g p with
    | none => none
    | some b =>
      match codes.find? (fun c => c.len == l + 1 && c.code == 2 * v + b) with
      | some c => some (c.sym, p + 1)
      | none => ecSymbol codes bs g fuel (p + 1) (2 * v + b) (l + 1)

/-- n symbols from bit p. -/
def ecSymbols (codes : List EcCode) (bs : List Byte) (g : Nat) : Nat → Nat → Option (List Nat × Nat)
  | 0, p => some ([], p)
  | n + 1, p =>
    match ecSymbol codes bs g 15 p 0 0 with
    | none => none
    | some (k, p1) =>
      match ecSymbols codes bs g n p1 with
      | none => none
      | some (ks, p2) => some (k :: ks, p2)

/-- Bytes i and i + 1 of a block. -/
def ecHalf (bs : List Byte) (i : Nat) : Nat := natOfBytes ((bs.drop i).take 2)

/-- G of a block whose header is well formed (R272). -/
def ecGroups (bs : List Byte) : Option Nat :=
  let lens := natOfBytes (bs.take 8)
  let g := ecHalf bs 40
  let used := ecOrder lens
  if used.isEmpty ∨ 2 ^ 15 < (used.map (fun x => 2 ^ (15 - x.1))).sum ∨ g = 0 ∨ 2048 < 42 + 2 * g ∨ bs.length < 42 + 2 * g then none
  else some g

/-- The first n groups of a block, from group i at bit p, up to the first that does not decode. -/
def ecTake (bs : List Byte) (codes : List EcCode) (g : Nat) : Nat → Nat → Nat → List (List Nat)
  | 0, _, _ => []
  | n + 1, i, p =>
    match ecSymbols codes bs g 64 p with
    | none => []
    | some (ks, p1) =>
      ks.map (fun k => rnd .bf16 0 true ((Fmt.bf16.decode (ecHalf bs (8 + 2 * k))).mul (Fmt.bf16.decode (ecHalf bs (42 + 2 * i)))))
        :: ecTake bs codes g n (i + 1) p1

/-! ### Streams -/

/-- What a stream gave: groups of 64 codes, the status that ended it early, and the state. -/
structure Decoded where
  groups : List (List Nat)
  stop   : Option Nat
  state  : State
  deriving DecidableEq, Repr

/-- Earlier groups before what follows. -/
def Decoded.after (gs : List (List Nat)) (d : Decoded) : Decoded := { d with groups := gs ++ d.groups }

/-- `need` groups from byte `off` of a stream of `slen` bytes that `read` reads; each turn takes a group, or an EC4 block. A
block is decoded whole, and gives no group where it fails (R272, log 33). -/
def decodeStream (read : Nat → Nat → State → Wk (List Byte)) (fmt slen : Nat) : Nat → Nat → Nat → State → Decoded
  | 0, _, _, s => { groups := [], stop := none, state := s }
  | fuel + 1, off, need, s =>
    if need = 0 then { groups := [], stop := none, state := s }
    else if fmt = 3 then
      if slen ≤ off then { groups := [], stop := some wkFormat, state := s }
      else
        match read off (min 2048 (slen - off)) s with
        | (.error code, t) => { groups := [], stop := some code, state := t }
        | (.ok bs, t) =>
          match ecGroups bs with
          | none => { groups := [], stop := some wkFormat, state := t }
          | some g =>
            let gs := ecTake bs (ecAssign 0 0 (ecOrder (natOfBytes (bs.take 8)))) g g 0 0
            if gs.length < g then { groups := [], stop := some wkFormat, state := t }
            else (decodeStream read fmt slen fuel (off + 2048) (need - min g need) t).after (gs.take need)
    else
      let n := groupBytes fmt
      if slen < off + n then { groups := [], stop := some wkFormat, state := s }
      else
        match read off n s with
        | (.error code, t) => { groups := [], stop := some code, state := t }
        | (.ok bs, t) => (decodeStream read fmt slen fuel (off + n) (need - 1) t).after [groupCodes fmt bs]

/-- The bytes that `need` groups take from byte `off` of a stream on: those of its groups, or, for EC4, of whole blocks. -/
def streamSpan (read : Nat → Nat → State → Wk (List Byte)) (fmt : Nat) : Nat → Nat → Nat → State → Nat
  | 0, off, _, _ => off
  | fuel + 1, off, need, s =>
    if need = 0 then off
    else if fmt ≠ 3 then off + need * groupBytes fmt
    else
      match read off 2048 s with
      | (.error _, _) => off
      | (.ok bs, t) => streamSpan read fmt fuel (off + 2048) (need - ((ecGroups bs).getD need)) t

/-- The bytes of a group of codes. -/
def codeBytes (fmt : Nat) (cs : List Nat) : List Byte := cs.flatMap (fun c => bytesOfNat (elemBytes fmt) c)

end Sys2Proof.Machine
end

