-- ==== Sys2Proof/Machine/Entries.lean ====
section
/-! DEFINITION. Bank engines: what a call is and how it ends (R264 to R267), weight streams (R268), and the work of the entries of
the standard heartwood (R273 to R278). -/

namespace Sys2Proof.Machine

/-! ### Calls (R264, R266) -/

def callEntry (ws : List Word) : Nat := bitsAt (wordAt ws 0) 0 8

/-- A field of word w of a call. -/
def callField (ws : List Word) (w lo n : Nat) : Nat := bitsAt (wordAt ws w) lo n

/-- The completion target (R21, R264). -/
def callTarget (ws : List Word) : Option Target :=
  targetOf (callField ws 0 8 2) (callField ws 0 16 8) (callField ws 0 10 6) (callField ws 7 0 57)

/-- STATADDR is well formed (R264). -/
def callStatOk (ws : List Word) : Bool := callField ws 6 57 7 == 0 && callField ws 6 0 3 == 0

/-- The checks of words 0, 6 and 7: RSVD (R266). -/
def callBad (ws : List Word) : Bool :=
  callField ws 0 24 40 != 0 || targetBad (callField ws 0 8 2) (callField ws 0 10 6) (callField ws 7 0 57)
    || (callField ws 0 8 2 != 1 && callField ws 0 16 8 != 0) || callField ws 7 57 7 != 0 || !callStatOk ws

/-- How the work of a call stands: its status, `wkHold` where it is to go on, how far it has come, and the state. -/
structure CallEnd where
  status : Nat
  run    : CallRun
  state  : State
  deriving DecidableEq, Repr

/-- The party that a call makes: its checks are those of the issuing row, and it reaches memory at the stack, not through the slice of the
row's grove (R79). -/
def callWork (k : Nat) (id : Ident) (mark : Bool) : Work :=
  { core := id.core, chan := 5 + k, id := id, inner := { id with bank := true }, old := false, mark := mark }

/-- The head call leaves the queue; a swap that waits takes effect before the next begins only by its own step (R284). -/
def State.dropCall (s : State) (k : Nat) : State := s.setStack k { s.stack k with calls := (s.stack k).calls.drop 1 }

/-- The KIND 5 record of a lost status word or target names STATADDR (R126, R266). -/
def State.lostCall (s : State) (q : Call) (cause : Cause) : State :=
  s.postRecord q.id.part (s.record 5 cause.code (callField q.words 6 0 57) 0 0 q.id.origin)

/-- The target is signalled, once, or reported lost when there is none (R22, R266). -/
def State.callSignal (s : State) (q : Call) (wrote : Bool) : State :=
  if q.run.told then s
  else
  match callTarget q.words with
  | some t => s.signal q.id t
  | none => if wrote then s else s.lostCall q .rsvd

/-- The head call of a stack rewritten. -/
def StackSt.setHead (x : StackSt) (q : Call) : StackSt := { x with calls := q :: x.calls.drop 1 }

/-- The status word of a call is written (R266). -/
def State.writeStatus (s : State) (k : Nat) (q : Call) (st units : Nat) : Wk Unit :=
  s.workWrite (callWork k q.id false) (globalAddr (callField q.words 6 0 57))
    (bytesOfNat 8 (st + callEntry q.words * 2 ^ 8 + units % 2 ^ 32 * 2 ^ 32))

/-- A call has a status word to write. -/
def callStates (q : Call) : Bool := wordAt q.words 6 != 0 && callStatOk q.words

/-- The work of the head call has ended with a status and UNITS, its results made: its status word, unless its micro-words have written
it, then its signal (R266, R282, R285). A status word on its way to another device leaves the call at the head. -/
def State.endCall (s : State) (k : Nat) (q : Call) (st units : Nat) : State :=
  if !callStates q || q.run.stated.isSome then (s.dropCall k).callSignal q (q.run.stated == some true)
  else
    match s.writeStatus k q st units with
    | (.ok _, t) => (t.dropCall k).callSignal q true
    | (.error code, t) =>
      if code = wkHold then
        (s.keepRequests t).setStack k ((s.stack k).setHead { q with ended := some (st, units) })
      else ((t.dropCall k).lostCall q (wkCause code)).callSignal q false

/-- The work of the head call stands as `e` says: it ends, or stays at the head as far as it has come. -/
def State.keepCall (k : Nat) (q : Call) (e : CallEnd) : State :=
  if e.status = wkHold then e.state.setStack k ((e.state.stack k).setHead { q with run := e.run })
  else e.state.endCall k { q with run := e.run } e.status e.run.units

/-! ### Accesses of a call -/

/-- A call that ends before any work. -/
def CallEnd.early (s : State) (code : Nat) : CallEnd := { status := code, run := CallRun.start, state := s }

/-- Units of a call in order, each with what the call carries on, up to the first that does not complete, or to the end of the part. -/
def callUnits (f : Nat → CallRun → State → Wk CallRun) : List Nat → CallRun → State → CallEnd
  | [], r, s => { status := wkDone, run := r, state := s }
  | u :: us, r, s =>
    if s.paused then { status := wkHold, run := r, state := s }
    else
      match f u r s with
      | (.ok q, t) => callUnits f us { q with done := r.done + 1 } t.spend
      | (.error code, t) => { status := code, run := r, state := if code = wkHold then s.keepRequests t else s }

/-- UNITS of what is done. -/
def CallEnd.count (e : CallEnd) (units : Nat → Nat) : CallEnd := { e with run := { e.run with units := units e.run.done } }

/-- A place in REGION 00 of this device (R268, R275, R277, R278). -/
def State.callPlace (s : State) (va : Nat) : Bool := vaRegion va == 0 && s.isLocal va

/-- The address of stream byte b of stack k (R268). -/
def streamVa (wva k b : Nat) : Nat := wva + b / 256 * 2048 + k * 256 + b % 256

/-- At most 32 stream bytes of one atom from byte b: as the call has kept the atom, or as they are now (R281). -/
def State.streamPiece (x : Work) (wva k : Nat) (kept : List (Nat × List Byte)) (b m : Nat) (s : State) : Wk (List Byte) :=
  match kept.find? (fun e => e.1 == b / 32) with
  | some e => (.ok ((e.2.drop (b % 32)).take m), s)
  | none => s.workRead x (globalAddr (streamVa wva k b)) m

/-- n stream bytes from byte b, by atoms. -/
def State.streamRead (x : Work) (wva k : Nat) (kept : List (Nat × List Byte)) : Nat → Nat → Nat → State → Wk (List Byte)
  | 0, _, _, s => (.ok [], s)
  | fuel + 1, b, n, s =>
    if n = 0 then (.ok [], s)
    else
      let m := min n (32 - b % 32)
      match State.streamPiece x wva k kept b m s with
      | (.error code, t) => (.error code, t)
      | (.ok bs, t) =>
        match State.streamRead x wva k kept fuel (b + m) (n - m) t with
        | (.ok cs, u) => (.ok (bs ++ cs), u)
        | (.error code, u) => (.error code, u)

/-- The check of a stream base: RSVD, then RANGE (R268). -/
def State.streamBad (s : State) (wva : Nat) : Option Nat :=
  if wva % 2048 ≠ 0 then some wkRsvd else if !s.callPlace wva then some wkRange else none

/-- The 32-byte atom `a` of a stack's operand buffers as a call sees it: as it has read it, or as it is now (R281). -/
def State.bufAtom (s : State) (k a : Nat) (r : CallRun) : List Byte :=
  match r.atoms.find? (fun e => e.1 == a) with
  | some e => e.2
  | none => s.mem.loadBytes 32 (bufferKey k (32 * a))

/-- The call keeps the atoms of the n bytes from `off` of the operand buffers as it has read them. -/
def State.bufKeep (s : State) (k off n : Nat) (r : CallRun) : CallRun :=
  let new := ((upto ((off + n - 1) / 32 + 1 - off / 32)).map (fun j => off / 32 + j)).filter (fun a => !r.atoms.any (fun e => e.1 == a))
  { r with atoms := r.atoms ++ new.map (fun a => (a, s.bufAtom k a r)) }

/-- n bytes of the operand buffers, at most 32, as a number. -/
def State.bufCode (s : State) (k off n : Nat) (r : CallRun) : Nat :=
  natOfBytes (((s.bufAtom k (off / 32) r ++ s.bufAtom k (off / 32 + 1) r).drop (off % 32)).take n)

/-- The same, read by the call. -/
def State.bufTake (s : State) (k off n : Nat) (r : CallRun) : Nat × CallRun := (s.bufCode k off n r, s.bufKeep k off n r)

/-- A place in row r of core c (R273). -/
def destAddr (c r off : Nat) : CAddr := globalAddr (rowVa 0x3FF c r + off)

/-! ### GEMV, GEMV-ACCUMULATE and GEMV-BATCH (R274) -/

/-- The arguments of a GEMV (R273). -/
structure GemvArgs where
  wva : Nat
  fmt : Nat
  n   : Nat
  rpitch : Nat
  koff : Nat
  ks  : Nat
  boff : Nat
  nv  : Nat
  vstride : Nat
  dcore : Nat
  drow : Nat
  dvstride : Nat
  acc : Bool
  deriving DecidableEq, Repr

def gemvArgs (ws : List Word) : GemvArgs :=
  { wva := callField ws 1 0 57, fmt := callField ws 1 57 4, n := callField ws 2 0 17, rpitch := callField ws 2 32 32
    koff := callField ws 3 0 32, ks := callField ws 3 32 32, boff := callField ws 4 0 16, nv := callField ws 4 16 3 + 1
    vstride := callField ws 4 32 16, dcore := callField ws 5 0 8, drow := callField ws 5 8 12, dvstride := callField ws 5 20 12
    acc := callEntry ws == 1 }

/-- The checks of a GEMV before any access (R268, R273, R274). -/
def State.gemvCheck (s : State) (ws : List Word) : Option Nat :=
  let a := gemvArgs ws
  if callField ws 1 61 3 != 0 || callField ws 2 17 15 != 0 || callField ws 4 19 13 != 0 || callField ws 4 48 16 != 0
      || callField ws 5 32 32 != 0 || a.fmt == 0 || decide (7 < a.fmt)
      || (callEntry ws != 2 && (a.nv != 1 || a.vstride != 0 || a.dvstride != 0)) then some wkRsvd
  else
    match s.streamBad a.wva with
    | some code => some code
    | none =>
      if a.n == 0 || decide (65536 < a.n) || a.ks == 0 || a.ks % 64 != 0 || a.rpitch % (if a.fmt = 3 then 2048 else 64) != 0
          || (a.rpitch == 0 && decide (1 < a.n)) || decide (65536 < a.boff + (a.nv - 1) * a.vstride + 2 * (a.koff + a.ks))
          || decide (4095 < a.drow + (a.nv - 1) * a.dvstride + (a.n - 1) / 64) then some wkRange
      else if a.boff % 2 ≠ 0 ∨ a.vstride % 2 ≠ 0 then some wkAlign
      else none

/-- The group sums of weights and vector elements added to acc, one rounding each (R63, R274). -/
def dotGroups (acc : Nat) (wv : Nat → Val) (xv : Nat → Val) (groups : Nat) : Nat :=
  (upto groups).foldl (fun (a : Nat) g =>
    accGroup a (groupCode (signedSum ((upto 16).map (fun i => (xv (16 * g + i)).mul (wv (16 * g + i))))))) acc

/-- The bytes of row n of the share, from its first. -/
def GemvArgs.read (a : GemvArgs) (x : Work) (k : Nat) (kept : List (Nat × List Byte)) (n : Nat) : Nat → Nat → State → Wk (List Byte) :=
  fun off len q => State.streamRead x a.wva k kept (len + 1) (n * a.rpitch + off) len q

/-- The decoded weights of rows n of the share, in order. -/
def State.gemvWeights (x : Work) (a : GemvArgs) (k : Nat) (kept : List (Nat × List Byte)) : List Nat → State → Wk (List (List Nat))
  | [], s => (.ok [], s)
  | n :: ns, s =>
    let d := decodeStream (a.read x k kept n) a.fmt (2 ^ 60) (a.ks / 64) 0 (a.ks / 64) s
    match d.stop with
    | some code => (.error code, d.state)
    | none =>
      match State.gemvWeights x a k kept ns d.state with
      | (.ok cs, t) => (.ok (d.groups.flatten :: cs), t)
      | (.error code, t) => (.error code, t)

/-- The stream byte after the last that row n of the share reads. -/
def State.gemvRowEnd (s : State) (x : Work) (a : GemvArgs) (k : Nat) (kept : List (Nat × List Byte)) (n : Nat) : Nat :=
  n * a.rpitch + streamSpan (a.read x k kept n) a.fmt (a.ks / 64) 0 (a.ks / 64) s

/-- The atoms that rows i to i + m − 1 have read and that a later row reads again, since a row is longer than RPITCH: a call reads an
atom once (R281). -/
def State.gemvKeep (s : State) (x : Work) (a : GemvArgs) (k i m : Nat) (kept : List (Nat × List Byte)) : List (Nat × List Byte) :=
  let from_ := (i + m) * a.rpitch / 32
  let last := (upto m).foldl (fun (e : Nat) j => max e (s.gemvRowEnd x a k kept (i + j))) 0
  let old := kept.filter (fun e => decide (from_ ≤ e.1))
  old ++ (((upto ((last + 31) / 32 - from_)).map (fun j => from_ + j)).filter (fun b => !old.any (fun e => e.1 == b))).filterMap (fun b =>
    match (s.workRead x (globalAddr (streamVa a.wva k (32 * b))) 32).1 with
    | .ok bs => some (b, bs)
    | .error _ => none)

/-- Byte of the operand buffers where element KOFF of vector v lies (R274). -/
def GemvArgs.vector (a : GemvArgs) (v : Nat) : Nat := a.boff + v * a.vstride + 2 * a.koff

/-- The output code of vector v for a row of weights, from its prior code. -/
def State.gemvLane (s : State) (a : GemvArgs) (k v : Nat) (r : CallRun) (codes : List Nat) (prior : Nat) : Nat :=
  dotGroups prior (fun j => elemVal a.fmt (codes.getD j 0))
    (fun j => Fmt.bf16.decode (s.bufCode k (a.vector v + 2 * j) 2 r)) (a.ks / 16)

/-- The destination line of outputs 16i to 16i + 15 of vector v, or what of them is below N (R273, R274). The weights are read for vector
0, and kept where other vectors use them again; each atom of a vector is read once (R281). -/
def State.gemvLine (x : Work) (a : GemvArgs) (k v i : Nat) (r : CallRun) (s : State) : Wk CallRun :=
  let m := min 16 (a.n - 16 * i)
  let dst := destAddr a.dcore (a.drow + v * a.dvstride + i / 4) (64 * (i % 4))
  let prior : Wk (List Byte) := if a.acc then s.workRead x dst (4 * m) else (.ok (List.replicate (4 * m) 0), s)
  match prior with
  | (.error code, t) => (.error code, t)
  | (.ok bs, t) =>
    let kept := (r.groups.drop (16 * i)).take m
    let got : Wk (List (List Nat)) :=
      if v = 0 then State.gemvWeights x a k r.kept ((upto m).map (fun j => 16 * i + j)) t else (.ok kept, t)
    match got with
    | (.error code, u) => (.error code, u)
    | (.ok ws, u) =>
      let r1 := u.bufKeep k (a.vector v) (2 * a.ks) { r with kept := if v = 0 then u.gemvKeep x a k (16 * i) m r.kept else r.kept }
      let cs := (upto m).map (fun j => u.gemvLane a k v r1 (ws.getD j []) (natOfBytes ((bs.drop (4 * j)).take 4)))
      match u.workWrite x dst (cs.flatMap (fun c => bytesOfNat 4 c)) with
      | (.error code, w) => (.error code, w)
      | (.ok _, w) => (.ok (if v = 0 ∧ 1 < a.nv then { r1 with groups := r.groups ++ ws } else r1), w)

/-- Destination lines of one vector. -/
def GemvArgs.lines (a : GemvArgs) : Nat := (a.n + 15) / 16

/-- UNITS once `d` lines are written, vector by vector: the rows written of the last vector begun (R274). -/
def GemvArgs.units (a : GemvArgs) (d : Nat) : Nat :=
  if d % a.lines = 0 then (if d = 0 then 0 else a.n) else 16 * (d % a.lines)

/-- UNITS where a line of the vector at hand has failed: a vector with no line yet counts none. -/
def GemvArgs.unitsAt (a : GemvArgs) (d : Nat) : Nat := if d = a.lines * a.nv then a.n else 16 * (d % a.lines)

/-- The work of entries 0 to 2 (R274): the lines of all vectors in order. -/
def State.runGemv (s : State) (k : Nat) (ws : List Word) (x : Work) (r : CallRun) : CallEnd :=
  match s.gemvCheck ws with
  | some code => CallEnd.early s code
  | none =>
    let a := gemvArgs ws
    let e := callUnits (fun j => State.gemvLine x a k (j / a.lines) (j % a.lines)) ((upto (a.lines * a.nv)).drop r.done) r s
    e.count (if e.status = wkHold then a.units else a.unitsAt)

/-! ### AXPY (R275) and REDUCE-MAX (R278) -/

/-- The indices below n of the 4-byte elements from va that lie on stack k (R74). -/
def State.onStack (s : State) (va k n : Nat) : List Nat :=
  (upto n).filter (fun i => s.callPlace (va + 4 * i) && (va + 4 * i) / 256 % 8 == k)

/-- The code that AXPY writes for y_i: Rnd(a · x[i] + y_i) (R275). -/
def axpyCode (a x y : Nat) : Nat :=
  rnd .fp32 0 true (Val.add 0 ((Fmt.fp32.decode a).mul (Fmt.bf16.decode x)) (Fmt.fp32.decode y))

/-- How many of the elements that follow lie in the atom of the first. -/
def atomRun (va : Nat) : List Nat → Nat
  | [] => 0
  | i :: is => 1 + (is.takeWhile (fun j => (va + 4 * j) / 32 == (va + 4 * i) / 32)).length

/-- The elements of an atom are read at once (R281), or the first alone where not all of them may be read. -/
def State.axpyRead (s : State) (x : Work) (yva i m : Nat) : Wk (List Byte) :=
  match s.workRead x (globalAddr (yva + 4 * i)) (4 * m) with
  | (.ok bs, t) => (.ok bs, t)
  | (.error code, t) => if code = wkHold ∨ m = 1 then (.error code, t) else s.workRead x (globalAddr (yva + 4 * i)) 4

/-- AXPY stops where it stands. -/
def CallRun.stopAt (r : CallRun) (s t : State) (code : Nat) : CallEnd :=
  { status := code, run := r, state := if code = wkHold then s.keepRequests t else s }

/-- The elements of AXPY in order: each is read, and then written; a step may pause between the two (R275). -/
def State.axpyFrom (x : Work) (k yva a boff : Nat) : List Nat → CallRun → State → CallEnd
  | [], r, s => { status := wkDone, run := { r with read := [] }, state := s }
  | i :: is, r, s =>
    if s.paused then r.stopAt s s wkHold
    else
      let got : Wk (List Byte) := if r.read = [] then s.axpyRead x yva i (atomRun yva (i :: is)) else (.ok r.read, s)
      match got with
      | (.error code, t) => r.stopAt s t code
      | (.ok bs, t) =>
        let u := if r.read = [] then t.spend else t
        let r1 := { r with read := bs }
        if u.paused then r1.stopAt u u wkHold
        else
          let xi := u.bufTake k (boff + 2 * i) 2 r1
          match u.workWrite x (globalAddr (yva + 4 * i)) (bytesOfNat 4 (axpyCode a xi.1 (natOfBytes (bs.take 4)))) with
          | (.error code, v) => r1.stopAt u v code
          | (.ok _, v) =>
            State.axpyFrom x k yva a boff is { xi.2 with done := r.done + 1, units := r.done + 1, read := bs.drop 4 } v.spend

/-- The work of entry 3. -/
def State.runAxpy (s : State) (k : Nat) (ws : List Word) (x : Work) (r : CallRun) : CallEnd :=
  let yva := callField ws 1 0 57
  let n := callField ws 2 0 32
  let boff := callField ws 4 0 16
  if callField ws 1 57 7 != 0 || wordAt ws 3 != 0 || callField ws 4 16 48 != 0 || wordAt ws 5 != 0 then CallEnd.early s wkRsvd
  else if !s.callPlace yva || decide (65536 < boff + 2 * n) then CallEnd.early s wkRange
  else if yva % 4 ≠ 0 then CallEnd.early s wkAlign
  else State.axpyFrom x k yva (callField ws 2 32 32) boff ((s.onStack yva k n).drop r.done) r s

/-- The next element of the scan. -/
def Largest.see (m : Largest) (i code : Nat) : Largest :=
  let v := Fmt.fp32.decode code
  if m.nan then m
  else if v.isNan then { code := 0x7FC00000, index := word i, nan := true }
  else if m.index = 0xFFFFFFFFFFFFFFFF#64 ∨ (Fmt.fp32.decode m.code).below v then { code := code, index := word i, nan := false }
  else m

/-- Elements read in order: how far the scan has come. A step pauses only where an atom begins, so that each is read at once (R281). -/
def State.scanMax (x : Work) (va : Nat) : List Nat → CallRun → State → CallEnd
  | [], r, s => { status := wkDone, run := r, state := s }
  | i :: is, r, s =>
    if s.paused && (va + 4 * i) % 32 == 0 then { status := wkHold, run := r, state := s }
    else
      match s.workRead x (globalAddr (va + 4 * i)) 4 with
      | (.error code, t) => { status := code, run := r, state := if code = wkHold then s.keepRequests t else s }
      | (.ok bs, t) =>
        State.scanMax x va is { r with done := r.done + 1, units := r.done + 1, scan := r.scan.see i (natOfBytes bs) } t.spend

/-- The work of entry 6. -/
def State.runReduceMax (s : State) (k : Nat) (ws : List Word) (x : Work) (r : CallRun) : CallEnd :=
  let va := callField ws 1 0 57
  if callField ws 1 57 7 != 0 || callField ws 2 32 32 != 0 || wordAt ws 3 != 0 || wordAt ws 4 != 0 || callField ws 5 20 44 != 0 then
    CallEnd.early s wkRsvd
  else if !s.callPlace va then CallEnd.early s wkRange
  else if va % 4 ≠ 0 then CallEnd.early s wkAlign
  else
    let e := State.scanMax x va ((s.onStack va k (callField ws 2 0 32)).drop r.done) r s
    if e.status ≠ wkDone then e
    else
      match e.state.workWrite x (destAddr (callField ws 5 0 8) (callField ws 5 8 12) 0)
          (bytesOfNat 8 e.run.scan.code ++ bytesOfNat 8 e.run.scan.index.toNat) with
      | (.ok _, t) => { e with state := t }
      | (.error code, t) => { e with status := code, state := if code = wkHold then e.state.keepRequests t else e.state }

/-! ### GATHER-ROWS (R276) -/

/-- The granules of a table row that stack k of this device holds (R74) move to the item's bytes. -/
def State.copyGranules (x : Work) (k src dcore dst : Nat) : List Nat → State → Wk Unit
  | [], s => (.ok (), s)
  | b :: bs, s =>
    if (src + 256 * b) / 256 % 8 ≠ k ∨ ¬ s.callPlace (src + 256 * b) then State.copyGranules x k src dcore dst bs s
    else
      match s.workLoad x (globalAddr (src + 256 * b)) 256 with
      | (.error code, t) => (.error code, t)
      | (.ok cs, t) =>
        match t.workStore x (destAddr dcore ((dst + 256 * b) / 256) 0) cs with
        | (.error code, u) => (.error code, u)
        | (.ok _, u) => State.copyGranules x k src dcore dst bs u

/-- The work of entry 4. A table outside REGION 00 of this device lies on no stack, and nothing of it is copied (R276, log 66). -/
def State.runGatherRows (s : State) (k : Nat) (ws : List Word) (x : Work) (r : CallRun) : CallEnd :=
  let tva := callField ws 1 0 57
  let trows := callField ws 2 0 32
  let rpitch := callField ws 2 32 32
  let rbytes := callField ws 3 0 32
  let ni := callField ws 3 32 13
  let boff := callField ws 4 0 16
  let dcore := callField ws 5 0 8
  let dst := 256 * callField ws 5 8 12
  if callField ws 1 57 7 != 0 || callField ws 3 45 19 != 0 || callField ws 4 16 48 != 0 || callField ws 5 20 44 != 0 then
    CallEnd.early s wkRsvd
  else if trows == 0 || rbytes == 0 || ni == 0 || decide (4096 < ni) || decide (2 ^ 20 < dst + ni * rbytes)
      || decide (65536 < boff + 4 * ni) then CallEnd.early s wkRange
  else if tva % 256 ≠ 0 ∨ rpitch % 256 ≠ 0 ∨ rbytes % 256 ≠ 0 ∨ boff % 4 ≠ 0 then CallEnd.early s wkAlign
  else
    (callUnits (fun i q (u : State) =>
      let t := u.bufTake k (boff + 4 * i) 4 q
      if trows ≤ t.1 then (.error wkRange, u)
      else
        match State.copyGranules x k (tva + t.1 * rpitch) dcore (dst + i * rbytes) (upto (rbytes / 256)) u with
        | (.ok _, v) => (.ok t.2, v)
        | (.error code, v) => (.error code, v)) ((upto ni).drop r.done) r s).count (fun d => d)

/-! ### EXPAND (R277) -/

/-- The work of entry 5. -/
def State.runExpand (s : State) (k : Nat) (ws : List Word) (x : Work) (r : CallRun) : CallEnd :=
  let wva := callField ws 1 0 57
  let fmt := callField ws 1 57 4
  let nelem := callField ws 2 0 32
  let slen := callField ws 2 32 32
  let dva := callField ws 3 0 57
  if callField ws 1 61 3 != 0 || callField ws 3 57 7 != 0 || wordAt ws 4 != 0 || wordAt ws 5 != 0 || fmt == 0
      || decide (7 < fmt) then CallEnd.early s wkRsvd
  else
    match s.streamBad wva with
    | some code => CallEnd.early s code
    | none =>
      if nelem = 0 ∨ nelem % 64 ≠ 0 ∨ ¬ s.callPlace dva then CallEnd.early s wkRange
      else if dva % elemBytes fmt ≠ 0 then CallEnd.early s wkAlign
      else
        let need := nelem / 64
        let d : Decoded :=
          if r.groups = [] ∧ r.short = none then
            decodeStream (fun off len (q : State) => State.streamRead x wva k [] (len + 1) off len q) fmt slen need 0 need s
          else { groups := r.groups, stop := r.short, state := s }
        if d.stop = some wkHold then { status := wkHold, run := r, state := s.keepRequests d.state }
        else
          let e := callUnits (fun g q (u : State) =>
            match u.workStore x (globalAddr (dva + g * 64 * elemBytes fmt)) (codeBytes fmt (d.groups.getD g [])) with
            | (.ok _, v) => (.ok q, v)
            | (.error code, v) => (.error code, v)) ((upto d.groups.length).drop r.done) { r with groups := d.groups, short := d.stop } d.state
          (if e.status = wkDone then { e with status := d.stop.getD wkDone } else e).count (fun d => d)

end Sys2Proof.Machine
end

