-- ==== Sys2Proof/Machine/Micro.lean ====
section
/-! DEFINITION. The micro-words of a heartwood bank that was loaded in service (R284, R285): the call sequencer, and the data paths of
the engines as far as R285 gives them (log 21). -/

namespace Sys2Proof.Machine

/-! ### A bank and its words (R284, R285) -/

/-- The start address of an entry in the active bank; 0xFF is no start (R279, R284). -/
def State.entryStart (s : State) (k e : Nat) : Nat :=
  if 64 ≤ e then 0xFF else (s.mem.read (bankKey k (s.stack k).actbank (4096 + e))).toNat

/-- The active bank holds an image that was loaded in service. -/
def StackSt.loaded (x : StackSt) : Bool := if x.actbank then x.imageB else x.imageA

/-- A field of a micro-word. -/
def microField (w lo n : Nat) : Nat := w / 2 ^ lo % 2 ^ n

/-- Micro-word `a` of the active bank of a stack. -/
def State.microWord (s : State) (k a : Nat) : Nat := s.mem.loadNat 16 (bankKey k (s.stack k).actbank (16 * (a % 256)))

def microSeq (w : Nat) : Nat := microField w 8 2
def microDram (w : Nat) : Nat := microField w 14 4
def microExp (w : Nat) : Nat := microField w 27 4
def microMac (w : Nat) : Nat := microField w 31 4
def microBuf (w : Nat) : Nat := microField w 35 4
def microOut (w : Nat) : Nat := microField w 39 4
/-- IMM16. -/
def microImm (w : Nat) : Nat := microField w 51 16
/-- ERRCODE. -/
def microErr (w : Nat) : Nat := microField w 67 6

/-- A reserved value in a field, used or not, or a reserved bit that is not zero (R285). -/
def microBad (w : Nat) : Bool :=
  decide (7 < microField w 10 4) || decide (5 < microDram w) || decide (4 < microField w 18 4)
    || decide (19 < microField w 22 5) || decide (6 < microExp w) || decide (6 < microMac w)
    || decide (3 < microBuf w) || decide (4 < microOut w) || decide (3 < microField w 43 4)
    || decide (3 < microField w 47 4) || decide (2 ^ 74 ≤ w)

/-- The first bit and the width of the fields of word j of a call, in the order in which R273 lists them for an entry; the whole word for
an entry that R273 does not define (R285). -/
def argFields (entry j : Nat) : List (Nat × Nat) :=
  if entry ≤ 2 then
    if j = 1 then [(0, 57), (57, 4)] else if j = 2 then [(0, 17), (32, 32)] else if j = 3 then [(0, 32), (32, 32)]
    else if j = 4 then [(0, 16), (16, 3), (32, 16)] else [(0, 8), (8, 12), (20, 12)]
  else if entry = 3 then
    if j = 1 then [(0, 57)] else if j = 2 then [(0, 32), (32, 32)] else if j = 4 then [(0, 16)] else []
  else if entry = 4 then
    if j = 1 then [(0, 57)] else if j = 2 then [(0, 32), (32, 32)] else if j = 3 then [(0, 32), (32, 13)]
    else if j = 4 then [(0, 16)] else [(0, 8), (8, 12)]
  else if entry = 5 then
    if j = 1 then [(0, 57), (57, 4)] else if j = 2 then [(0, 32), (32, 32)] else if j = 3 then [(0, 57)] else []
  else if entry = 6 then
    if j = 1 then [(0, 57)] else if j = 2 then [(0, 32)] else if j = 5 then [(0, 8), (8, 12)] else []
  else [(0, 64)]

/-- The argument that ARG selects; a field beyond the word's fields reads as zero (R285). -/
def microArg (ws : List Word) (w : Nat) : Nat :=
  let arg := microField w 22 5
  match (argFields (callEntry ws) (arg / 4 + 1))[arg % 4]? with
  | some f => callField ws (arg / 4 + 1) f.1 f.2
  | none => 0

/-! ### The call sequencer (R285) -/

/-- The micro-words of a call begin at the start of its entry; the registers that no micro-word loads hold free values (log 21). -/
def State.microStart (s : State) (k : Nat) (ws : List Word) (seed : Nat) : MicroSt :=
  { pc := s.entryStart k (callEntry ws), turn := 0, seed := seed, cnt0 := Config.engineAddr seed 3 % 2 ^ 16
    cnt1 := Config.engineAddr seed 4 % 2 ^ 16, addr := Config.engineAddr seed 0 % 2 ^ 57, ptr := Config.engineAddr seed 2 % 2 ^ 16, took := 0
    burst := 0, col := [], xs := [], bytes := [], held := some [], prods := none, acc := Config.engineAddr seed 5 % 2 ^ 32
    flag := Config.engineFlag seed (2 ^ 65), line := [], lines := 0 }

/-- A free value of the word at hand. -/
def MicroSt.free (m : MicroSt) (n : Nat) : Nat := Config.engineData m.seed (128 * m.turn + n)

/-- A counter after a CNT operation, modulo 2^16 (log 21). -/
def microCount (ws : List Word) (w op n : Nat) : Nat :=
  if op = 1 then microImm w
  else if op = 2 then microArg ws w % 2 ^ 16
  else if op = 3 then (n + 2 ^ 16 - 1) % 2 ^ 16
  else n

/-- COND holds. -/
def MicroSt.holds (m : MicroSt) (abort : Bool) (w : Nat) : Bool :=
  let cond := microField w 10 4
  let given := Config.engineFlag m.seed m.turn
  if cond = 0 then true
  else if cond = 1 then m.cnt0 == 0
  else if cond = 2 then m.cnt1 == 0
  else if cond = 3 then m.burst == 0 || given
  else if cond = 4 then abort
  else if cond = 5 then (m.held.map (fun h => decide (16 ≤ h.length))).getD given
  else if cond = 6 then m.flag
  else given

/-- The next word. -/
def State.microNext (s : State) (k : Nat) (q : Call) (m : MicroSt) (w : Nat) : Nat :=
  if microSeq w = 2 then s.entryStart k (callEntry q.words)
  else if microSeq w = 0 ∨ m.holds q.abort w = true then microField w 0 8
  else (m.pc + 1) % 256

/-! ### The address generator and the operand buffers -/

/-- The first byte, after an address, of a granule of stack k (R268). -/
def nextGranule (k a : Nat) : Nat :=
  let g := a / 2048 * 2048 + 256 * k
  if a < g then g else g + 2048

/-- AGEN. -/
def MicroSt.agen (m : MicroSt) (k : Nat) (ws : List Word) (w : Nat) : Nat :=
  let op := microField w 18 4
  (if op = 1 then microArg ws w
    else if op = 2 then m.addr + Config.engineAddr m.seed 1
    else if op = 3 then m.addr + microImm w
    else if op = 4 then nextGranule k m.addr
    else m.addr) % 2 ^ 57

/-- Bytes that BUF reads at the pointer: 16 BF16 codes, or an index. -/
def microTakes (w : Nat) : Nat := if microBuf w = 1 then 32 else if microBuf w = 3 then 4 else 0

/-- BUF: a read at the pointer, or the pointer moved past what was read last. -/
def State.microBuffer (s : State) (k : Nat) (m : MicroSt) (w : Nat) (r : CallRun) : MicroSt × CallRun :=
  if microBuf w = 2 then ({ m with ptr := (m.ptr + m.took) % 2 ^ 16 }, r)
  else if microTakes w = 0 then (m, r)
  else
    let got := s.bufTake k m.ptr (microTakes w) r
    ({ m with took := microTakes w
              xs := if microBuf w = 1 then (upto 16).map (fun i => got.1 / 2 ^ (16 * i) % 2 ^ 16) else m.xs }, got.2)

/-! ### The expander and the accumulators -/

/-- The whole groups of a format in bytes, decoded, with the bytes that are left. -/
def takeGroups (fmt : Nat) : Nat → List Byte → List Nat × List Byte
  | 0, bs => ([], bs)
  | fuel + 1, bs =>
    if bs.length < groupBytes fmt then ([], bs)
    else
      let rest := takeGroups fmt fuel (bs.drop (groupBytes fmt))
      (groupCodes fmt (bs.take (groupBytes fmt)) ++ rest.1, rest.2)

/-- EXP: the expander takes the column that was read last, and decodes what groups it holds whole (R269 to R271). What it makes of an EC4
block, and of 8-bit codes, whose format the word does not say, is a free value. -/
def MicroSt.expand (m : MicroSt) (w : Nat) : MicroSt :=
  let fmt := if microExp w = 1 then 1 else if microExp w = 2 then 2 else 7
  if microExp w = 0 then m
  else if 3 ≤ microExp w ∧ microExp w ≤ 5 then { m with bytes := [], held := none }
  else
    let got := takeGroups fmt (m.bytes.length + m.col.length) (m.bytes ++ m.col)
    { m with bytes := got.2, held := m.held.map (fun h => h ++ got.1) }

/-- MAC 1: the products of 16 elements of the expander and the 16 codes of the buffers; a free value where not all are known. -/
def MicroSt.product (m : MicroSt) : MicroSt :=
  match m.held, m.prods with
  | some h, some ps =>
    if 16 ≤ h.length ∧ m.xs.length = 16 then { m with held := some (h.drop 16), prods := some (ps ++ (h.take 16).zip m.xs) }
    else { m with prods := none }
  | _, _ => { m with prods := none }

/-- The group sum rounded and added to the accumulator (R274). -/
def MicroSt.rounded (m : MicroSt) : Nat :=
  match m.prods with
  | some ps => accGroup m.acc (groupCode (signedSum (ps.map (fun e => (Fmt.bf16.decode e.2).mul (Fmt.bf16.decode e.1)))))
  | none => m.free 0 % 2 ^ 32

/-- MAC, with the destination lane that MAC 4 has read. -/
def MicroSt.mac (m : MicroSt) (w lane : Nat) : MicroSt :=
  if microMac w = 1 then m.product
  else if microMac w = 2 then { m with acc := m.rounded, prods := some [] }
  else if microMac w = 3 then { m with acc := 0, prods := some [] }
  else if microMac w = 4 then { m with acc := lane }
  else if microMac w = 5 then { m with acc := m.free 1 % 2 ^ 32, flag := Config.engineFlag m.seed (m.turn + 2 ^ 64) }
  else if microMac w = 6 then { m with acc := m.free 2 % 2 ^ 32 }
  else m

/-! ### Accesses -/

/-- A row and a byte of it where a line of results goes: those of R273 in the order of R274 for an entry with a destination. -/
def MicroSt.destLine (m : MicroSt) (ws : List Word) : Option (Nat × Nat × Nat) :=
  let a := gemvArgs ws
  let e := callEntry ws
  let v := if e ≤ 2 then m.lines / a.lines else 0
  let i := if e ≤ 2 then m.lines % a.lines else m.lines
  if e ≤ 2 ∨ e = 4 ∨ e = 6 then some (a.dcore, a.drow + v * (if e ≤ 2 then a.dvstride else 0) + i / 4, 64 * (i % 4)) else none

/-- The place of the line: it, or, for an entry that R273 gives no destination, the line that the address generator names. -/
def MicroSt.lineAddr (m : MicroSt) (ws : List Word) : CAddr :=
  match m.destLine ws with
  | some d => destAddr d.1 d.2.1 d.2.2
  | none => globalAddr (m.addr / 64 * 64)

/-- The line lies past row 4095 (R273). -/
def MicroSt.lineBeyond (m : MicroSt) (ws : List Word) : Bool := (m.destLine ws).any (fun d => decide (4095 < d.2.1))

/-- An access of a line of results. -/
def State.microLine {α : Type} (s : State) (m : MicroSt) (ws : List Word) (f : CAddr → State → Wk α) : Wk α :=
  if m.lineBeyond ws then (.error wkRange, s) else f (m.lineAddr ws) s

/-- DRAM 2 and 3: a 32-byte column is read, or written with bytes that are a free value. One outside REGION 00 of this device, and one to
read that another stack holds, is a bound outside its limits. -/
def State.microColumn (s : State) (x : Work) (k : Nat) (m : MicroSt) (w : Nat) : Wk (List Byte) :=
  let a := m.addr / 32 * 32
  if microDram w = 2 then
    if !s.callPlace a || a / 256 % 8 != k then (.error wkRange, s) else s.workRead x (globalAddr a) 32
  else if microDram w = 3 then
    if !s.callPlace a then (.error wkRange, s)
    else
      match s.workWrite x (globalAddr a) (bytesOfNat 32 (m.free 3)) with
      | (.ok _, t) => (.ok m.col, t)
      | (.error code, t) => (.error code, t)
  else (.ok m.col, s)

/-- MAC 4: the accumulator's lane of the destination. -/
def State.microLane (s : State) (x : Work) (m : MicroSt) (ws : List Word) (w : Nat) : Wk Nat :=
  if microMac w ≠ 4 then (.ok 0, s)
  else
    match s.microLine m ws (fun a t => t.workRead x (a.plus (4 * (m.line.length % 16))) 4) with
    | (.ok bs, t) => (.ok (natOfBytes bs), t)
    | (.error code, t) => (.error code, t)

/-- OUT: a lane is staged, the staged line is written, the status word is written, or the target is signalled; a party that only looks
makes none of the last two. -/
def State.microResult (s : State) (x : Work) (k : Nat) (q : Call) (m : MicroSt) (w : Nat) (r : CallRun) : Wk (MicroSt × CallRun) :=
  if microOut w = 1 then (.ok ({ m with line := (m.line ++ [m.acc]).take 16 }, r), s)
  else if microOut w = 2 then
    match s.microLine m q.words (fun a t => t.workWrite x a (m.line.flatMap (fun c => bytesOfNat 4 c))) with
    | (.ok _, t) => (.ok ({ m with line := [], lines := m.lines + 1 }, r), t)
    | (.error code, t) => (.error code, t)
  else if x.mark then (.ok (m, r), s)
  else if microOut w = 3 && callStates q && r.stated.isNone then
    match s.writeStatus k q (microErr w) r.units with
    | (.ok _, t) => (.ok (m, { r with stated := some true }), t)
    | (.error code, t) =>
      if code = wkHold then (.error code, t) else (.ok (m, { r with stated := some false }), t.lostCall q (wkCause code))
  else if microOut w = 4 then
    (.ok (m, { r with told := true }), s.callSignal { q with run := r } (r.stated == some true))
  else (.ok (m, r), s)

/-- Columns of the burst after a word: at most 32, and none where the row is opened, closed or yielded (R280). -/
def MicroSt.burstAfter (m : MicroSt) (w : Nat) : Nat :=
  if microDram w = 2 ∨ microDram w = 3 then (m.burst + 1) % 32 else if microDram w = 0 then m.burst else 0

/-- A micro-word: each of its operations takes the registers as the word finds them, and what it forms is there for the next word. -/
def State.microDo (s : State) (x : Work) (k : Nat) (q : Call) (m : MicroSt) (w : Nat) (r : CallRun) : Wk CallRun :=
  match s.microColumn x k m w with
  | (.error code, t) => (.error code, t)
  | (.ok col, t) =>
    match t.microLane x m q.words w with
    | (.error code, u) => (.error code, u)
    | (.ok lane, u) =>
      match u.microResult x k q m w r with
      | (.error code, v) => (.error code, v)
      | (.ok (m1, r1), v) =>
        let b := v.microBuffer k m w r1
        let c := m.mac w lane
        let e := { m with held := c.held }.expand w
        (.ok { b.2 with
          done := r.done + 1
          units := r.units + microField w 73 1
          micro := some { m with
            pc := s.microNext k q m w, turn := m.turn + 1, cnt0 := microCount q.words w (microField w 43 4) m.cnt0
            cnt1 := microCount q.words w (microField w 47 4) m.cnt1, addr := m.agen k q.words w, ptr := b.1.ptr, took := b.1.took
            burst := m.burstAfter w, col := if microExp w = 0 then col else if microDram w = 2 then col else [], xs := b.1.xs, bytes := e.bytes
            held := e.held, prods := c.prods, acc := c.acc, flag := c.flag, line := m1.line, lines := m1.lines } }, v)

/-- The micro-words of a call from where they stand. A part ends between two words; a stopped call goes no further than the end of its
burst (R283); and the work of a word that is held is done again from the registers as they stood. -/
def State.microRun (x : Work) (k : Nat) (q : Call) : Nat → MicroSt → CallRun → State → CallEnd
  | 0, _, r, s => { status := wkHold, run := r, state := s }
  | fuel + 1, m, r, s =>
    let w := s.microWord k m.pc
    if s.paused || (q.abort && m.burst == 0) then { status := wkHold, run := r, state := s }
    else if microBad w then { status := wkRsvd, run := r, state := s }
    else
      match s.microDo x k q m w r with
      | (.error code, t) => { status := if q.abort && code == wkLease then wkAborted else code, run := r, state := if code = wkHold then s.keepRequests t else s }
      | (.ok r1, t) =>
        if microSeq w = 3 then { status := microErr w, run := r1, state := t.spend }
        else State.microRun x k q fuel (r1.micro.getD m) r1 t.spend

/-- The micro-words that one step runs at most; a call that has not ended by then goes on in a later step. -/
abbrev microFuel : Nat := 2 ^ 32

/-- The work of a call whose entry micro-words define, from where it stands. -/
def State.runMicro (s : State) (k : Nat) (q : Call) (x : Work) (r : CallRun) : CallEnd :=
  match r.micro with
  | some m => State.microRun x k q microFuel m r s
  | none =>
    let m := s.microStart k q.words s.draws
    if s.paused then { status := wkHold, run := r, state := s }
    else State.microRun x k q microFuel m { r with micro := some m } s.draw

end Sys2Proof.Machine
end

