-- ==== Sys2Proof/Machine/Banks.lean ====
section
/-! DEFINITION. Bank engines: the calls of a stack in order (R265, R266), their entries under the active heartwood bank (R273 to R279,
R285), aborts (R283) and bank swaps (R284). -/

namespace Sys2Proof.Machine

/-! ### A call as a whole -/

/-- The checks and the work of an entry of the standard heartwood (R273), from where it stands. -/
def State.runEntry (s : State) (k : Nat) (ws : List Word) (x : Work) (r : CallRun) : CallEnd :=
  let e := callEntry ws
  if e ≤ 2 then s.runGemv k ws x r
  else if e = 3 then s.runAxpy k ws x r
  else if e = 4 then s.runGatherRows k ws x r
  else if e = 5 then s.runExpand k ws x r
  else s.runReduceMax k ws x r

/-- The work of a call is what micro-words say: its bank was loaded in service, or its entry is none of the standard heartwood (R285). -/
def State.microCall (s : State) (k : Nat) (q : Call) : Bool := (s.stack k).loaded || decide (6 < callEntry q.words)

/-- The work of a call under the active bank, from where it stands. -/
def State.runWork (s : State) (k : Nat) (q : Call) (x : Work) (r : CallRun) : CallEnd :=
  if s.microCall k q then s.runMicro k q x r else s.runEntry k q.words x r

/-- The work of a call before its first unit; its free values are those with which it has begun. -/
def State.workStart (s : State) (k : Nat) (q : Call) : CallRun :=
  { CallRun.start with micro := q.run.micro.map (fun (m : MicroSt) => s.microStart k q.words m.seed) }

/-- A call touches a range under revocation (R91, R283). -/
def State.callTouches (s : State) (k : Nat) (q : Call) : Bool :=
  (s.looked.runWork k q (callWork k q.id true) (s.workStart k q)).status == wkTouch

/-- A head call that ends without an entry's work: a check of R266 fails, or its entry has no start. -/
def State.headEnds (s : State) (k : Nat) (q : Call) : Option CallEnd :=
  if q.abort then none
  else if callBad q.words then some (CallEnd.early s wkRsvd)
  else if s.entryStart k (callEntry q.words) = 0xFF then some (CallEnd.early s wkNoentry)
  else none

/-- Calls at the head that end without an entry's work do so, one after another (R266, R279). A swap that waits comes first
(R284). -/
def State.settle (k : Nat) : Nat → State → State
  | 0, s => s
  | fuel + 1, s =>
    match (s.stack k).calls with
    | [] => s
    | q :: rest =>
      if (s.stack k).pendswap || q.ended.isSome then s
      else
        match s.headEnds k q with
        | none => s
        | some e =>
          let t := State.keepCall k q e
          if (t.stack k).calls.length = rest.length then t.settle k fuel else t

/-- Every such call that stands at the head now. -/
def State.settleAll (s : State) (k : Nat) : State := s.settle k ((s.stack k).calls.length)

/-- The head call goes on: its status word is on its way, or its work ends or stands (R265, R266). A call that was stored during a
revocation that it touches, which may have ended since, ends with LEASE before any access (R283). -/
def State.runCall (s : State) (k : Nat) (q : Call) : State :=
  match q.ended with
  | some e => s.endCall k q e.1 e.2
  | none =>
    if q.run == CallRun.start && (q.late || s.callTouches k q) then s.endCall k q wkLease 0
    else State.keepCall k q (s.runWork k q (callWork k q.id false) q.run)

/-- A call is in the middle of a burst of its micro-words (R280). -/
def CallRun.inBurst (r : CallRun) : Bool := r.micro.any (fun m => m.burst != 0)

/-- The calls of a gang that a revocation would end with LEASE are marked, before it ends (R283). -/
def State.markLate (s : State) (p g : Nat) : State :=
  (upto numStacks).foldl (fun (t : State) k =>
    let x := t.stack k
    t.setStack k { x with calls := x.calls.map (fun (q : Call) =>
      if q.id.inGang p g && !q.abort && q.run == CallRun.start && q.ended.isNone && s.callTouches k q then { q with late := true } else q) }) s

/-- A step of a stack for the entries that `mine` picks, and for those that only micro-words define: the head call runs, unless it is
stopped or, before it begins, a swap waits; then the calls behind it that need no work end (R265, R266, R284). -/
def State.callStep (s : State) (k : Nat) (mine : Nat → Bool) : State :=
  match (s.stack k).calls with
  | [] => s
  | q :: _ =>
    if q.ended.isNone && (((s.stack k).pendswap && q.run == CallRun.start) || (q.abort && !q.run.inBurst)) then s
    else
      match if q.ended.isSome then none else s.headEnds k q with
      | some _ => s.settleAll k
      | none => if mine (callEntry q.words) || decide (6 < callEntry q.words) then (s.runCall k q).settleAll k else s

/-- R265: a call enters its stack's queue; a head that needs no work ends at once. -/
def execCallRecordStore (k : Nat) (s : State) : Result :=
  match s.stores[k]? with
  | none => .next s
  | some q => .next ((s.acceptStore k (fun c _ => c == .call)).settleAll (vaUnit q.va - 0x180))

/-- R274, entry 0. -/
def execGemv (stack : Nat) (s : State) : Result := .next (s.callStep stack (fun e => e == 0))
/-- R274, entry 1. -/
def execGemvAccumulate (stack : Nat) (s : State) : Result := .next (s.callStep stack (fun e => e == 1))
/-- R274, entry 2. -/
def execGemvBatch (stack : Nat) (s : State) : Result := .next (s.callStep stack (fun e => e == 2))
/-- R275. -/
def execAxpy (stack : Nat) (s : State) : Result := .next (s.callStep stack (fun e => e == 3))
/-- R276. -/
def execGatherRows (stack : Nat) (s : State) : Result := .next (s.callStep stack (fun e => e == 4))
/-- R277. -/
def execExpandEntry (stack : Nat) (s : State) : Result := .next (s.callStep stack (fun e => e == 5))
/-- R278. -/
def execReduceMax (stack : Nat) (s : State) : Result := .next (s.callStep stack (fun e => e == 6))

/-- R283, R371: a call that was stopped ends with ABORTED, at the burst boundary where it stands; a queued one before any access. -/
def execCallAbort (stack : Nat) (s : State) : Result :=
  match (s.stack stack).calls with
  | [] => .next s
  | q :: _ =>
    if q.abort && q.ended.isNone then .next ((s.endCall stack q wkAborted q.run.units).settleAll stack) else .next s

/-- The head call of a stack has begun. -/
def StackSt.midCall (x : StackSt) : Bool :=
  match x.calls with
  | [] => false
  | q :: _ => q.run != CallRun.start || q.ended.isSome

/-- R284: a swap that waits takes effect between calls. -/
def execHeartwoodSwap (stack : Nat) (s : State) : Result :=
  let x := s.stack stack
  if x.pendswap && !x.midCall then .next ((s.setStack stack { x with actbank := !x.actbank, pendswap := false }).settleAll stack) else .next s

end Sys2Proof.Machine
end

