-- ==== Sys2Proof/Machine/Messaging.lean ====
section
/-! DEFINITION. `send`, `post` and `sig` at issue (R315, R316, R318, R322). -/

namespace Sys2Proof.Machine

/-- `ea` of `send`, `post` and `sig`: register B and the offset (R315). -/
def State.eaMessage (s : State) (o : Operands) (off : Word) : Word := s.reg o.rb + off

/-- A `send` to REGION 10: a core array or grove scratch, or a call or dispatch header window for the plain form of eight
registers without an offset (R315). -/
def unitTarget (va n : Nat) (window : Bool) : Bool :=
  let u := vaUnit va
  let x := vaOff va
  (u < 0x100 && x + n ≤ 2 ^ 20) || (0x100 ≤ u && u < 0x140)
    || (window && ((0x180 ≤ u && u ≤ 0x187 && x == 0) || (u == 0x1F0 && x % 0x1000 == 0 && x < 0x10000)))

/-- An address that a `send` can target (R315). -/
def sendTarget (va n : Nat) (window : Bool) : Bool :=
  match vaRegion va with
  | 0 => true
  | 1 => true
  | 2 => unitTarget va n window
  | _ => false

/-- The row of a clasp address is a row of a core's array (R315). -/
def claspTarget (va : Nat) : Bool := vaRegion va == 2 && vaUnit va < 0x100 && vaOff va < 2 ^ 20

/-- The sender's checks of a message to one address (R315; their order, log 24). -/
def State.messageRefusal (s : State) (ea : Word) (target : Bool) (align : Nat) (n : Nat) (data : Bool) : Option Cause :=
  let va := ea.toNat
  if 2 ^ 57 ≤ va ∨ s.unreachable va then some .xlate
  else if !target then some .prot
  else if va % align ≠ 0 then some .align
  else if data && vaRegion va != 2 && !s.leaseGrants s.me va n true then some .lease
  else none

/-- The count word of R308 for n arrivals at a slot-0 address; this device is named by its own id. -/
def State.countWord (s : State) (va n : Nat) : Word :=
  let node := if s.isLocal va then s.fabric.nodeId else vaNode va
  word (node + vaUnit va % 256 * 2 ^ 10 + vaOff va / 256 % 4096 * 2 ^ 18 + n * 2 ^ 30)

/-- R315, R316: the data as one WRITE message, the count word behind it, and the tag of the acknowledgement. -/
def execSend (o : Operands) (s : State) : Result :=
  let ea := s.eaMessage o o.extOffset
  let n := 8 * o.count
  let window := o.count == 8 && !o.fn3 && o.extOffset == 0
  match s.messageRefusal ea (sendTarget ea.toNat n window) (multiAlign o.count) n true with
  | some k => .next (s.trap o k 0)
  | none =>
    match (if o.fn3 then s.messageRefusal (s.reg o.rc) (claspTarget (s.reg o.rc).toNat) 256 1 false else none) with
    | some k => .next (s.trap o k 0)
    | none =>
      .next (((s.headerRelease ea.toNat).sendMsg 1 (s.messageClass ea.toNat (o.fnAt 5 2)) ea.toNat 0 (s.regBytes o.ra o.count)
        (if o.fn3 then some (s.countWord (s.reg o.rc).toNat (o.immAt 0 12)) else none) o.fn4 (o.immAt 12 6)).advance o)

/-- R315, R318: eight registers for the mailbox ring K of a core. After a system-scope `fence` from W to E the fire of its count is an
acquire at system scope (R359, R360). -/
def execPost (o : Operands) (s : State) : Result :=
  let ea := s.eaMessage o o.imm
  match s.messageRefusal ea (vaRegion ea.toNat == 2 && vaUnit ea.toNat < 0x100 && vaOff ea.toNat < 256) 256 64 false with
  | some k => .next (s.trap o k 0)
  | none =>
    .next ((s.sendMsg 6 (o.fnAt 0 2) ea.toNat 0 (s.regBytes o.ra 8) none false 0
      ((s.core s.curCore).fenced.contains s.curRow)).advance o)

/-- R315, R322: one COUNT message. After a system-scope `fence` from W to E its fire is an acquire at system scope (R360). -/
def execSig (o : Operands) (s : State) : Result :=
  let ea := s.eaMessage o o.extOffset
  match s.messageRefusal ea (claspTarget ea.toNat) 256 1 false with
  | some k => .next (s.trap o k 0)
  | none =>
    .next ((s.sendMsg 5 (o.fnAt 0 2) ea.toNat 0 [] (some (s.countWord ea.toNat (o.immAt 0 12))) false 0
      ((s.core s.curCore).fenced.contains s.curRow)).advance o)

end Sys2Proof.Machine
end

