-- ==== Sys2Proof/Machine/Placement.lean ====
section
/-! DEFINITION. Residency tables, launch pools, `launch` and placement (R286 to R302). -/

namespace Sys2Proof.Machine

/-! ### Residency tables (R290, R292) -/

/-- Entry e of a core's table, or of its grove's. -/
def State.resEntry (s : State) (c e : Nat) (g : Bool) : ResEntry :=
  if g then (s.grove (groveOf c)).gres.get ⟨0, 0⟩ e else (s.core c).res.get ⟨0, 0⟩ e

/-- Entry e of a core's table, or of its grove's, written. -/
def State.setResEntry (s : State) (c e : Nat) (g : Bool) (x : ResEntry) : State :=
  if g then s.setGrove (groveOf c) { s.grove (groveOf c) with gres := (s.grove (groveOf c)).gres.set ⟨0, 0⟩ e x }
  else s.setCore c { s.core c with res := (s.core c).res.set ⟨0, 0⟩ e x }

/-- An entry written by `respub` or PUBLISH: VALID, its rows and its range; VERSION advances. -/
def ResEntry.publish (x : ResEntry) (first last : Nat) (range : Word) : ResEntry :=
  { w0 := putBits (putBits (putBits (putBits x.w0 0 1 1) 8 12 first) 20 12 last) 32 32 (bitsAt x.w0 32 32 + 1), w1 := range }

/-- VALID cleared; VERSION advances. -/
def ResEntry.drop (x : ResEntry) : ResEntry :=
  { x with w0 := putBits (putBit x.w0 0 false) 32 32 (bitsAt x.w0 32 32 + 1) }

/-- Entry number and `.g` of a residency form (R292). -/
def Operands.entry (o : Operands) : Nat := o.immAt 0 6
def Operands.ofGrove (o : Operands) : Bool := o.immAt 6 1 == 1
/-- The entry lies beyond a core's table. -/
def Operands.entryBad (o : Operands) : Bool := 32 ≤ o.immAt 0 6 && o.immAt 6 1 == 0

/-- The operands of `respub` break R292. -/
def respubBad (base size rows : Word) (g : Bool) : Bool :=
  bitsAt base 0 12 != 0 || bitsAt base 57 7 != 0 || size == 0 || decide (16383 < size.toNat) || bitsAt rows 24 40 != 0
    || (g && rows != 0) || decide (2 ^ 57 < base.toNat + 4096 * size.toNat)

/-- R292. -/
def execRespub (o : Operands) (s : State) : Result :=
  let base := s.reg o.ra
  let size := s.reg o.rb
  let rows := s.reg o.rc
  if Operands.entryBad o || respubBad base size rows (Operands.ofGrove o) then .next (s.trap o .ill 0)
  else
    .next ((s.setResEntry s.curCore (Operands.entry o) (Operands.ofGrove o)
      ((s.resEntry s.curCore (Operands.entry o) (Operands.ofGrove o)).publish (bitsAt rows 0 12) (bitsAt rows 12 12)
        (word (size.toNat * 2 ^ 45 + bitsAt base 12 45)))).advance o)

/-- R292. -/
def execResdrop (o : Operands) (s : State) : Result :=
  if Operands.entryBad o then .next (s.trap o .ill 0)
  else .next ((s.setResEntry s.curCore (Operands.entry o) (Operands.ofGrove o)
    (s.resEntry s.curCore (Operands.entry o) (Operands.ofGrove o)).drop).advance o)

/-- R292: the entry is read when the instruction issues (R293). -/
def execResq (o : Operands) (s : State) : Result :=
  let a := s.reg o.ra
  if bitsAt a 8 56 ≠ 0 ∨ Operands.entryBad o then .next (s.trap o .ill 0)
  else if !s.inPart (s.partid s.curCore) a.toNat then .next (s.trap o .prot 0)
  else
    let e := s.resEntry a.toNat (Operands.entry o) (Operands.ofGrove o)
    .next (s.pend (.resq o) o (.value o.rd (if o.immAt 7 1 = 1 then e.w1 else e.w0)) false)

/-! ### Launch pools (R294, R295) -/

/-- Free rows of a pool. -/
def CoreSt.freeRows (x : CoreSt) : List Nat := (x.pool.filter (fun q => !q.lent)).map (fun q => q.row)

/-- The operand wb of `rowpool` breaks R295. -/
def rowpoolBad (a b : Word) : Bool :=
  bitsAt a 8 56 != 0 || bitsAt b 21 11 != 0 || bitsAt b 33 31 != 0 || bitsAt b 12 9 == 0 || decide (256 < bitsAt b 12 9)

/-- `rowpool` on rows of a core: the status and the state. -/
def State.changePool (s : State) (c first count : Nat) (remove : Bool) : Nat × State :=
  let x := s.core c
  let rows := (upto count).map (fun i => first + i)
  if !s.inPart (s.partid s.curCore) c ∨ 4096 < first + count then (3, s)
  else if remove then
    (0, s.setCore c { x with
      pool := (x.pool.filter (fun q => q.lent || !rows.contains q.row)).map (fun (q : PoolRow) =>
        if rows.contains q.row then { q with leaving := true } else q) })
  else if rows.any (fun r => !s.isContext c r || s.rowState c r != stIdle) then (2, s)
  else
    let fresh := rows.filter (fun r => !x.pool.any (fun q => q.row == r))
    if 256 < x.pool.length + fresh.length then (1, s)
    else (0, s.setCore c { x with
      pool := x.pool ++ fresh.map (fun r => { row := r, lent := false, leaving := false }) })

/-- R295. -/
def execRowpool (o : Operands) (s : State) : Result :=
  let a := s.reg o.ra
  let b := s.reg o.rb
  if rowpoolBad a b then .next (s.trap o .ill 0)
  else
    let r := s.changePool a.toNat (bitsAt b 0 12) (bitsAt b 12 9) (bitAt b 32)
    let x := r.2.core a.toNat
    .next (r.2.finish o (word (r.1 + x.freeRows.length * 2 ^ 32 + x.pool.length * 2 ^ 48)))

/-! ### `launch` (R297) -/

/-- R297: the header is read and enters the partition's queue; the result follows from its placement. -/
def execLaunch (o : Operands) (s : State) : Result :=
  let ea := s.eaOf o
  let p := s.partid s.curCore
  if ea.toNat % 64 ≠ 0 then .next (s.trap o .align 0)
  else
    match s.rowRefusal s.me ea false with
    | some k => .next (s.trap o k 0)
    | none =>
      if s.poisoned (arrayKey s.curCore ea.toNat) 64 then .next (s.trap o .memerr 0)
      else if 64 ≤ (s.part p).hdrs.length then .next s
      else
        let h : Hdr := {
          words := wordsOf (s.shownBytes s.curCore ea.toNat 64), id := s.me
          path := .launch s.curCore s.curRow }
        .next ((s.setPart p { s.part p with hdrs := (s.part p).hdrs ++ [h] }).pend (.launch o) o (.launch o.rd none) false)

/-! ### Tiles -/

/-- A tile, or a residency range, as first byte and length (R287). -/
def State.tileOf (s : State) (w : Word) : Nat × Nat := (s.canonVa (bitsAt w 0 45 * 4096), bitsAt w 45 14 * 4096)

/-- A tile descriptor breaks R287. -/
def tileBad (w : Word) : Bool :=
  bitsAt w 59 5 != 0 || (bitsAt w 45 14 == 0 && bitsAt w 0 45 != 0)
    || decide (2 ^ 57 < bitsAt w 0 45 * 4096 + bitsAt w 45 14 * 4096)

/-- A number goes to its place in an ascending list, once. -/
def insertNum (x : Nat) : List Nat → List Nat
  | [] => [x]
  | y :: ys => if x < y then x :: y :: ys else if x = y then y :: ys else y :: insertNum x ys

/-- Byte x lies in one of the ranges. -/
def inRanges (x : Nat) (rs : List (Nat × Nat)) : Bool := rs.any (fun r => decide (r.1 ≤ x) && decide (x < r.1 + r.2))

/-- The bytes that lie both in a range of `us` and in one of `es`, between consecutive end points. -/
def commonIn (us es : List (Nat × Nat)) : List Nat → Nat
  | a :: b :: rest => (if inRanges a us && inRanges a es then b - a else 0) + commonIn us es (b :: rest)
  | _ => 0

/-- Bytes of the union of `us` covered by the union of `es`. -/
def common (us es : List (Nat × Nat)) : Nat :=
  commonIn us es ((us ++ es).foldl (fun (l : List Nat) r => insertNum r.1 (insertNum (r.1 + r.2) l)) [])

/-- The ranges of the valid entries of a table. -/
def State.validRanges (s : State) (m : Sparse ResEntry) : List (Nat × Nat) :=
  (m.items.filter (fun e => bitAt e.2.w0 0)).map (fun e => s.tileOf e.2.w1)

/-! ### Placement (R296, R298, R299) -/

/-- The tiles of a header whose SIZE is not 0. -/
def State.tiles (s : State) (ws : List Word) : List (Nat × Nat) :=
  (((upto 4).map (fun i => wordAt ws (4 + i))).filter (fun w => bitsAt w 45 14 != 0)).map s.tileOf

/-- The header breaks R286 or R287, or pins a core outside the partition. -/
def State.headerBad (s : State) (p : Nat) (ws : List Word) : Bool :=
  let w := wordAt ws 0
  bitAt w 35 || bitsAt w 50 6 != 0 || (upto 4).any (fun i => tileBad (wordAt ws (4 + i)))
    || (if bitAt w 48 then !s.inPart p (bitsAt w 56 8) else bitsAt w 56 8 != 0)

/-- A user launcher names another gang, or a class before its own. -/
def State.launcherBad (s : State) (h : Hdr) : Bool :=
  let w := wordAt h.words 0
  !h.id.mode && (bitsAt w 36 12 != h.id.gang || decide (bitsAt w 32 3 < ctlClass (s.ctl h.id.core h.id.row)))

/-- A tile is not covered by the gang's lease, or loses a read right to a revocation (R91, R296). -/
def State.tileDenied (s : State) (p g : Nat) (t : Nat × Nat) : Bool :=
  let x := s.gang p g
  let ls := (x.lease.getD []).map (fun l => (l.base, l.bytes))
  let rv := match x.revoking with
    | some v => v.ranges
    | none => []
  common [t] ls != t.2 || rv.any (fun l => !l.wr && overlaps l.base l.bytes t.1 t.2)

/-- `score(c)`. -/
def State.score (s : State) (c : Nat) (us : List (Nat × Nat)) : Nat :=
  2 * common us (s.validRanges (s.core c).res) + common us (s.validRanges (s.grove (groveOf c)).gres)

/-- The better of two cores: the higher score, then fewer READY rows, then the lower index. -/
def State.better (s : State) (us : List (Nat × Nat)) (a b : Nat) : Nat :=
  if s.score a us < s.score b us then b
  else if s.score b us < s.score a us then a
  else if (s.core b).fifo.length < (s.core a).fifo.length then b
  else a

/-- The refusal of a header, or the core and the row for it. -/
def State.place (s : State) (p : Nat) (h : Hdr) : Except Nat (Nat × Nat) × State :=
  let w := wordAt h.words 0
  let g := bitsAt w 36 12
  if s.headerBad p h.words then (.error 3, s)
  else
    match s.descriptor p g with
    | (none, s1) => (.error 4, s1)
    | (some _, s1) =>
      if s1.launcherBad h then (.error 4, s1)
      else if (s1.tiles h.words).any (fun t => s1.tileDenied p g t) then (.error 2, s1)
      else
        let cs := (if bitAt w 48 then [bitsAt w 56 8] else s1.coresOf p).filter (fun c => !(s1.core c).freeRows.isEmpty)
        match cs with
        | [] => (.error 1, s1)
        | c0 :: rest =>
          let us := if bitAt w 49 then [] else s1.tiles h.words
          let c := rest.foldl (fun (a : Nat) b => s1.better us a b) c0
          match (s1.core c).freeRows with
          | [] => (.error 1, s1)
          | r0 :: rs => (.ok (c, rs.foldl Nat.min r0), s1)

/-- A header placed during a swap-out, or while a Function Level Reset stops its partition, joins its gang to it: SWAP, or SUP, is set on
the gang, and the row starts STOPPED (R371, R375, R400). -/
def State.joinStop (s : State) (p g : Nat) : State :=
  let x := s.part p
  if x.swapping || x.flr then
    s.setGang p g { s.gang p g with swap := (s.gang p g).swap || x.swapping, sup := (s.gang p g).sup || x.flr }
  else s

/-- The row that a header starts (R299), lent from its pool and at its FIFO tail, or STOPPED while its gang is stopped. -/
def State.startTask (s : State) (p c r : Nat) (ws : List Word) : State :=
  let w := wordAt ws 0
  let x := s.core c
  let g := bitsAt w 36 12
  let ctl := word (bitsAt w 0 32 + stIdle * 2 ^ 32 + bitsAt w 32 3 * 2 ^ 36 + g * 2 ^ 44)
  let slots := [ctl, 0, 0, 0, wordAt ws 1, wordAt ws 2, wordAt ws 3, wordAt ws 4, wordAt ws 5, wordAt ws 6, wordAt ws 7]
    ++ List.replicate 21 0
  let s1 := s.setCore c { x with
    pool := x.pool.map (fun (q : PoolRow) => if q.row == r then { q with lent := true } else q) }
  let s2 := ({ s1 with mem := s1.mem.storeBytes (rowKey c r 0) (bytesOfWords slots) }.cleanse (rowKey c r 0) 256).joinStop p g
  if (s2.gang p g).stopped then (s2.quicken p g).setRowState c r stStopped else s2.makeReady c r

/-- The result of a pending `launch` of a row becomes known (R297). -/
def State.answerLaunch (s : State) (c r : Nat) (v : Word) : State :=
  s.modLatch c r (fun l => { l with
    pending := l.pending.map (fun (q : Pending) => match q.op with
      | .launch d none => { q with op := .launch d (some v) }
      | _ => q) })

/-- PATH of R298. -/
def HdrPath.code : HdrPath → Nat
  | .launch _ _ => 0
  | .window => 1
  | .fabric _ => 2

/-- The record of a refused header (R298). -/
def State.refusedRecord (s : State) (h : Hdr) (code : Nat) : List Word :=
  let node := match h.path with
    | .fabric n => n
    | .window => s.fabric.nodeId
    | .launch _ _ => s.fabric.nodeId
  [word (6 + code * 2 ^ 8 + h.path.code * 2 ^ 16 + node * 2 ^ 18), wordAt h.words 0, s.time, word h.id.origin]
    ++ (upto 4).map (fun i => wordAt h.words (4 + i))

/-- A header is refused (R298). -/
def State.refuseHeader (s : State) (p : Nat) (h : Hdr) (code : Nat) : State :=
  match h.path with
  | .launch c r => s.answerLaunch c r (word code)
  | .window | .fabric _ =>
    (s.setPart p { s.part p with refused := ((s.part p).refused + 1) % 65536 }).postRecord p (s.refusedRecord h code)

/-- A header is placed (R296, R297). One that came over the fabric starts its row with an acquire at system scope (R80, R301, R360). -/
def State.acceptHeader (s : State) (p c r : Nat) (h : Hdr) : State :=
  let s1 := s.startTask p c r h.words
  match h.path with
  | .launch c0 r0 => s1.answerLaunch c0 r0 (word (c * 2 ^ 16 + r * 2 ^ 24))
  | .window => s1
  | .fabric _ => s1.sysAcquire (groveOf c)

/-- R296: the head of the partition's queue is placed or refused; it waits while its partition is swapped out, and while the
grove of the chosen core sleeps, which it wakes (R349). -/
def execPlacement (part : Nat) (s : State) : Result :=
  match (s.part part).hdrs with
  | [] => .next s
  | h :: rest =>
    if (s.part part).saved.isSome then .next s
    else
      let s1 := s.setPart part { s.part part with hdrs := rest }
      match s1.place part h with
      | (.error code, s2) => .next (s2.refuseHeader part h code)
      | (.ok (c, r), s2) =>
        if s2.asleep (groveOf c) then .next (s.knock (rowVa 0x3FF c r)) else .next (s2.acceptHeader part c r h)

end Sys2Proof.Machine
end

