-- ==== Sys2Proof/Machine/Copy.lean ====
section
/-! DEFINITION. The copy engine: transfer records (R237, R238), LINEAR (R242), TENSOR (R243 to R246), GATHER and SCATTER (R247
to R249), EXPAND (R250), REPL (R251), publication (R252), and the end of a record (R238, R241, R253, R254). -/

namespace Sys2Proof.Machine

/-! ### Fields of a record (R237) -/

def recKind (ws : List Word) : Nat := bitsAt (wordAt ws 0) 0 4
def recOwn (ws : List Word) : Bool := bitAt (wordAt ws 0) 4
def recPublish (ws : List Word) : Bool := bitAt (wordAt ws 0) 5
def recGuard (ws : List Word) : Nat := bitsAt (wordAt ws 0) 6 4
def recNext (ws : List Word) : Word := wordAt ws 1

/-- The completion target (R21). -/
def recTarget (c : Nat) (ws : List Word) : Option Target :=
  targetOf (bitsAt (wordAt ws 0) 10 2) c (bitsAt (wordAt ws 0) 12 6) (bitsAt (wordAt ws 7) 0 57)

/-- CKIND, CTAG, CLASP or NEXT breaks R237; these alone are checked of a record that its guard discards (R238). -/
def recEndsBad (ws : List Word) : Bool :=
  targetBad (bitsAt (wordAt ws 0) 10 2) (bitsAt (wordAt ws 0) 12 6) (bitsAt (wordAt ws 7) 0 57)
    || copyMalformed (recNext ws) || bitsAt (recNext ws) 0 6 != 0

/-- A defined KIND of a transfer record. -/
def recKindOk (k : Nat) : Bool := (1 ≤ k && k ≤ 4) || k == 6 || k == 7

/-- PUBLISH stands on a record that may carry it, with a SIZE (R252); without it word 6 is zero. -/
def recPublishBad (ws : List Word) : Bool :=
  let k := recKind ws
  if recPublish ws then
    !((k == 1 && bitAt (wordAt ws 3) 63) || (k == 2 && !bitAt (wordAt ws 3) 0) || k == 3 || k == 6)
      || bitsAt (wordAt ws 6) 5 14 == 0
  else wordAt ws 6 != 0

/-- The checks of words 0, 1, 6 and 7: RSVD (R237, R252). -/
def recBad (ws : List Word) : Bool :=
  !recKindOk (recKind ws) || bitsAt (wordAt ws 0) 18 6 != 0 || bitsAt (wordAt ws 7) 57 7 != 0 || recEndsBad ws || recPublishBad ws

/-! ### Records of work -/

/-- How the work of a record stands, with what it has read ahead, and the first and last destination rows for its residency
entry. -/
structure Moved where
  ended : Ended
  ahead : List Word
  first : Nat
  last  : Nat
  deriving DecidableEq, Repr

/-- A record that stops before it moves anything. -/
def Moved.none0 (s : State) (code : Nat) : Moved := { ended := Ended.at0 s code, ahead := [], first := 0, last := 0 }

/-- What a record reads ahead of its units, once: its bytes from `read`, unless they are there already (R243). -/
def State.readAhead (s : State) (ahead : List Word) (read : State → Wk (List Byte)) : Wk (List Word) :=
  if ahead.isEmpty then
    match read s with
    | (.error code, t) => (.error code, t)
    | (.ok bs, t) => (.ok (wordsOf bs), t)
  else (.ok ahead, s)

/-- A row-space address. -/
def rowAddr (off : Nat) : CAddr := { rs := true, off := off }

/-! ### LINEAR (R242) -/

/-- The two byte ranges overlap in one space (R242). -/
def State.sameSpace (s : State) (a b : CAddr) (n : Nat) : Bool :=
  a.rs == b.rs && (if a.rs then overlaps a.off n b.off n else overlaps (s.canonVa a.off) n (s.canonVa b.off) n)

/-- n bytes move. -/
def State.moveBytes (s : State) (x : Work) (src dst : CAddr) (n : Nat) : Wk Unit :=
  match s.workLoad x src n with
  | (.error code, t) => (.error code, t)
  | (.ok bs, t) => t.workStore x dst bs

/-- The pieces of the destination in order; one that does not move whole moves by 8 bytes as far as it can. -/
def State.linearFrom (x : Work) (src dst : CAddr) : List (Nat × Nat) → Nat → State → Ended
  | [], done, s => { units := done, stop := none, state := s }
  | (off, n) :: ps, done, s =>
    if s.paused then { units := done, stop := some wkHold, state := s }
    else
      let k := off - dst.off
      match s.moveBytes x (src.plus k) (dst.plus k) n with
      | (.ok _, t) => State.linearFrom x src dst ps (done + n) t.spend
      | (.error code, t) =>
        if code = wkHold then Ended.stopAt s t done code
        else
          let e := runUnits (fun u (q : State) => q.moveBytes x (src.plus (k + u)) (dst.plus (k + u)) 8) 8
            ((upto (n / 8)).map (fun i => 8 * i)) done s
          match e.stop with
          | none => State.linearFrom x src dst ps e.units e.state
          | some _ => e

/-- A LINEAR record, from byte `done` on. -/
def State.moveLinear (s : State) (x : Work) (ws : List Word) (done : Nat) : Moved :=
  let src := copyAddr (wordAt ws 2)
  let dst := copyAddr (wordAt ws 3)
  let n := bitsAt (wordAt ws 4) 0 32
  if bitsAt (wordAt ws 4) 32 32 != 0 || wordAt ws 5 != 0 || copyMalformed (wordAt ws 2) || copyMalformed (wordAt ws 3) then
    Moved.none0 s wkRsvd
  else if src.off % 8 ≠ 0 ∨ dst.off % 8 ≠ 0 then Moved.none0 s wkAlign
  else if n = 0 ∨ n % 8 ≠ 0 ∨ s.sameSpace src dst n then Moved.none0 s wkRange
  else {
    ended := State.linearFrom x src dst (pieces (dst.off + done) (n - done + 1) (n - done)) done s
    ahead := [], first := dst.off / 256, last := (dst.off + n - 1) / 256 }

/-! ### TENSOR (R243 to R246) -/

/-- A tensor layout record (R244); dimensions that RANK leaves out have extent and size 1. -/
structure Layout where
  width  : Nat
  fill   : Nat
  value  : Nat
  base   : Nat
  ext    : List Nat
  stride : List Nat
  size   : List Nat
  org    : List Int
  drow   : Nat
  bankil : Nat
  lane   : Nat
  planes : Nat
  deriving DecidableEq, Repr

/-- The five dimension numbers. -/
def dims : List Nat := [0, 1, 2, 3, 4]

/-- The window half of dimension d (R244). -/
def layoutHalf (ws : List Word) (d : Nat) : Nat := bitsAt (wordAt ws (7 + d / 2)) (32 * (d % 2)) 32

/-- The RSVD row of the table of R244. -/
def layoutRsvd (ws : List Word) : Bool :=
  let w0 := wordAt ws 0
  let w10 := wordAt ws 10
  let rank := bitsAt w0 4 4
  let elem := bitsAt w0 8 4
  let fill := bitsAt w0 12 4
  bitsAt w0 0 4 != 5 || rank == 0 || decide (5 < rank) || decide (7 < elem) || decide (3 < fill) || decide (5 < bitsAt w10 12 4)
    || bitsAt w0 16 16 != 0 || bitsAt (wordAt ws 1) 57 7 != 0 || bitsAt (wordAt ws 9) 32 32 != 0 || bitsAt w10 24 8 != 0
    || wordAt ws 11 != 0 || (dims.any (fun d => decide (rank ≤ d) && (wordAt ws (2 + d) != 0 || layoutHalf ws d != 0)))
    || (if fill = 1 then decide (2 ^ widthOf elem ≤ bitsAt w0 32 32) else bitsAt w0 32 32 != 0)
    || (decide (rank < 3) && bitsAt w10 32 32 != 0)

/-- The fields of a layout record. -/
def layoutFields (ws : List Word) : Layout :=
  let w0 := wordAt ws 0
  let w10 := wordAt ws 10
  let rank := bitsAt w0 4 4
  let used (d a : Nat) : Nat := if d < rank then a else 1
  { width := widthOf (bitsAt w0 8 4)
    fill := bitsAt w0 12 4
    value := bitsAt w0 32 32
    base := bitsAt (wordAt ws 1) 0 57
    ext := dims.map (fun d => used d (bitsAt (wordAt ws (2 + d)) 0 24))
    stride := dims.map (fun d => bitsAt (wordAt ws (2 + d)) 24 40)
    size := dims.map (fun d => used d (layoutHalf ws d % 4096))
    org := dims.map (fun d => if d < rank then signedNat 20 (layoutHalf ws d / 4096) else 0)
    drow := bitsAt w10 0 12
    bankil := bitsAt w10 12 4
    lane := bitsAt w10 16 8
    planes := bitsAt w10 32 32 }

def Layout.extAt (l : Layout) (d : Nat) : Nat := l.ext.getD d 1
def Layout.sizeAt (l : Layout) (d : Nat) : Nat := l.size.getD d 1
def Layout.orgAt (l : Layout) (d : Nat) : Int := l.org.getD d 0

/-- Lines of the window (R245). -/
def Layout.lines (l : Layout) : Nat := l.sizeAt 1 * l.sizeAt 2 * l.sizeAt 3 * l.sizeAt 4

/-- The element offset of coordinates (R245). -/
def Layout.offset (l : Layout) (xs : List Nat) : Nat := (dims.map (fun d => xs.getD d 0 * l.stride.getD d 0)).sum

/-- The highest coordinate of dimension d that the window reaches inside the tensor. -/
def Layout.top (l : Layout) (d : Nat) : Nat := min (max (l.orgAt d + l.sizeAt d - 1) 0).toNat (l.extAt d - 1)

/-- The window holds an element of the tensor, or FILL 2 reads its edge. -/
def Layout.reaches (l : Layout) : Bool :=
  l.fill == 2 || dims.all (fun d => decide (l.orgAt d < l.extAt d) && decide (0 < l.orgAt d + l.sizeAt d))

/-- Every element of the window lies in the tensor. -/
def Layout.inside (l : Layout) : Bool := dims.all (fun d => decide (0 ≤ l.orgAt d) && decide (l.orgAt d + l.sizeAt d ≤ l.extAt d))

/-- The table of R244 and the check of FILL 3 (R246), in order. -/
def layoutOf (ws : List Word) : Except Nat Layout :=
  let l := layoutFields ws
  if layoutRsvd ws then .error wkRsvd
  else if l.ext.contains 0 || l.size.contains 0 || decide (2048 / l.width < l.lane + l.sizeAt 0) || decide (4095 < l.planes)
      || decide (4096 < l.lines)
      || (l.reaches && decide (2 ^ 57 ≤ l.base + (l.width * l.offset (dims.map l.top) + l.width - 1) / 8)) then .error wkRange
  else if 8 ≤ l.width ∧ l.base % (l.width / 8) ≠ 0 then .error wkAlign
  else if l.fill == 3 && !l.inside then .error wkRange
  else .ok l

/-- The row offset of line j of a plane (R245). -/
def Layout.pos (l : Layout) (j : Nat) : Nat :=
  let st := if l.bankil = 0 then 1 else 2 ^ (l.bankil - 1)
  16 * (j / 16) + j % 16 * st % 16 + j % 16 * st / 16

/-- The row of line ℓ, counted from DROW modulo 4096. -/
def Layout.rowOff (l : Layout) (k : Nat) : Nat := (k / l.sizeAt 1 * l.planes + l.pos (k % l.sizeAt 1)) % 4096

/-- The tensor coordinates of element i0 of line ℓ (R245). -/
def Layout.coords (l : Layout) (k i0 : Nat) : List Int :=
  let p := k / l.sizeAt 1
  [l.orgAt 0 + i0, l.orgAt 1 + (k % l.sizeAt 1 : Nat), l.orgAt 2 + (p % l.sizeAt 2 : Nat),
   l.orgAt 3 + (p / l.sizeAt 2 % l.sizeAt 3 : Nat), l.orgAt 4 + (p / (l.sizeAt 2 * l.sizeAt 3) : Nat)]

/-- In bounds in every dimension. -/
def Layout.inBounds (l : Layout) (xs : List Int) : Bool :=
  dims.all (fun d => decide (0 ≤ xs.getD d 0) && decide (xs.getD d 0 < l.extAt d))

/-- The coordinates moved to the nearest edge (R246). -/
def Layout.clamp (l : Layout) (xs : List Int) : List Nat :=
  dims.map (fun d => min (max (xs.getD d 0) 0).toNat (l.extAt d - 1))

/-- The code of an element of memory (R245). -/
def State.elemRead (s : State) (x : Work) (l : Layout) (xs : List Nat) : Wk Nat :=
  let bit := l.width * l.offset xs
  match s.workRead x (globalAddr (l.base + bit / 8)) ((l.width + 7) / 8) with
  | (.error code, t) => (.error code, t)
  | (.ok bs, t) => (.ok (natOfBytes bs / 2 ^ (bit % 8) % 2 ^ l.width), t)

/-- An element of memory written; a nibble by reading and rewriting its byte (R246). -/
def State.elemWrite (s : State) (x : Work) (l : Layout) (xs : List Nat) (v : Nat) : Wk Unit :=
  let bit := l.width * l.offset xs
  let a := globalAddr (l.base + bit / 8)
  if 8 ≤ l.width then s.workWrite x a (bytesOfNat (l.width / 8) v)
  else
    match s.workRead x a 1 with
    | (.error code, t) => (.error code, t)
    | (.ok bs, t) => t.workWrite x a (bytesOfNat 1 (putBits (word (natOfBytes bs)) (bit % 8) l.width v).toNat)

/-- The codes of the lanes of a line, from its elements and FILL (R246). -/
def State.lineRead (x : Work) (l : Layout) (k : Nat) : List Nat → State → Wk (List Nat)
  | [], s => (.ok [], s)
  | i :: is, s =>
    let xs := l.coords k i
    let r : Wk Nat :=
      if l.inBounds xs ∨ l.fill = 2 then s.elemRead x l (l.clamp xs)
      else (.ok (if l.fill = 1 then l.value else 0), s)
    match r with
    | (.error code, t) => (.error code, t)
    | (.ok v, t) =>
      match State.lineRead x l k is t with
      | (.ok vs, u) => (.ok (v :: vs), u)
      | (.error code, u) => (.error code, u)

/-- The in-bounds elements of a line take the codes of its lanes (R246). -/
def State.lineWrite (x : Work) (l : Layout) (k v : Nat) : List Nat → State → Wk Unit
  | [], s => (.ok (), s)
  | i :: is, s =>
    let xs := l.coords k i
    if l.inBounds xs then
      match s.elemWrite x l (l.clamp xs) (v / 2 ^ (l.width * i) % 2 ^ l.width) with
      | (.error code, t) => (.error code, t)
      | (.ok _, t) => State.lineWrite x l k v is t
    else State.lineWrite x l k v is s

/-- The places in memory of the in-bounds elements of a line. -/
def Layout.places (l : Layout) (k : Nat) (is : List Nat) : List (CAddr × Nat) :=
  (is.filter (fun i => l.inBounds (l.coords k i))).map (fun i =>
    (globalAddr (l.base + l.width * l.offset (l.clamp (l.coords k i)) / 8), (l.width + 7) / 8))

/-- Line ℓ of the window moves; DIR 1 moves it to memory. -/
def State.tensorLine (x : Work) (l : Layout) (toMem : Bool) (k : Nat) (s : State) : Wk Unit :=
  let n := l.sizeAt 0
  let lo := l.width * l.lane
  let b0 := lo / 8
  let len := (lo + l.width * n + 7) / 8 - b0
  let a := rowAddr ((l.drow + l.rowOff k) % 4096 * 256 + b0)
  if toMem then
    match s.workLoad x a len with
    | (.error code, t) => (.error code, t)
    | (.ok bs, t) =>
      match t.unitRefusal x (l.places k (upto n)) with
      | some code => (.error code, t)
      | none => State.lineWrite x l k (natOfBytes bs / 2 ^ (lo % 8)) (upto n) t
  else
    match State.lineRead x l k (upto n) s with
    | (.error code, t) => (.error code, t)
    | (.ok vs, t) =>
      let old := t.mem.loadNat len (arrayKey x.core a.off)
      let hi := lo % 8 + l.width * n
      t.workStore x a (bytesOfNat len (old % 2 ^ (lo % 8) + packLanes l.width vs * 2 ^ (lo % 8) + old / 2 ^ hi * 2 ^ hi))

/-- A TENSOR record, from line `done` on; its layout record is read once (R243). -/
def State.moveTensor (s : State) (x : Work) (ws ahead : List Word) (done : Nat) : Moved :=
  let a := copyAddr (wordAt ws 2)
  if bitsAt (wordAt ws 3) 1 63 != 0 || wordAt ws 4 != 0 || wordAt ws 5 != 0 || copyMalformed (wordAt ws 2) then
    Moved.none0 s wkRsvd
  else if a.off % 32 ≠ 0 then Moved.none0 s wkAlign
  else
    match s.readAhead ahead (fun q => q.workReads x a [(a.off, 32), (a.off + 32, 32), (a.off + 64, 32)]) with
    | (.error code, t) => { ended := Ended.stopAt s t 0 code, ahead := [], first := 0, last := 0 }
    | (.ok lay, t) =>
      match layoutOf lay with
      | .error code => Moved.none0 t code
      | .ok l =>
        let rows := (upto l.lines).map l.rowOff
        { ended := runUnits (State.tensorLine x l (bitAt (wordAt ws 3) 0)) 1 ((upto l.lines).drop done) done t
          ahead := lay
          first := (l.drow + rows.foldl Nat.min 4095) % 4096
          last := (l.drow + rows.foldl Nat.max 0) % 4096 }

/-! ### GATHER and SCATTER (R247 to R249) -/

/-- The fields of a GATHER or SCATTER (R247). -/
structure Items where
  base  : CAddr
  irow  : Nat
  arow  : Nat
  n     : Nat
  pitch : Nat
  isize : Nat
  oobz  : Bool
  mode  : Bool
  cop   : Nat
  bound : Nat
  deriving DecidableEq, Repr

def itemsOf (ws : List Word) : Items :=
  let w3 := wordAt ws 3
  let w4 := wordAt ws 4
  { base := copyAddr (wordAt ws 2), irow := bitsAt w3 0 12, arow := bitsAt w3 12 12, n := bitsAt w3 24 13
    pitch := bitsAt w4 0 32, isize := bitsAt w4 32 9, oobz := bitAt w4 48, mode := bitAt w4 49, cop := bitsAt w4 50 4
    bound := bitsAt (wordAt ws 5) 0 32 }

/-- The checks of R247 before any access; `pitch` must be a multiple of 8 (log 34). -/
def itemsCheck (ws : List Word) (scatter : Bool) : Option Nat :=
  let q := itemsOf ws
  if bitsAt (wordAt ws 3) 37 27 != 0 || bitsAt (wordAt ws 4) 41 7 != 0 || bitsAt (wordAt ws 4) 54 10 != 0
      || bitsAt (wordAt ws 5) 32 32 != 0 || copyMalformed (wordAt ws 2) || (!scatter && q.mode) || (!q.mode && q.cop != 0)
      || decide (5 < q.cop) then some wkRsvd
  else if !([8, 16, 32, 64, 128, 256].contains q.isize) || q.n == 0 || decide (4096 < q.n) || q.pitch % 8 != 0
      || decide (4096 < q.irow + (q.n + 63) / 64) || decide (2 ^ 20 < 256 * q.arow + q.n * q.isize) then some wkRange
  else if q.base.off % 8 ≠ 0 then some wkAlign
  else none

/-- An index is out of bounds. -/
def Items.oob (q : Items) (v : Nat) : Bool := q.bound != 0 && decide (q.bound ≤ v)
/-- The bytes of item i in the item rows. -/
def Items.item (q : Items) (i : Nat) : CAddr := rowAddr (256 * q.arow + i * q.isize)
/-- The place of index v; none when it does not fit its space (R248). -/
def Items.place (q : Items) (v : Nat) : Option CAddr :=
  let off := q.base.off + v * q.pitch
  if (if q.base.rs then 2 ^ 20 else 2 ^ 57) < off + q.isize then none else some { q.base with off := off }

/-- The 32-bit index i of the bytes of the index rows. -/
def indexAt (bs : List Byte) (i : Nat) : Nat := natOfBytes ((bs.drop (4 * i)).take 4)

/-- Item i of a GATHER (R248). -/
def State.gatherItem (x : Work) (q : Items) (ix : List Byte) (i : Nat) (s : State) : Wk Unit :=
  let v := indexAt ix i
  if q.oob v then s.workStore x (q.item i) (List.replicate q.isize 0)
  else
    match q.place v with
    | none => (.error wkRange, s)
    | some a => s.moveBytes x a (q.item i) q.isize

/-- The operation of a COP on one element of an item (R249). -/
def copAtomic (cop y : Nat) : AtomicOp :=
  let op (k o n : Nat) : AtomicOp := { kind := k, op := o, size := n, y := y, z := 0 }
  if cop = 0 then op kFamo 0 4
  else if cop = 1 then op kFamo 3 4
  else if cop = 2 then op kAmo 0 4
  else if cop = 3 then op kAmo 0 8
  else if cop = 4 then op kFamo 2 4
  else op kAmo 5 4

/-- Elements of an item combined into their places, ascending (R249). -/
def State.combineFrom (x : Work) (cop : Nat) (a : CAddr) (bs : List Byte) : List Nat → State → Wk Unit
  | [], s => (.ok (), s)
  | e :: es, s =>
    let w := (copAtomic cop 0).size
    match s.workCombine x (a.plus (w * e)) (copAtomic cop (natOfBytes ((bs.drop (w * e)).take w))) with
    | (.error code, t) => (.error code, t)
    | (.ok _, t) => State.combineFrom x cop a bs es t

/-- Item i of a SCATTER (R248, R249). -/
def State.scatterItem (x : Work) (q : Items) (ix : List Byte) (i : Nat) (s : State) : Wk Unit :=
  let v := indexAt ix i
  if q.oob v then (.ok (), s)
  else
    match q.place v with
    | none => (.error wkRange, s)
    | some a =>
      if !q.mode then s.moveBytes x (q.item i) a q.isize
      else
        match s.workLoad x (q.item i) q.isize with
        | (.error code, t) => (.error code, t)
        | (.ok bs, t) =>
          let w := (copAtomic q.cop 0).size
          let es := upto (q.isize / w)
          match t.unitRefusal x (es.map (fun e => (a.plus (w * e), w))) with
          | some code => (.error code, t)
          | none => State.combineFrom x q.cop a bs es t

/-- A GATHER or a SCATTER record, from item `done` on; its indices are read once. The items of a GATHER that share a 64-byte line of the
array are written together (R258). -/
def State.moveItems (s : State) (x : Work) (ws ahead : List Word) (done : Nat) (scatter : Bool) : Moved :=
  match itemsCheck ws scatter with
  | some code => Moved.none0 s code
  | none =>
    let q := itemsOf ws
    match s.readAhead ahead (fun u => u.workLoad x (rowAddr (256 * q.irow)) (8 * ((q.n + 1) / 2))) with
    | (.error code, t) => { ended := Ended.stopAt s t 0 code, ahead := [], first := 0, last := 0 }
    | (.ok iw, t) =>
      let ix := bytesOfWords iw
      if !q.oobz && (upto q.n).any (fun i => q.oob (indexAt ix i)) then Moved.none0 t wkRange
      else
        let us := (upto q.n).drop done
        { ended :=
            if scatter then runUnits (State.scatterItem x q ix) 1 us done t
            else runGroups (State.gatherItem x q ix) 1 (fun i => i * q.isize % 64 == 0) us (done, t) done t
          ahead := iw
          first := q.arow
          last := q.arow + (q.n * q.isize - 1) / 256 }

/-! ### EXPAND (R250) and REPL (R251) -/

/-- What an EXPAND has decoded, as words: the status that ended its stream, 0 for none, and the codes. -/
def Decoded.keep (d : Decoded) : List Word := word (d.stop.getD 0) :: d.groups.flatten.map word

/-- The same, taken back. -/
def decodedOf (ahead : List Word) (s : State) : Decoded :=
  let codes := (ahead.drop 1).map (fun (w : Word) => w.toNat)
  { groups := (upto (codes.length / 64)).map (fun g => (codes.drop (64 * g)).take 64)
    stop := if wordAt ahead 0 = 0 then none else some (wordAt ahead 0).toNat
    state := s }

/-- An EXPAND record, from group `done` on; its stream is read once. -/
def State.moveExpand (s : State) (x : Work) (ws ahead : List Word) (done : Nat) : Moved :=
  let src := copyAddr (wordAt ws 2)
  let w4 := wordAt ws 4
  let fmt := bitsAt w4 0 4
  let nelem := bitsAt w4 8 24
  let slen := bitsAt w4 32 32
  let drow := bitsAt (wordAt ws 3) 0 12
  if bitsAt (wordAt ws 3) 12 52 != 0 || bitsAt w4 4 4 != 0 || wordAt ws 5 != 0 || copyMalformed (wordAt ws 2) || fmt == 0
      || decide (6 < fmt) then Moved.none0 s wkRsvd
  else if src.rs || vaRegion src.off != 0 || !s.isLocal src.off || nelem == 0 || nelem % 64 != 0 || slen == 0
      || decide (2 ^ 20 < 256 * drow + nelem * elemBytes fmt) then Moved.none0 s wkRange
  else if src.off % 32 ≠ 0 then Moved.none0 s wkAlign
  else
    let need := nelem / 64
    let d := if ahead.isEmpty then decodeStream (fun off n (q : State) => q.workLoad x (src.plus off) n) fmt slen need 0 need s
      else decodedOf ahead s
    if d.stop = some wkHold then { ended := Ended.stopAt s d.state done wkHold, ahead := [], first := 0, last := 0 }
    else
      let e := runUnits (fun g (q : State) =>
        q.workStore x (rowAddr (256 * drow + g * 64 * elemBytes fmt)) (codeBytes fmt (d.groups.getD g []))) 1
        ((upto d.groups.length).drop done) done d.state
      { ended := if e.stop.isNone then { e with stop := d.stop } else e
        ahead := d.keep
        first := drow
        last := drow + (nelem * elemBytes fmt - 1) / 256 }

/-- 8 bytes of a REPL record go to every named stack. -/
def State.replUnit (x : Work) (src : CAddr) (ks : List Nat) (boff u : Nat) (s : State) : Wk Unit :=
  match s.workRead x (src.plus u) 8 with
  | (.error code, t) => (.error code, t)
  | (.ok bs, t) => (.ok (), { t with mem := ks.foldl (fun (m : Memory) k => m.storeBytes (bufferKey k (boff + u)) bs) t.mem })

/-- A REPL record, from byte `done` on, whole 32-byte atoms of the buffers at a time (R251); a BOFF that is no multiple of 8 is RANGE
(log 34). -/
def State.moveRepl (s : State) (x : Work) (ws : List Word) (done : Nat) : Moved :=
  let src := copyAddr (wordAt ws 2)
  let w3 := wordAt ws 3
  let all := bitAt w3 3
  let boff := bitsAt w3 16 16
  let n := bitsAt (wordAt ws 4) 0 17
  if bitsAt w3 4 12 != 0 || bitsAt w3 32 32 != 0 || bitsAt (wordAt ws 4) 17 47 != 0 || wordAt ws 5 != 0
      || copyMalformed (wordAt ws 2) || (all && bitsAt w3 0 3 != 0) then Moved.none0 s wkRsvd
  else if n = 0 ∨ n % 8 ≠ 0 ∨ boff % 8 ≠ 0 ∨ 65536 < boff + n then Moved.none0 s wkRange
  else if src.off % 8 ≠ 0 then Moved.none0 s wkAlign
  else
    { ended := runGroups (State.replUnit x src (if all then upto numStacks else [bitsAt w3 0 3]) boff) 8 (fun u => (boff + u) % 32 == 0)
        (((upto (n / 8)).map (fun i => 8 * i)).drop (done / 8)) (done, s) done s
      ahead := []
      first := 0
      last := 0 }

/-! ### The record as a whole (R238) -/

/-- The checks and the work of a record, of which `done` units are completed. -/
def State.moveRecord (s : State) (x : Work) (ws ahead : List Word) (done : Nat) : Moved :=
  if recBad ws then Moved.none0 s wkRsvd
  else if recKind ws = 1 then s.moveLinear x ws done
  else if recKind ws = 2 then s.moveTensor x ws ahead done
  else if recKind ws = 3 then s.moveItems x ws ahead done false
  else if recKind ws = 4 then s.moveItems x ws ahead done true
  else if recKind ws = 6 then s.moveExpand x ws ahead done
  else s.moveRepl x ws done

/-- The party of channel ch of core c. -/
def State.chanWork (s : State) (c ch : Nat) (mark : Bool) : Work :=
  let q := (s.core c).chan ch
  { core := c, chan := chanMark c ch, id := q.id, inner := q.id.through c, old := q.revoked && !mark, mark := mark }

/-- A record of a channel touches a range under revocation (R91): its own words, what it reads and writes. -/
def State.chanTouches (s0 : State) (c ch : Nat) (ws : List Word) : Bool :=
  let s := s0.looked
  let x := s.chanWork c ch true
  let a := copyAddr ((s.core c).chan ch).current
  s.workRefusal x a 64 false == some wkTouch || s.workRefusal x a 8 true == some wkTouch
    || (s.moveRecord x ws ((s.core c).chan ch).ahead 0).ended.stop == some wkTouch

def State.setChan (s : State) (c ch : Nat) (v : Chan) : State := s.setCore c ((s.core c).setChan ch v)

/-- A channel without a record and without a pending stop. -/
def Chan.rest (x : Chan) : Chan := { x.noRecord with stopReq := false, gangStop := false, revoked := false }

/-- A fault stops the channel at its record and raises an ENGINE trap (R241). -/
def State.chanFault (s : State) (c ch code : Nat) : State :=
  let x := (s.core c).chan ch
  (s.setChan c ch { x.rest with st := 0, err := true, fcode := code, reason := 3 }).engineTrap x.id (ch + 1)

/-- A pending stop takes effect at a record boundary (R236, R253, R254). DESIGN CHOICE (log 95): where several are pending, a stop request
comes before a gang-stop, and that before a revocation, which then stops the channel once the gang has resumed. -/
def Chan.boundary (x : Chan) : Chan :=
  if x.stopReq then { x.rest with st := 0, reason := 4 }
  else if x.gangStop then { x.noRecord with gangStop := false, st := 3 }
  else if x.revoked then { x.rest with st := 0, reason := 5 }
  else x.noRecord

/-- The channel goes on after a record (R238). -/
def Chan.goOn (x : Chan) (next : Word) : Chan :=
  if next = 0 then { x.rest with current := 0, st := 0, reason := 1 } else { x with current := next }.boundary

/-- Word 0 as WriteBack writes it (R238). -/
def backWord (w0 : Word) (st n : Nat) : Word := putBits (putBits (putBit w0 4 false) 24 8 st) 32 32 n

/-- The work of the channel's record has ended, with a status, its units, and whether it faulted: WriteBack, the signal, and what
follows (R238, R241, R257). A write-back on its way to another device leaves the record in progress. -/
def State.endRecord (s : State) (c ch : Nat) (ws : List Word) (e : Nat × Nat × Bool) : State :=
  let q := { (s.core c).chan ch with st := 1, record := ws, begun := true, ended := some e }
  match s.workWrite (s.chanWork c ch false) (copyAddr q.current) (bytesOfNat 8 (backWord (wordAt ws 0) e.1 e.2.1).toNat) with
  | (.error code, t) => if code = wkHold then (s.keepRequests t).setChan c ch q else t.chanFault c ch code
  | (.ok _, t) =>
    let u := t.signalIf q.id (recTarget c ws)
    if e.2.2 then u.chanFault c ch e.1 else u.setChan c ch ({ (u.core c).chan ch with st := 1 }.goOn (recNext ws))

/-- The residency entry of a record with PUBLISH (R252). -/
def State.publishRecord (s : State) (c : Nat) (ws : List Word) (m : Moved) : State :=
  if recPublish ws then
    let w6 := wordAt ws 6
    let e := bitsAt w6 0 5
    s.setResEntry c e false ((s.resEntry c e false).publish m.first m.last (word (bitsAt w6 5 14 * 2 ^ 45 + bitsAt w6 19 45)))
  else s

/-- A record that its guard discards: only its completion fields and NEXT are checked (R238). -/
def State.discardRecord (s : State) (c ch : Nat) (ws : List Word) : State :=
  let q := (s.core c).chan ch
  if recEndsBad ws then s.endRecord c ch ws (wkRsvd, 0, true)
  else (s.setChan c ch { q with discards := (q.discards + 1) % 65536 }).endRecord c ch ws (wkDiscarded, 0, false)

/-- The work of a record in progress goes on: it ends, or waits where it stands (R238). -/
def State.runRecord (s : State) (c ch : Nat) (ws : List Word) : State :=
  let q := (s.core c).chan ch
  let x := s.chanWork c ch false
  let m := s.moveRecord x ws q.ahead q.done
  match m.ended.stop with
  | none => (m.ended.state.publishRecord c ws m).endRecord c ch ws (wkDone, m.ended.units, false)
  | some code =>
    if code = wkHold then
      m.ended.state.setChan c ch { (m.ended.state.core c).chan ch with
        st := 1, record := ws, begun := true, done := m.ended.units, ahead := m.ahead }
    else (m.ended.state.dropAnswers x).endRecord c ch ws (code, m.ended.units, true)

/-- A record that has been read: held on its guard while the slot is PEND, discarded when it is FALSE, else begun; the guard of one
that has begun is not tested again (R238). -/
def State.takeRecord (s : State) (c ch : Nat) (ws : List Word) : State :=
  let q := (s.core c).chan ch
  match q.ended with
  | some e => s.endRecord c ch ws e
  | none =>
    if q.begun then s.runRecord c ch ws
    else if s.guardOf c (recGuard ws) = 0 then s.setChan c ch { q with st := 2, record := ws }
    else if s.guardOf c (recGuard ws) = 2 then s.discardRecord c ch ws
    else s.runRecord c ch ws

/-- A step of a channel for the kinds that `mine` picks; LINEAR's step also takes records without a defined KIND, without OWN,
and those that cannot be read (R238, R241). -/
def State.channelStep (s : State) (c ch : Nat) (mine : Nat → Bool) (first : Bool) : State :=
  let q := (s.core c).chan ch
  if decide (3 < ch) || (q.st != 1 && q.st != 2) then s
  else if q.record ≠ [] then
    if mine (recKind q.record) then s.takeRecord c ch q.record else s
  else if q.stopReq || q.gangStop || q.revoked then (s.dropAnswers (s.chanWork c ch false)).setChan c ch q.boundary
  else
    match s.workRead (s.chanWork c ch false) (copyAddr q.current) 64 with
    | (.error code, t) =>
      if !first then s else if code = wkHold then s.keepRequests t else t.chanFault c ch wkRecord
    | (.ok bs, t) =>
      let ws := wordsOf bs
      if !recOwn ws then (if first then t.setChan c ch { q with st := 0, reason := 2 } else s)
      else if mine (recKind ws) then t.takeRecord c ch ws
      else s

/-- R242. -/
def execLinear (core ch : Nat) (s : State) : Result :=
  .next (s.channelStep core ch (fun k => k == 1 || !recKindOk k) true)
/-- R243 to R246. -/
def execTensor (core ch : Nat) (s : State) : Result := .next (s.channelStep core ch (fun k => k == 2) false)
/-- R247, R248. -/
def execGather (core ch : Nat) (s : State) : Result := .next (s.channelStep core ch (fun k => k == 3) false)
/-- R247 to R249. -/
def execScatter (core ch : Nat) (s : State) : Result := .next (s.channelStep core ch (fun k => k == 4) false)
/-- R250. -/
def execExpand (core ch : Nat) (s : State) : Result := .next (s.channelStep core ch (fun k => k == 6) false)
/-- R251. -/
def execRepl (core ch : Nat) (s : State) : Result := .next (s.channelStep core ch (fun k => k == 7) false)

end Sys2Proof.Machine
end

