-- ==== Sys2Proof/Machine/Fabric.lean ====
section
/-! DEFINITION. The fabric: flits, retry and credits (R303 to R307), messages on the wire (R308), routes (R312, R314),
admission (R313), the delivery of messages (R309, R316 to R326), and the timebase (R328 to R330). -/

namespace Sys2Proof.Machine

/-! ### Flits (R304) -/

/-- A flit's fields (R304). -/
structure Flit where
  payload : List Byte
  seq     : Nat
  ack     : Nat
  vl      : Nat
  fkind   : Nat
  last    : Bool
  cred    : Nat
  credvl  : Nat
  deriving DecidableEq, Repr

/-- FKIND values (R304). -/
abbrev fkIdle : Nat := 0
abbrev fkHead : Nat := 1
abbrev fkBody : Nat := 2
abbrev fkBeacon : Nat := 3
abbrev fkNak : Nat := 4

/-- Bytes 64 to 75 of a flit. -/
def Flit.control (f : Flit) : Nat :=
  f.seq % 4096 + f.ack % 4096 * 2 ^ 12 + f.vl % 4 * 2 ^ 24 + f.fkind % 8 * 2 ^ 26 + f.last.toNat * 2 ^ 29
    + f.cred % 256 * 2 ^ 30 + f.credvl % 4 * 2 ^ 38

/-- The 80 bytes of a flit as a number, its CRC with them. -/
def Flit.encode (f : Flit) : BitVec 640 :=
  let body := (f.payload ++ List.replicate (64 - f.payload.length) 0).take 64 ++ bytesOfNat 12 f.control
  BitVec.ofNat 640 (natOfBytes (body ++ bytesOfNat 4 (crc32 body)))

/-- The fields of 80 bytes; none for a bad CRC, a reserved FKIND or reserved bits that are not zero (R304, R305). -/
def flitOf (bs : List Byte) : Option Flit :=
  let c := natOfBytes ((bs.drop 64).take 12)
  if bs.length ≠ 80 ∨ natOfBytes (bs.drop 76) ≠ crc32 (bs.take 76) ∨ 4 < c / 2 ^ 26 % 8 ∨ 2 ^ 40 ≤ c then none
  else some {
    payload := bs.take 64, seq := c % 4096, ack := c / 2 ^ 12 % 4096, vl := c / 2 ^ 24 % 4, fkind := c / 2 ^ 26 % 8,
    last := c / 2 ^ 29 % 2 == 1, cred := c / 2 ^ 30 % 256, credvl := c / 2 ^ 38 % 4 }

/-- FKIND of a flit held as a number. -/
def flitKind (f : BitVec 640) : Nat := f.toNat / 2 ^ 538 % 8
/-- SEQ of a flit held as a number. -/
def flitSeq (f : BitVec 640) : Nat := f.toNat / 2 ^ 512 % 4096

/-! ### A link end (R305, R306) -/

/-- A numbered flit goes out, its SEQ one above that of the last (R304, log 61), and stays in the replay buffer until an ACK covers it; credits that are owed go with it. -/
def LinkSt.emit (l : LinkSt) (fkind vl : Nat) (last : Bool) (payload : List Byte) : LinkSt :=
  let k := ((upto 4).find? (fun v => l.owed.get 0 v != 0)).getD 0
  let n := Nat.min (l.owed.get 0 k) 255
  let seq := (l.txSeq + 1) % 4096
  let f : Flit := {
    payload := payload, seq := seq, ack := l.rxSeq, vl := vl, fkind := fkind, last := last, cred := n, credvl := k }
  { l with
    txSeq := seq, owed := l.owed.set 0 k (l.owed.get 0 k - n), replay := l.replay ++ [f.encode], resends := l.resends ++ [0],
    sent := l.sent ++ [f.encode] }

/-- A NAK flit goes out: its ACK holds the last SEQ accepted (R305). -/
def LinkSt.sendNak (l : LinkSt) : LinkSt :=
  let f : Flit := {
    payload := [], seq := l.txSeq, ack := l.rxSeq, vl := 0, fkind := fkNak, last := false, cred := 0, credvl := 0 }
  { l with naked := true, sent := l.sent ++ [f.encode] }

/-- A flit that is dropped: the first such is answered with a NAK. -/
def LinkSt.bad (l : LinkSt) : LinkSt := if l.naked then l else l.sendNak

/-- An ACK drops what it covers from the replay buffer. -/
def LinkSt.acked (l : LinkSt) (seq : Nat) : LinkSt :=
  match l.replay.findIdx? (fun f => flitSeq f == seq) with
  | none => l
  | some i => { l with replay := l.replay.drop (i + 1), resends := l.resends.drop (i + 1) }

/-- Credits come back (R306). -/
def LinkSt.credit (l : LinkSt) (vl n : Nat) : LinkSt := { l with credits := l.credits.set 128 vl (l.credits.get 128 vl + n) }

/-- Flits of a class have left the receive buffer (R306). -/
def LinkSt.owe (l : LinkSt) (vl n : Nat) : LinkSt := { l with owed := l.owed.set 0 vl (l.owed.get 0 vl + n) }

/-! ### Messages on the wire (R308) -/

/-- Data bytes by SIZE; none where it is reserved. -/
def sizeBytes (c : Nat) : Option Nat := if c < 4 then some (2 ^ c) else if 8 ≤ c then some (8 * (c - 7)) else none
/-- SIZE of n data bytes. -/
def sizeCode (n : Nat) : Nat := if n ≤ 1 then 0 else if n = 2 then 1 else if n = 4 then 2 else if n = 8 then 3 else n / 8 + 7

/-- Kinds that carry data (R309). -/
def carriesData (mkind : Nat) : Bool := mkind == 1 || mkind == 3 || mkind == 4 || mkind == 6

/-- The bytes of a message. -/
def State.wire (s : State) (m : Msg) : List Byte :=
  let own := m.id.host || m.id.node == 0x3FF
  let w0 := m.mkind % 16 + sizeCode m.data.length % 16 * 2 ^ 4 + (if own then s.fabric.nodeId else m.id.node) * 2 ^ 8
    + (if m.id.host then 0xFF else m.id.core) * 2 ^ 18 + m.id.row * 2 ^ 26 + m.id.part * 2 ^ 38 + m.id.mode.toNat * 2 ^ 42
    + m.id.gang * 2 ^ 43 + m.count.isSome.toNat * 2 ^ 55 + m.ackreq.toNat * 2 ^ 56 + m.acktag * 2 ^ 57
  let data := if carriesData m.mkind then m.data else []
  let tail := match m.count with
    | some w => List.replicate ((8 - data.length % 8) % 8) 0 ++ bytesOfNat 8 w.toNat
    | none => []
  bytesOfWords [word w0, word (m.addr % 2 ^ 57 + m.aux % 128 * 2 ^ 57)] ++ data ++ tail

/-- The payloads of the flits of a message. -/
def chunks : Nat → List Byte → List (List Byte)
  | 0, _ => []
  | fuel + 1, bs => if bs.length ≤ 64 then [bs] else bs.take 64 :: chunks fuel (bs.drop 64)

/-- The flits that a message spans (R308). -/
def State.flitsOf (s : State) (m : Msg) : List (List Byte) := chunks 4 (s.wire m)

/-- The message of a class that has come whole on link l; none for a reserved MKIND or SIZE (R308, R309). Its identity is that
of its header, not yet admitted. -/
def messageOf (l cls : Nat) (seq : Nat) (bs : List Byte) : Option Msg :=
  let ws := wordsOf bs
  let w0 := wordAt ws 0
  let w1 := wordAt ws 1
  let k := bitsAt w0 0 4
  match sizeBytes (bitsAt w0 4 4) with
  | none => none
  | some n =>
    if k = 0 ∨ 7 < k then none
    else
      let n1 := if carriesData k then n else 0
      let data := ((bs.drop 16) ++ List.replicate n1 0).take n1
      some {
        mkind := k, cls := cls, chan := 0, via := l + 1,
        id := {
          host := false, node := bitsAt w0 8 10, core := bitsAt w0 18 8, row := bitsAt w0 26 12, part := bitsAt w0 38 4
          gang := bitsAt w0 43 12, mode := bitAt w0 42, bank := false },
        addr := bitsAt w1 0 57, aux := bitsAt w1 57 7,
        data := if k = 2 then List.replicate n 0 else data,
        count := if k = 5 ∨ bitAt w0 55 then some (wordAt ws ((16 + n1 + 7) / 8)) else none,
        ackreq := bitAt w0 56, acktag := bitsAt w0 57 6, remote := false, inCore := false, sys := false, seq := seq }

/-! ### Routes (R312, R314) -/

/-- No message flit of a link waits for its acknowledgement. -/
def LinkSt.quiet (l : LinkSt) : Bool := l.replay.all (fun f => flitKind f != fkHead && flitKind f != fkBody)

/-- A message that was there before a route change of its node is still queued (R314). -/
def State.queuedFor (s : State) (node seq : Nat) : Bool :=
  s.msgs.any (fun m => !m.remote && vaNode m.addr == node && !s.isLocal m.addr && decide (m.seq < seq))

/-- Route changes take effect once no message for the node is queued or awaits its acknowledgement on the old link (R314, log
36). -/
def State.applyRoutes (s : State) : State :=
  s.fabric.nextRoute.foldl (fun (t : State) e =>
    let old := t.fabric.route.get 31 e.1
    if numLinks ≤ old || ((t.link old).quiet && !t.queuedFor e.1 e.2.2) then
      { t with fabric := { t.fabric with
          route := t.fabric.route.set 31 e.1 e.2.1
          nextRoute := t.fabric.nextRoute.filter (fun (x : Nat × Nat × Nat) => x.1 != e.1) } }
    else t) s

/-- A host write is discarded, counted and told to the host (R312). -/
def State.badConfig (s : State) : State :=
  { s with mgmt := { s.mgmt with cfgErrors := s.mgmt.cfgErrors + 1 } }.alert alertConfig

/-- A LINK field that ROUTE and TPARENT take (R312). -/
def linkValue (v : Word) : Bool := v.toNat < 18 || v.toNat == 31

/-- R312, R314: ROUTE[n] is written, to take effect when the old link has drained for the node. -/
def execRouteWrite (node : Nat) (v : Word) (s : State) : Result :=
  if !linkValue v then .next s.badConfig
  else
    .next ((State.bump { s with fabric := { s.fabric with
      nextRoute := s.fabric.nextRoute.filter (fun (x : Nat × Nat × Nat) => x.1 != node) ++ [(node, v.toNat, s.seq)] } }).applyRoutes)

/-! ### Sending a message on its link (R306, R312) -/

/-- A message of this device, as against one that came on a link. -/
def Msg.own (m : Msg) : Bool := m.via == 0

/-- The core of this device that a message is for: the one that its address names, or for an answer the one that asked. -/
def State.coreFor (s : State) (m : Msg) : Option Nat :=
  if !s.isLocal m.addr then none
  else if m.mkind = 3 ∨ m.mkind = 7 then (if m.id.core < numCores then some m.id.core else none)
  else if vaRegion m.addr = 2 ∧ vaUnit m.addr < numCores then some (vaUnit m.addr) else none

/-- The core whose buffer takes a message that has come on a link (R320). -/
def State.bufferOf (s : State) (m : Msg) : Option Nat := if m.via != 0 then s.coreFor m else none

/-- A message leaves the receive buffer of its link, whose flits are owed as credits (R306). -/
def State.leaveLink (s : State) (m : Msg) : State :=
  if m.via = 0 then s else s.setLink (m.via - 1) ((s.link (m.via - 1)).owe m.cls (s.flitsOf m).length)

/-- The oldest message that waits at a link for the buffer of a core and class enters it, while it holds fewer than 32 (R320). -/
def State.enterCore (s : State) (c cls : Nat) : State :=
  let here (m : Msg) : Bool := m.cls == cls && s.bufferOf m == some c
  if 32 ≤ (s.msgs.filter (fun m => here m && m.inCore)).length then s
  else
    match s.msgs.findIdx? (fun m => here m && !m.inCore) with
    | none => s
    | some k =>
      match s.msgs[k]? with
      | none => s
      | some m => State.leaveLink { s with msgs := setNth s.msgs k { m with inCore := true } } m

/-- The k-th message is done: it leaves the buffer of its core, where one that waits follows it, or that of its link (R306,
R320). -/
def State.finishMsg (s : State) (k : Nat) (m : Msg) : State :=
  let s1 := { s with msgs := dropNth s.msgs k }
  if m.inCore then s1.enterCore ((s.coreFor m).getD 0) m.cls else s1.leaveLink m

/-- The first flit of a message is its head, the last is marked (R304, R308). -/
def LinkSt.emitAll (cls : Nat) : Bool → List (List Byte) → LinkSt → LinkSt
  | _, [], l => l
  | head, p :: ps, l => LinkSt.emitAll cls false ps (l.emit (if head then fkHead else fkBody) cls ps.isEmpty p)

/-- A message that waits for an answer at this device: a request of one of its rows, engines or the host. -/
def Msg.asks (m : Msg) : Bool := m.own && (m.id.host || m.id.node == 0x3FF) && m.mkind != 3 && m.mkind != 7

/-- The core whose interface a message of this device leaves through (R87): a channel's own, else that of its row. -/
def State.leavesBy (s : State) (m : Msg) : Nat := if 16 ≤ m.chan then (m.chan - 16) / 4 else s.logCore m.id

/-- A write to another device enters the dirty log of its core before it leaves (R87); none while both halves are full. -/
def State.logLeaving (s : State) (m : Msg) : Option State :=
  if m.asks && (m.mkind == 1 || m.mkind == 4) then s.logged (s.leavesBy m) m.addr else some s

/-- The k-th message goes out on the link toward its node: its flits have credits and room in the replay buffer, the link does
not retrain, and no route change came before it. A request of this device stays, marked, until its answer comes. -/
def State.transmit (s : State) (k : Nat) (m : Msg) : State :=
  let node := vaNode m.addr
  let n := s.fabric.route.get 31 node
  let ps := s.flitsOf m
  let l := s.link n
  if numLinks ≤ n || l.retrain || s.fabric.nextRoute.any (fun e => e.1 == node && decide (e.2.2 ≤ m.seq))
    || decide (l.credits.get 128 m.cls < ps.length) || decide (512 < l.replay.length + ps.length) then s
  else
    match s.logLeaving m with
    | none => s
    | some s0 =>
      let l1 := { l with credits := l.credits.set 128 m.cls (l.credits.get 128 m.cls - ps.length) }
      let s1 := s0.setLink n (l1.emitAll m.cls true ps)
      if m.asks then { s1 with msgs := setNth s1.msgs k { m with remote := true } } else s1.finishMsg k m

/-! ### Order (R320, R326) -/

/-- RESP and ACK. -/
def Msg.isAnswer (m : Msg) : Bool := m.mkind == 3 || m.mkind == 7

/-- An earlier message goes before a later one: one class, source core and unit (R326), or a post that waits for room in a ring
of the later one's core (R320). Requests and answers are apart, since an answer's address is that of its request. -/
def State.goesBefore (s : State) (a b : Msg) : Bool :=
  let there := s.canonVa a.addr
  let here := s.canonVa b.addr
  !a.remote && a.cls == b.cls && vaNode there == vaNode here
    && ((a.isAnswer == b.isAnswer && a.id.host == b.id.host && a.id.node == b.id.node && a.id.core == b.id.core
        && (!s.isLocal a.addr || unitKey a.addr == unitKey b.addr))
      || (a.mkind == 6 && a.aux != 2 && s.isLocal a.addr && s.coreFor b == some (vaUnit a.addr)
        && !s.ringRoom (vaUnit a.addr) a.cls))

/-- An earlier store of the same core is on its way to the same unit in the same class (R326). -/
def State.storeBefore (s : State) (m : Msg) : Bool :=
  m.chan == 0 && s.stores.any (fun q => !q.sent && q.id.host == m.id.host && q.id.node == m.id.node && q.id.core == m.id.core
    && decide (q.seq < m.seq) && storeCls q.va == m.cls && s.byUnit q.va && s.oneUnit q.va m.addr)

/-- An earlier access of the row of a `send` goes before it: to bytes that it writes (R357), or by the loop-back path that it takes
(R363). -/
def State.accessBefore (s : State) (m : Msg) : Bool :=
  m.mkind == 1 && m.chan == 0 && !m.id.host && m.id.node == 0x3FF
    && (s.stores.any (fun q => q.id.isRow m.id.core m.id.row && decide (q.seq < m.seq)
          && (overlaps (s.canonVa q.va) q.data.length (s.canonVa m.addr) m.data.length
            || (s.loopBack m.id.core q.va && s.loopBack m.id.core m.addr)))
      || s.olderAccess m.id.core m.id.row m.seq m.addr m.data.length
      || (s.loopBack m.id.core m.addr && s.olderOnPath m.id.core m.id.row false m.seq))

/-- An earlier `send` of the row, whatever its class, goes before a `send` on this device: to bytes that it writes (R357), or by the
loop-back path that it takes (R363). -/
def State.sendBefore (s : State) (a b : Msg) : Bool :=
  let c := b.id.core
  a.chan == 0 && b.chan == 0 && a.mkind == 1 && b.mkind == 1 && decide (a.seq < b.seq) && !a.remote && a.id.isRow c b.id.row
    && !b.id.host && b.id.node == 0x3FF && s.isLocal b.addr
    && (overlaps (s.canonVa a.addr) a.data.length (s.canonVa b.addr) b.data.length || (s.loopBack c a.addr && s.loopBack c b.addr))

/-- The k-th message may be performed or sent now. -/
def State.msgTurn (s : State) (k : Nat) (m : Msg) : Bool :=
  (s.msgs.take k).all (fun a => !s.goesBefore a m) && !s.msgs.any (fun a => s.sendBefore a m) && !s.storeBefore m
    && !s.accessBefore m

/-- The k-th message, of a given kind, when it is its turn: sent on where it is for another device, else performed by `f`. -/
def State.onMessage (s : State) (k mkind : Nat) (f : Msg → State) : State :=
  match s.msgs[k]? with
  | none => s
  | some m =>
    if m.mkind ≠ mkind ∨ m.remote ∨ !s.msgTurn k m then s
    else if !s.isLocal m.addr then s.transmit k m
    else f m

/-! ### Admission (R313) and answers (R309) -/

/-- The identity under which this device performs a message, or none where it is not admitted. -/
def State.admitted (s : State) (m : Msg) : Option Ident :=
  if m.id.host || m.id.node == 0x3FF then some m.id
  else
    let a := word (s.fabric.admission.get 0 m.id.node)
    if bitAt a 0 then some { m.id with part := bitsAt a 1 4, mode := m.id.mode && bitAt a 5 } else none

/-- The answer to a message (R309). It names the core and row of the request, and its address is that of the request with the
requester's node (log 31); an ACK carries ACKREQ and ACKTAG on. A message of this device takes none: its tag is set where it asks
for that. -/
def State.answer (s : State) (m : Msg) (mkind status : Nat) (data : List Byte) : State :=
  if m.id.host || m.id.node == 0x3FF then
    if m.ackreq then s.ackTag m.id.core m.acktag else s
  else
    State.bump { s with msgs := s.msgs ++ [{
        mkind := mkind, cls := m.cls, chan := 0, via := 0,
        id := { Ident.none with host := false, node := 0x3FF, core := m.id.core, row := m.id.row },
        addr := m.id.node * 2 ^ 47 + m.addr % 2 ^ 47, aux := status, data := data, count := none, ackreq := m.ackreq && mkind == 7,
        acktag := if mkind = 7 then m.acktag else 0, remote := false, inCore := false, sys := false, seq := s.seq }] }

/-- A message is refused: discarded, posted with KIND 7, and answered with the cause (R323). -/
def State.refuseMsg (s : State) (k : Nat) (m : Msg) (id : Ident) (c : Cause) : State :=
  ((s.finishMsg k m).refuseMessage id m.addr c).answer m 7 c.code []

/-- The partition of a message is swapped out, or has closed its admission before the message came (R375, R377). -/
def State.gone (s : State) (id : Ident) (va seq : Nat) : Bool :=
  (s.part id.part).shut seq && !(vaRegion va == 2 && vaUnit va == 0x1F0)

/-- The unit of a message lies in a grove in G3: the message is refused with ABSENT, and not held (R349). -/
def State.unitOff (s : State) (va : Nat) : Bool := vaRegion va == 2 && decide (vaUnit va < numCores) && s.absent (vaUnit va)

/-! ### WRITE (R316, R323, R325) -/

/-- The window of a partition takes headers of another device only by ADMIT.HDR (R325). -/
def State.headerBarred (s : State) (m : Msg) : Bool :=
  vaRegion m.addr == 2 && vaUnit m.addr == 0x1F0 && !(m.id.host || m.id.node == 0x3FF)
    && !bitAt (word (s.fabric.admission.get 0 m.id.node)) 6

/-- The data of a message wait for a boundary of their row (R105). -/
def State.dataWaits (s : State) (id : Ident) (va : Nat) : Bool :=
  s.rowReqs.any (fun q => q.id == id && vaRegion va == 2 && q.core == vaUnit va && q.row == vaOff va / 256)

/-- The data are visible at system scope: a dirty copy in the sender's slice is written back (R80, R316). -/
def State.publishData (s : State) (id : Ident) (va : Nat) : State :=
  match id.slice with
  | some g => if vaRegion va % 2 = 1 then s.flushLines g (fun l => l.part == id.part && l.line == s.canonVa va / 64) true else s
  | none => s

/-- The slot-0 address that a count word names (R308). -/
def countVa (w : Word) : Nat := rowVa (bitsAt w 0 10) (bitsAt w 10 8) (bitsAt w 18 12)

/-- The count of a message is on its way to its clasp (R316, R317). -/
def State.countOnWay (s : State) (id : Ident) (va : Nat) : Bool :=
  (s.isLocal va && s.arrivals.any (fun a => a.id == id && a.core == vaUnit va && a.row == vaOff va / 256 % 4096))
    || (!s.isLocal va && s.msgs.any (fun m => m.mkind == 5 && m.id == id.onward && m.addr == va))

/-- The data have been performed: the count follows, an acquire at system scope where it is consumed (R316, R360), and the answer
once the count is performed too (R317, R326, R327); AUX 2 marks a message that waits for that. -/
def State.writeDone (s : State) (k : Nat) (m : Msg) (id : Ident) : State :=
  let s1 := s.publishData id m.addr
  match m.count with
  | none => (s1.finishMsg k m).answer m 7 0 []
  | some w =>
    let s2 := s1.countAt id (countVa w) (bitsAt w 30 12) true
    if s2.countOnWay id (countVa w) then { s2 with msgs := setNth s2.msgs k { m with aux := 2 } }
    else (s2.finishMsg k m).answer m 7 0 []

/-- A WRITE is a `send`, as against a store of another device: a message of this device, or one with a count, an acknowledgement tag or
another class than a store's (R310, R316). DESIGN CHOICE (log 86): a WRITE of another device in class 1 with neither may be either, and is
taken for a store; one of class 2 to a context row may be an engine's (R239), and is taken for a `send`. -/
def Msg.isSend (m : Msg) : Bool := m.id.host || m.id.node == 0x3FF || m.count.isSome || m.ackreq || m.cls != 1

/-- The check of R71 and of R85 refuses the data of a `send` over slot 0 of a context row: the message is refused whole (R316, R323). What
remains of the checks of R103 is that of the control request, which is refused alone (R104). -/
def State.sendDenied (s : State) (id : Ident) (m : Msg) : Option Cause :=
  let c := vaUnit m.addr
  let o := vaOff m.addr
  if !(m.isSend && vaRegion m.addr == 2 && decide (c < numCores) && s.controlStore c o && !s.asleep (groveOf c)) then none
  else if id.part != s.partid c || s.rowDenied id c (o / 256) true then some .prot
  else if s.partlyPoisoned (arrayKey c o) m.data.length then some .memerr
  else none

/-- A WRITE at its destination; AUX 1 marks one whose data wait for a boundary of their row. -/
def State.performWrite (s : State) (k : Nat) (m : Msg) : State :=
  match s.admitted m with
  | none => s.refuseMsg k m m.id .prot
  | some id =>
    if m.aux = 2 then (if s.countOnWay id (countVa (m.count.getD 0)) then s else (s.finishMsg k m).answer m 7 0 [])
    else if m.aux = 1 then (if s.dataWaits id m.addr then s else s.writeDone k m id)
    else if s.gone id m.addr m.seq || s.unitOff m.addr then s.refuseMsg k m id .absent
    else if s.headerBarred m then s.refuseMsg k m id .prot
    else if 64 < m.addr % 64 + m.data.length then s.refuseMsg k m id .align
    else if (s.sendDenied id m).isSome then s.refuseMsg k m id ((s.sendDenied id m).getD .prot)
    else
      match s.anyStore id m.addr m.data (decide (8 < m.data.length)) m.seq with
      | (.ok _, t) =>
        if t.dataWaits id m.addr then { t with msgs := setNth t.msgs k { m with aux := 1 } } else t.writeDone k m id
      | (.fault c, t) => t.refuseMsg k m id c
      | (.hold, _) => s

/-- R316. -/
def execWrite (k : Nat) (s : State) : Result := .next (s.onMessage k 1 (fun m => s.performWrite k m))

/-! ### READ and ATOMIC (R324) -/

/-- A READ or an ATOMIC of class 2 is an engine's (R310): it reaches no context row (R239). -/
def State.engineBarred (s : State) (m : Msg) : Bool := m.cls == 2 && vaRegion m.addr == 2 && s.contextAt m.addr

/-- A READ at its destination: RESP with the data, or with a status and zeros (log 31). -/
def State.performRead (s : State) (k : Nat) (m : Msg) : State :=
  let n := m.data.length
  let fail := fun (t : State) (c : Cause) => (t.finishMsg k m).answer m 3 c.code (List.replicate n 0)
  match s.admitted m with
  | none => fail s .prot
  | some id =>
    if s.gone id m.addr m.seq || s.unitOff m.addr then fail s .absent
    else if s.engineBarred m then fail s .prot
    else if 64 < m.addr % 64 + n then fail s .align
    else
      match s.anyLoad id m.addr n (decide (8 < n)) with
      | (.ok bs, t) => (t.finishMsg k m).answer m 3 0 bs
      | (.fault c, t) => fail t c
      | (.hold, _) => s

/-- R324. -/
def execRead (k : Nat) (s : State) : Result := .next (s.onMessage k 2 (fun m => s.performRead k m))

/-- The operation that an ATOMIC message asks for, from AUX and its data (R164 to R167, R308); `famo` decides an operation
code that both an `amo` and a `famo` have (log 30). -/
def messageOp (aux : Nat) (data : List Byte) (famo : Bool) : Option AtomicOp :=
  let size := if aux / 16 % 2 = 1 then 8 else 4
  let op := aux % 16
  if data.length = 2 * size then
    if op ≠ 0 then none
    else some { kind := kAcas, op := 0, size := size, y := natOfBytes (data.take size), z := natOfBytes (data.drop size) }
  else if data.length ≠ size ∨ 8 < op then none
  else if size = 4 ∧ op < 4 ∧ famo then some { kind := kFamo, op := op, size := 4, y := natOfBytes data, z := 0 }
  else some { kind := kAmo, op := op, size := size, y := natOfBytes data, z := 0 }

/-- An ATOMIC at its destination: performed once, or not at all (R324). -/
def State.performAtomic (s0 : State) (k : Nat) (m : Msg) : State :=
  let s := s0.draw
  let a? := messageOp m.aux m.data (Config.famoMessage s0.draws)
  let n := (a?.map (fun a => a.size)).getD 4
  let fail := fun (t : State) (c : Cause) => (t.finishMsg k m).answer m 3 c.code (List.replicate n 0)
  match s.admitted m, a? with
  | none, _ => fail s .prot
  | _, none => fail s .prot
  | some id, some a =>
    if s.gone id m.addr m.seq || s.unitOff m.addr then fail s .absent
    else if s.engineBarred m then fail s .prot
    else if m.addr % a.size ≠ 0 then fail s .align
    else
      match s.anyAtomic id m.addr a with
      | (.ok old, t) => (t.finishMsg k m).answer m 3 0 (bytesOfNat a.size old)
      | (.fault c, t) => fail t c
      | (.hold, _) => s0

/-- R324. -/
def execAtomic (k : Nat) (s : State) : Result := .next (s.onMessage k 4 (fun m => s.performAtomic k m))

/-! ### COUNT (R322) and POST (R318, R320) -/

/-- A COUNT at its destination (R322), with the delivery failures of R23. One of another device is consumed at system scope, since
its message does not say whether a fence came before it (R360, log 62). -/
def State.performCount (s : State) (k : Nat) (m : Msg) : State :=
  let s1 := s.finishMsg k m
  match s.admitted m with
  | none =>
    (s1.postRecord (s1.ownerOf m.id m.addr) (s1.record 2 Cause.prot.code m.addr 0 0 m.id.origin)).answer m 7 Cause.prot.code []
  | some id =>
    if m.aux = 2 then (if s.countOnWay id m.addr then s else s1.answer m 7 0 [])
    else if s.gone id m.addr m.seq then s.refuseMsg k m id .absent
    else
      let count (t : State) : State := t.countAt id m.addr (bitsAt (m.count.getD 0) 30 12) (m.sys || id.node != 0x3FF)
      if (count s).countOnWay id m.addr then
        { count s with msgs := setNth (count s).msgs k { m with aux := 2 } }
      else (count s1).answer m 7 0 []

/-- R322. -/
def execCount (k : Nat) (s : State) : Result := .next (s.onMessage k 5 (fun m => s.performCount k m))

/-- Why a post cannot enter a ring of a core (R318, R375, R377). -/
def State.postRefusal (s : State) (id : Ident) (va ring seq : Nat) : Option Cause :=
  let c := vaUnit va
  if vaRegion va ≠ 2 ∨ 0x100 ≤ c ∨ 256 ≤ vaOff va ∨ id.part ≠ s.partid c then some .prot
  else if (s.ring c ring).2 = 0 ∨ s.absent c ∨ (s.part (s.partid c)).shut seq then some .absent
  else if s.poisoned (rowKey c (s.ring c ring).1 0) 32 then some .memerr
  else none

/-- The count word of a post that has entered a ring: one arrival at its OWNER (R308, R318). -/
def State.ownerCount (s : State) (c ring : Nat) : Word :=
  word (0x3FF + c % 256 * 2 ^ 10 + bitsAt (s.slot c (s.ring c ring).1 2) 0 12 * 2 ^ 18 + 2 ^ 30)

/-- A POST at its destination: it enters the ring when there is room, and waits otherwise (R318, R320). Its count at OWNER is checked
under the posting row (R23, R170), and the answer follows it; AUX 2 marks a post that waits for that, with the count on its way (R318). -/
def State.performPost (s : State) (k : Nat) (m : Msg) : State :=
  match s.admitted m with
  | none => s.refuseMsg k m m.id .prot
  | some id =>
    let c := vaUnit m.addr
    if m.aux = 2 then (if s.countOnWay id (countVa (m.count.getD 0)) then s else (s.finishMsg k m).answer m 7 0 [])
    else
      match s.postRefusal id m.addr m.cls m.seq with
      | some k1 => s.refuseMsg k m id k1
      | none =>
        if s.asleep (groveOf c) || !s.ringRoom c m.cls then s
        else
          let t := s.ringAppend c m.cls id m.data (m.sys || id.node != 0x3FF)
          if t.countOnWay id (countVa (t.ownerCount c m.cls)) then
            { t with msgs := setNth t.msgs k { m with aux := 2, count := some (t.ownerCount c m.cls) } }
          else (t.finishMsg k m).answer m 7 0 []

/-- R318. -/
def execPostMessage (k : Nat) (s : State) : Result := .next (s.onMessage k 6 (fun m => s.performPost k m))

/-- R318: the oldest post that waits for a ring enters it as room comes. -/
def execRingAppend (core ring : Nat) (s : State) : Result :=
  match s.msgs.findIdx? (fun m => m.mkind == 6 && !m.remote && s.isLocal m.addr && vaUnit m.addr == core && m.cls == ring) with
  | some k => .next (s.onMessage k 6 (fun m => s.performPost k m))
  | none => .next s

/-! ### Answers at the sender (R309, R317, R324) -/

/-- The request that an answer belongs to: the oldest of its row, class, device and address (log 31). Requests of one row to one
address are performed in order (R326), and so answered in order. -/
def State.requestOf (s : State) (m : Msg) (kinds : List Nat) : Option Nat :=
  s.msgs.findIdx? (fun q => q.remote && kinds.contains q.mkind && q.cls == m.cls && vaNode q.addr == m.id.node
    && (if q.id.host then 0xFF else q.id.core) == m.id.core && q.id.row == m.id.row && q.addr % 2 ^ 47 == m.addr % 2 ^ 47)

/-- The remote store of a WRITE is accepted, or refused by its status (R154, R324). -/
def State.settleStore (s : State) (seq aux : Nat) : State :=
  match s.stores.findIdx? (fun q => q.sent && q.seq == seq) with
  | none => s
  | some i =>
    match s.stores[i]? with
    | none => s
    | some q => if aux = 0 then s.dropStore i else (s.dropStore i).refuseStore q (causeOf aux)

/-- An ACK at the sender: engine work finds its status; a row's message is performed, its tag is set, and its store is settled
(R317, R327). -/
def State.performAck (s : State) (k : Nat) (m : Msg) : State :=
  match s.requestOf m [1, 5, 6] with
  | none => s.finishMsg k m
  | some j =>
    match s.msgs[j]? with
    | none => s.finishMsg k m
    | some q =>
      if q.chan ≠ 0 ∧ q.chan ≠ countChan ∧ q.chan ≠ goneChan then
        State.finishMsg { s with msgs := setNth s.msgs j { q with mkind := 7, aux := m.aux } } k m
      else
        let s1 := State.finishMsg { s with msgs := setNth s.msgs j { q with mkind := 0 } } k m
        let s2 := { s1 with msgs := s1.msgs.filter (fun x => x.mkind != 0) }
        let s3 := if m.ackreq then s2.ackTag q.id.core m.acktag else s2
        if q.mkind = 1 then s3.settleStore q.seq m.aux else s3

/-- R317. -/
def execAck (k : Nat) (s : State) : Result := .next (s.onMessage k 7 (fun m => s.performAck k m))

/-- A RESP at the sender: its request holds the answer, of as many bytes as a READ asked for, until it is taken (R324). -/
def State.performResp (s : State) (k : Nat) (m : Msg) : State :=
  match s.requestOf m [2, 4] with
  | none => s.finishMsg k m
  | some j =>
    match s.msgs[j]? with
    | none => s.finishMsg k m
    | some q =>
      if q.chan = goneChan then
        let t := State.finishMsg { s with msgs := setNth s.msgs j { q with mkind := 0 } } k m
        { t with msgs := t.msgs.filter (fun x => x.mkind != 0) }
      else
        let data := if q.mkind = 2 then (m.data ++ q.data).take q.data.length else m.data
        State.finishMsg { s with msgs := setNth s.msgs j { q with mkind := 3, aux := m.aux, data := data } } k m

/-- R324. -/
def execResp (k : Nat) (s : State) : Result := .next (s.onMessage k 3 (fun m => s.performResp k m))

/-! ### Flits at a link end (R305, R306) -/

/-- A message has come whole: it is queued, in the buffer of its core where that has room, or dropped and counted (R309, R320). -/
def State.receive (s : State) (link cls : Nat) (bs : List Byte) : State :=
  match messageOf link cls s.seq bs with
  | some m =>
    let s1 := State.bump { s with msgs := s.msgs ++ [m] }
    (match s1.bufferOf m with
    | some c => s1.enterCore c cls
    | none => s1)
  | none =>
    { s with mgmt := { s.mgmt with badMsgs := s.mgmt.badMsgs + 1 } }.setLink link
      ((s.link link).owe cls ((bs.length + 63) / 64))

/-- The beacons of a link back to the last one that the other end has received: those whose flits an ACK has covered are no longer
in the replay buffer (R305, R328). -/
def LinkSt.heard (l : LinkSt) : List (Nat × Word) :=
  let waits (e : Nat × Word) : Bool := l.replay.any (fun f => flitSeq f == e.1)
  let got := l.beacons.filter (fun e => !waits e)
  got.drop (got.length - 1) ++ l.beacons.filter waits

/-- TIME of the last beacon that the other end has received; 0 before the first. -/
def LinkSt.echoed (l : LinkSt) : Word :=
  match (l.beacons.filter (fun e => !l.replay.any (fun f => flitSeq f == e.1))).getLast? with
  | some e => e.2
  | none => 0

/-- The payload of a numbered flit that was accepted. A beacon is kept with its time of arrival and with the TIME of the beacon of
this end that it echoes, the last that its sender had received (R328, log 35). -/
def State.takeFlit (s : State) (link : Nat) (f : Flit) : State :=
  let l := s.link link
  if f.fkind = fkBeacon then
    s.setLink link { l with beacon := some ((wordsOf f.payload).take 3 ++ [s.time, l.echoed]), beacons := l.heard }
  else
    let bs := (if f.fkind = fkHead then [] else l.part.get [] f.vl) ++ f.payload
    if f.last then (s.setLink link { l with part := l.part.set [] f.vl [] }).receive link f.vl bs
    else s.setLink link { l with part := l.part.set [] f.vl bs }

/-- R305: a flit arrives; a link that retrains takes none. -/
def execFlit (link : Nat) (bytes : List Byte) (s : State) : Result :=
  let l := s.link link
  if l.retrain then .next s
  else
    match flitOf bytes with
    | none => .next (s.setLink link l.bad)
    | some f =>
      if (f.fkind = fkHead ∨ f.fkind = fkBody ∨ f.fkind = fkBeacon) ∧ f.seq ≠ (l.rxSeq + 1) % 4096 then
        .next (s.setLink link l.bad)
      else
        let l1 := (l.acked f.ack).credit f.credvl f.cred
        if f.fkind = fkIdle then .next (s.setLink link l1).applyRoutes
        else if f.fkind = fkNak then .next (s.setLink link { l1 with resend := true }).applyRoutes
        else .next (((s.setLink link { l1 with rxSeq := f.seq, naked := false }).takeFlit link f).applyRoutes)

/-- R305: every flit after the ACK of a NAK is resent in order; one that is resent 16 times in a row makes the link retrain. -/
def execNak (link : Nat) (s : State) : Result :=
  let l := s.link link
  if !l.resend then .next s
  else
    .next (s.setLink link { l with
      resend := false, sent := l.sent ++ l.replay, resends := l.resends.map (fun n => n + 1),
      retrain := l.retrain || l.resends.any (fun n => decide (15 ≤ n)) })

/-- R307: a link retrains; nothing it holds is lost, and what is not acknowledged goes out again. -/
def execLinkRetrain (link : Nat) (s : State) : Result :=
  let l := s.link link
  .next (s.setLink link { l with
    retrain := false, resends := l.resends.map (fun _ => 0), naked := false, resend := !l.replay.isEmpty })

/-! ### The timebase (R328 to R330) -/

/-- R328: a beacon goes out: TIME, the TIME of the last beacon of this end that the other end has echoed, and the TIME at which
that echo came. -/
def execBeaconSend (link : Nat) (s : State) : Result :=
  let l := s.link link
  if l.retrain || decide (512 ≤ l.replay.length) then .next s
  else
    let l1 := l.emit fkBeacon 0 true (bytesOfWords [s.time, l.echoTx, l.echoRx])
    .next (s.setLink link { l1 with beacons := l.beacons ++ [(l1.txSeq, s.time)] })

/-- No partition of the device runs: no row of a core in a partition is READY, OPEN or WAIT. -/
def State.anyRuns (s : State) : Bool := s.allRows.any (fun x => running (s.rowState x.1 x.2))

/-- A word as a signed number. -/
def signedWord (w : Word) : Int := signedNat 64 w.toNat

/-- The one-way delay of R328: `echoTx` is when this end sent the beacon that is echoed, `tB` and `echoB` are the other end's
times of sending this beacon and of receiving that one. -/
def beaconDelay (rx echoTx tB echoB : Word) : Int := signedWord ((rx - echoTx) - (tB - echoB)) / 2

/-- R328, R329: the beacon that came on a link. The parent's moves the offset, clears STALE, and steps the timebase after a
change of parent while nothing runs. -/
def execBeacon (link : Nat) (s : State) : Result :=
  let l := s.link link
  match l.beacon with
  | none => .next s
  | some ws =>
    let rx := wordAt ws 3
    let d := beaconDelay rx (wordAt ws 4) (wordAt ws 0) (wordAt ws 2)
    let s1 := s.setLink link { l with beacon := none, echoTx := wordAt ws 4, echoRx := rx }
    if s.fabric.tparent ≠ link then .next s1
    else
      let off := signedWord (wordAt ws 0) + d - signedWord rx
      let jump := s.fabric.step && !s.anyRuns
      let now := if jump then BitVec.ofInt 64 (signedWord s.time + off) else s.time
      .next { s1 with
        time := now
        fabric := { s1.fabric with offset := if jump then 0 else off, stale := false, step := false, lastBeacon := now } }

/-- R330: 100 µs without a beacon of the parent. -/
def execTimebaseStale (s : State) : Result :=
  if s.fabric.tparent = 31 ∨ s.fabric.stale ∨ (s.time - s.fabric.lastBeacon).toNat < 100000 then .next s
  else .next ({ s with fabric := { s.fabric with stale := true } }.alert alertTimebase)

/-- R312, R329: TPARENT is written; a device on which nothing runs steps at the first beacon of the new parent. STALE stays until
that beacon (R330), which is awaited from now on. -/
def execTparentWrite (v : Word) (s : State) : Result :=
  if !linkValue v then .next s.badConfig
  else
    .next { s with fabric := { s.fabric with
      tparent := v.toNat, step := decide (v.toNat ≠ 31) && !s.anyRuns, lastBeacon := s.time } }

end Sys2Proof.Machine
end

