-- ==== Sys2Proof/Machine/RowAlu.lean ====
section
/-! DEFINITION. The row ALU: the checks at issue (R189), and what each form writes at completion (R193 to R205). -/

namespace Sys2Proof.Machine

/-! ### What a form reads and writes -/

/-- The source rows and the registers of a form, as it reads them. -/
structure AluIn where
  a  : BitVec 2048
  b  : BitVec 2048
  c  : BitVec 2048
  vd : Word
  va : Word
  vb : Word
  vc : Word
  deriving DecidableEq, Repr

/-- A write of consecutive lanes of one width into a row. -/
structure AluWrite where
  row   : Nat
  width : Nat
  start : Nat
  codes : List Nat
  deriving DecidableEq, Repr

/-- The width of a form's lanes. -/
def Operands.laneWidth (o : Operands) : Nat := widthOf o.ty
/-- n and L of R188. -/
def Operands.laneCount (o : Operands) : Nat := lanesOf o.ty
def Operands.writeLanes (o : Operands) : Nat := o.lanes (lanesOf o.ty)

/-- Lane i of a row as a value of the form's type (R188). -/
def Operands.val (o : Operands) (row : BitVec 2048) (i : Nat) : Val := decodeTy o.ty (lane (widthOf o.ty) row i)
/-- Lane i of a row as a code of the form's width. -/
def Operands.code (o : Operands) (row : BitVec 2048) (i : Nat) : Nat := lane (widthOf o.ty) row i
/-- `Fin` of a form (R188). -/
def Operands.fin (o : Operands) (v : Val) : Nat := finTy o.ty o.rm o.fn4 v

/-- The row that field D names. -/
def AluIn.rowD (x : AluIn) (o : Operands) : Nat := rowOf o 0 x.vd

/-- Lanes 0 to L − 1 of D, by a function of the lane number. -/
def AluIn.each (x : AluIn) (o : Operands) (f : Nat → Nat) : List AluWrite :=
  [{ row := x.rowD o, width := Operands.laneWidth o, start := 0, codes := (upto (Operands.writeLanes o)).map f }]

/-! ### Element-wise forms (R193 to R195) -/

/-- A form that rounds a value per lane. -/
def AluIn.values (x : AluIn) (o : Operands) (f : Nat → Val) : List AluWrite := x.each o (fun i => Operands.fin o (f i))

/-- A register as the scalar of `rscal`: FP32 for floating types, a signed integer otherwise. -/
def scalarOf (t : Nat) (v : Word) : Val :=
  if isFloatType t then Fmt.fp32.decode (v.toNat % 2 ^ 32) else Val.ofInt (signedNat 64 v.toNat)

/-- All ones or zero of a lane (R194). -/
def maskCode (w : Nat) (b : Bool) : Nat := if b then 2 ^ w - 1 else 0

/-! ### Reductions and scans (R196, R197) -/

/-- Combine of `rsum`, `rdot` and `rscan` for a form (R66). -/
def Operands.sumOf (o : Operands) : Combine := if isFloatType o.ty then .sum o.rm o.fn4 else .exact

/-- The root of a reduction, as the 32-bit code written (R196). -/
def Operands.rootCode (o : Operands) (v : Val) : Nat :=
  if isFloatType o.ty then rnd .fp32 o.rm o.fn4 v else rndInt 32 true o.rm o.fn4 v

/-- The root in bytes 3 to 0 of D. -/
def AluIn.root (x : AluIn) (o : Operands) (c : Combine) (leaf : Nat → Val) : List AluWrite :=
  [{ row := x.rowD o, width := 32, start := 0,
     codes := [Operands.rootCode o (c.tree 10 ((upto (Operands.writeLanes o)).map leaf))] }]

/-- The prefix of lanes 0 to i (R67). -/
def AluIn.scan (x : AluIn) (o : Operands) : List AluWrite :=
  x.values o (fun i => (Operands.sumOf o).prefix_ 10 ((upto (i + 1)).map (fun k => Operands.val o x.a k)) none)

/-! ### Conversions (R198 to R201) -/

/-- Lane i of A in the source type. -/
def AluIn.src (x : AluIn) (o : Operands) (i : Nat) : Val := decodeTy o.srcTy (lane (widthOf o.srcTy) x.a i)

/-- n and P of R198: the lanes of the type with fewer, and how many times they go into the other's. -/
def Operands.part (o : Operands) : Nat × Nat :=
  let n := Nat.min (lanesOf o.ty) (lanesOf o.srcTy)
  (n, Nat.max (lanesOf o.ty) (lanesOf o.srcTy) / n)

/-- R198. -/
def AluIn.convert (x : AluIn) (o : Operands) : List AluWrite :=
  let n := (Operands.part o).1
  let p := x.vb.toNat % (Operands.part o).2
  let narrow := lanesOf o.srcTy < lanesOf o.ty
  let from_ := if lanesOf o.ty < lanesOf o.srcTy then p * n else 0
  [{ row := x.rowD o, width := Operands.laneWidth o, start := if narrow then p * n else 0,
     codes := (upto (o.lanes n)).map (fun i => Operands.fin o (x.src o (from_ + i))) }]

/-- R199, `rpack`. -/
def AluIn.pack (x : AluIn) (o : Operands) : List AluWrite :=
  let n := lanesOf o.srcTy
  let half (row : BitVec 2048) : List Nat := (upto n).map (fun i => Operands.fin o (decodeTy o.srcTy (lane (widthOf o.srcTy) row i)))
  [{ row := x.rowD o, width := Operands.laneWidth o, start := 0, codes := half x.a ++ half x.b }]

/-- R199, `runpk`. -/
def AluIn.unpack (x : AluIn) (o : Operands) : List AluWrite :=
  let n := Operands.laneCount o
  let half (k : Nat) : List Nat := (upto n).map (fun i => Operands.fin o (x.src o (k * n + i)))
  [{ row := x.rowD o, width := Operands.laneWidth o, start := 0, codes := half 0 },
   { row := (x.rowD o + 1) % 4096, width := Operands.laneWidth o, start := 0, codes := half 1 }]

/-- Emax of R200. -/
def emaxOf (t : Nat) : Int := if t = 2 then 8 else if t = 3 then 15 else if t = 4 then 2 else 6

/-- floor(log2 |v|) of a finite value other than zero. -/
def Val.log2 : Val → Option Int
  | .fin _ m e => some (Int.ofNat (Nat.log2 m) + e)
  | .nan | .inf _ | .zero _ => none

/-- NaN or an infinity. -/
def Val.special : Val → Bool
  | .nan | .inf _ => true
  | .zero _ | .fin _ _ _ => false

/-- The scale byte of a block of finite lanes (R200): the largest of their exponents counts. -/
def blockScale (t : Nat) (vs : List Val) : Nat :=
  match vs.foldl (fun (m : Option Int) v => match m, v.log2 with
      | none, e => e
      | some x, none => some x
      | some x, some y => some (max x y)) none with
  | none => 127
  | some e => (min (max (e - emaxOf t + 127) 0) 254).toNat

/-- The row and the part that register B and its offset name (R200). -/
def AluIn.scaleRow (x : AluIn) (o : Operands) : Nat := rowOf o 2 x.vb
def AluIn.scalePart (x : AluIn) (o : Operands) : Nat := bitsAt x.vb 16 3 % (Operands.part o).2

/-- One block of `rqnt`: its scale byte, then its lanes. -/
def AluIn.quantBlock (x : AluIn) (o : Operands) (b : Nat) : List AluWrite :=
  let base := x.scalePart o * (Operands.part o).1 + 32 * b
  let vs := (upto 32).map (fun i => x.src o (32 * b + i))
  let bad := vs.any Val.special
  let e := if bad then 255 else blockScale o.ty vs
  let codes := vs.map (fun v =>
    if bad then (if isFloatType o.ty then (fmtOf o.ty).nanOut else 0) else Operands.fin o (v.shift (127 - Int.ofNat e)))
  [{ row := x.scaleRow o, width := 8, start := base / 32, codes := [e] },
   { row := x.rowD o, width := Operands.laneWidth o, start := base, codes := codes }]

/-- R200. -/
def AluIn.quant (x : AluIn) (o : Operands) : List AluWrite :=
  (upto (o.lanes (Operands.part o).1 / 32)).flatMap (fun b => x.quantBlock o b)

/-- R201. -/
def AluIn.dequant (x : AluIn) (o : Operands) : List AluWrite :=
  let base := x.scalePart o * (Operands.part o).1
  [{ row := x.rowD o, width := Operands.laneWidth o, start := 0,
     codes := (upto (o.lanes (Operands.part o).1)).map (fun i =>
       Operands.fin o ((x.src o (base + i)).mul (e8m0 (rowByte x.b ((base + i) / 32))))) }]

/-! ### Moves, bits and scalars (R203 to R205) -/

/-- A shift of a lane by the low bits of wb (R204). -/
def AluIn.shifted (x : AluIn) (o : Operands) (f : Nat → Nat → Nat → Nat) : List AluWrite :=
  x.each o (fun i => f (Operands.laneWidth o) (Operands.code o x.a i) (x.vb.toNat % Operands.laneWidth o) % 2 ^ Operands.laneWidth o)

/-- A bit operation of two lanes (R204). -/
def AluIn.bits (x : AluIn) (o : Operands) (f : Nat → Nat → Nat) : List AluWrite :=
  x.each o (fun i => f (Operands.code o x.a i) (Operands.code o x.b i))

/-- The lane that `rget` reads, as it enters wd (R205). -/
def AluIn.getLane (x : AluIn) (o : Operands) : Word :=
  let c := Operands.code o x.a (x.vb.toNat % Operands.laneCount o)
  if isFloatType o.ty then word c else sextNat (Operands.laneWidth o) c

/-- What a row ALU form writes into rows, in order. -/
def aluWrites (i : Instr) (x : AluIn) : List AluWrite :=
  match i with
  | .radd o => x.values o (fun k => Val.add o.rm (Operands.val o x.a k) (Operands.val o x.b k))
  | .rsub o => x.values o (fun k => Val.add o.rm (Operands.val o x.a k) (Operands.val o x.b k).neg)
  | .rmul o => x.values o (fun k => (Operands.val o x.a k).mul (Operands.val o x.b k))
  | .rfma o => x.values o (fun k =>
      Val.add o.rm ((Operands.val o x.a k).mul (Operands.val o x.b k)) (Operands.val o x.c k))
  | .rmax o => x.values o (fun k => (Operands.val o x.a k).maxV (Operands.val o x.b k))
  | .rmin o => x.values o (fun k => (Operands.val o x.a k).minV (Operands.val o x.b k))
  | .rabs o => x.values o (fun k => (Operands.val o x.a k).abs)
  | .rneg o => x.values o (fun k => (Operands.val o x.a k).neg)
  | .rscal o => x.values o (fun k =>
      Val.add o.rm ((Operands.val o x.a k).mul (scalarOf o.ty x.vb)) (scalarOf o.ty x.vc))
  | .rcmpCc o => x.each o (fun k =>
      maskCode (Operands.laneWidth o) (valCond o.rm (Operands.val o x.a k) (Operands.val o x.b k)))
  | .rsel o => x.each o (fun k => if Operands.code o x.c k ≠ 0 then Operands.code o x.a k else Operands.code o x.b k)
  | .rsum o => x.root o (Operands.sumOf o) (fun k => Operands.val o x.a k)
  | .rmaxr o => x.root o .larger (fun k => Operands.val o x.a k)
  | .rdot o => x.root o (Operands.sumOf o) (fun k => (Operands.val o x.a k).mul (Operands.val o x.b k))
  | .rscan o => x.scan o
  | .rcvt o => x.convert o
  | .rqnt o => x.quant o
  | .rdqnt o => x.dequant o
  | .rpack o => x.pack o
  | .runpk o => x.unpack o
  | .rexp2 o => x.each o (fun k => exp2Rnd o.fn4 (Operands.val o x.a k))
  | .rlog2 o => x.each o (fun k => log2Rnd o.fn4 (Operands.val o x.a k))
  | .rrcp o => x.each o (fun k => rcpRnd o.fn4 (Operands.val o x.a k))
  | .rrsqrt o => x.each o (fun k => rsqrtRnd o.fn4 (Operands.val o x.a k))
  | .rperm o => x.each o (fun k => Operands.code o x.a (Operands.code o x.b k % Operands.laneCount o))
  | .rbcast o => x.each o (fun _ => Operands.code o x.a (x.vb.toNat % Operands.laneCount o))
  | .rmov o => x.each o (fun k => Operands.code o x.a k)
  | .rclr o => x.each o (fun _ => 0)
  | .riota o => x.values o (fun k => Val.ofInt (signedNat 64 x.va.toNat + Int.ofNat k))
  | .rbitAnd o => x.bits o (fun p q => p &&& q)
  | .rbitOr o => x.bits o (fun p q => p ||| q)
  | .rbitXor o => x.bits o (fun p q => p ^^^ q)
  | .rbitAndn o => x.bits o (fun p q => andnF (Operands.laneWidth o) p q)
  | .rbitNot o => x.bits o (fun p _ => 2 ^ Operands.laneWidth o - 1 - p)
  | .rshShl o => x.shifted o shlF
  | .rshShr o => x.shifted o shrF
  | .rshSar o => x.shifted o sarF
  | .rshRol o => x.shifted o rolF
  | .rset o => [{ row := x.rowD o, width := Operands.laneWidth o, start := x.vb.toNat % Operands.laneCount o,
                  codes := [x.va.toNat] }]
  | _ => []

/-- The register that a row ALU form writes: wd of `rget`. -/
def aluReg (i : Instr) (x : AluIn) : Option (Nat × Word) :=
  match i with
  | .rget o => some (o.rd, x.getLane o)
  | _ => none

/-! ### At issue -/

/-- A row of the issuing core that a form may not use: denied by the protection unit, or a context row (R189). -/
def State.rowBarred (s : State) (r : Nat) (write : Bool) : Bool :=
  s.rowDenied s.me s.curCore r write || s.isContext s.curCore r

/-- R189: the operand rows are checked, and the operation becomes pending with its registers as they stand. -/
def State.aluIssue (s : State) (i : Instr) (o : Operands) : State :=
  let u := usesOf i s
  if u.rrows.any (fun r => s.rowBarred r.1 false) || u.wrows.any (fun r => s.rowBarred r.1 true) then s.trap o .prot 0
  else s.pend i o (.rowAlu i (s.reg o.rd) (s.reg o.ra) (s.reg o.rb) (s.reg o.rc) []) false

/-! ### At completion -/

/-- A source row: as the operation read it, or as it stands now (R192). -/
def State.sourceRow (s : State) (c : Nat) (read : List (Nat × BitVec 2048)) (r : Nat) : BitVec 2048 :=
  match read.find? (fun e => e.1 == r) with
  | some e => e.2
  | none => s.rowBits c r

/-- The inputs of a pending row ALU operation. -/
def State.aluIn (s : State) (c : Nat) (o : Operands) (read : List (Nat × BitVec 2048)) (vd va vb vc : Word) : AluIn :=
  { a := s.sourceRow c read (rowOf o 1 va), b := s.sourceRow c read (rowOf o 2 vb), c := s.sourceRow c read (rowOf o 3 vc),
    vd := vd, va := va, vb := vb, vc := vc }

/-- Lanes written into a row of a core. -/
def State.writeLanes (s : State) (c : Nat) (w : AluWrite) : State :=
  s.setRowBits c w.row (putLanes w.width w.start w.codes (s.rowBits c w.row))

/-- A write covers the byte with a key of a core's array. -/
def AluWrite.covers (w : AluWrite) (c key : Nat) : Bool :=
  decide (rowKey c w.row ((w.start * w.width + 7) / 8) ≤ key)
    && decide (key < rowKey c w.row ((w.start + w.codes.length) * w.width / 8))

/-- The writes of an operation reach each row in one access (R192), so an atom that they cover whole together loses its error (R85).
DESIGN CHOICE (log 87): an atom that they cover in part keeps its error, the write is made, and it reports nothing. -/
def State.cleanseLanes (s : State) (c : Nat) (ws : List AluWrite) : State :=
  { s with poison := s.poison.filter (fun a => !(upto 32).all (fun k => ws.any (fun w => w.covers c (a * 32 + k)))) }

/-- A row ALU operation of row r completes (R192): its rows, then its register. -/
def State.aluFinish (s : State) (c r : Nat) (i : Instr) (x : AluIn) : State :=
  let s1 := ((aluWrites i x).foldl (fun (t : State) w => t.writeLanes c w) s).cleanseLanes c (aluWrites i x)
  match aluReg i x with
  | some (d, v) => s1.setRegOf c r d v
  | none => s1

/-! ### The instructions -/

/-- R193. -/
def execRadd (o : Operands) (s : State) : Result := .next (s.aluIssue (.radd o) o)
/-- R193. -/
def execRsub (o : Operands) (s : State) : Result := .next (s.aluIssue (.rsub o) o)
/-- R193. -/
def execRmul (o : Operands) (s : State) : Result := .next (s.aluIssue (.rmul o) o)
/-- R193. -/
def execRfma (o : Operands) (s : State) : Result := .next (s.aluIssue (.rfma o) o)
/-- R193. -/
def execRmax (o : Operands) (s : State) : Result := .next (s.aluIssue (.rmax o) o)
/-- R193. -/
def execRmin (o : Operands) (s : State) : Result := .next (s.aluIssue (.rmin o) o)
/-- R193. -/
def execRabs (o : Operands) (s : State) : Result := .next (s.aluIssue (.rabs o) o)
/-- R193. -/
def execRneg (o : Operands) (s : State) : Result := .next (s.aluIssue (.rneg o) o)
/-- R193. -/
def execRscal (o : Operands) (s : State) : Result := .next (s.aluIssue (.rscal o) o)
/-- R194. -/
def execRcmpCc (o : Operands) (s : State) : Result := .next (s.aluIssue (.rcmpCc o) o)
/-- R195. -/
def execRsel (o : Operands) (s : State) : Result := .next (s.aluIssue (.rsel o) o)
/-- R196. -/
def execRsum (o : Operands) (s : State) : Result := .next (s.aluIssue (.rsum o) o)
/-- R196. -/
def execRmaxr (o : Operands) (s : State) : Result := .next (s.aluIssue (.rmaxr o) o)
/-- R196. -/
def execRdot (o : Operands) (s : State) : Result := .next (s.aluIssue (.rdot o) o)
/-- R197. -/
def execRscan (o : Operands) (s : State) : Result := .next (s.aluIssue (.rscan o) o)
/-- R198. -/
def execRcvt (o : Operands) (s : State) : Result := .next (s.aluIssue (.rcvt o) o)
/-- R200. -/
def execRqnt (o : Operands) (s : State) : Result := .next (s.aluIssue (.rqnt o) o)
/-- R201. -/
def execRdqnt (o : Operands) (s : State) : Result := .next (s.aluIssue (.rdqnt o) o)
/-- R199. -/
def execRpack (o : Operands) (s : State) : Result := .next (s.aluIssue (.rpack o) o)
/-- R199. -/
def execRunpk (o : Operands) (s : State) : Result := .next (s.aluIssue (.runpk o) o)
/-- R202. -/
def execRexp2 (o : Operands) (s : State) : Result := .next (s.aluIssue (.rexp2 o) o)
/-- R202. -/
def execRlog2 (o : Operands) (s : State) : Result := .next (s.aluIssue (.rlog2 o) o)
/-- R202. -/
def execRrcp (o : Operands) (s : State) : Result := .next (s.aluIssue (.rrcp o) o)
/-- R202. -/
def execRrsqrt (o : Operands) (s : State) : Result := .next (s.aluIssue (.rrsqrt o) o)
/-- R203. -/
def execRperm (o : Operands) (s : State) : Result := .next (s.aluIssue (.rperm o) o)
/-- R203. -/
def execRbcast (o : Operands) (s : State) : Result := .next (s.aluIssue (.rbcast o) o)
/-- R203. -/
def execRmov (o : Operands) (s : State) : Result := .next (s.aluIssue (.rmov o) o)
/-- R203. -/
def execRclr (o : Operands) (s : State) : Result := .next (s.aluIssue (.rclr o) o)
/-- R203. -/
def execRiota (o : Operands) (s : State) : Result := .next (s.aluIssue (.riota o) o)
/-- R204. -/
def execRbitAnd (o : Operands) (s : State) : Result := .next (s.aluIssue (.rbitAnd o) o)
/-- R204. -/
def execRbitOr (o : Operands) (s : State) : Result := .next (s.aluIssue (.rbitOr o) o)
/-- R204. -/
def execRbitXor (o : Operands) (s : State) : Result := .next (s.aluIssue (.rbitXor o) o)
/-- R204. -/
def execRbitAndn (o : Operands) (s : State) : Result := .next (s.aluIssue (.rbitAndn o) o)
/-- R204. -/
def execRbitNot (o : Operands) (s : State) : Result := .next (s.aluIssue (.rbitNot o) o)
/-- R204. -/
def execRshShl (o : Operands) (s : State) : Result := .next (s.aluIssue (.rshShl o) o)
/-- R204. -/
def execRshShr (o : Operands) (s : State) : Result := .next (s.aluIssue (.rshShr o) o)
/-- R204. -/
def execRshSar (o : Operands) (s : State) : Result := .next (s.aluIssue (.rshSar o) o)
/-- R204. -/
def execRshRol (o : Operands) (s : State) : Result := .next (s.aluIssue (.rshRol o) o)
/-- R205. -/
def execRget (o : Operands) (s : State) : Result := .next (s.aluIssue (.rget o) o)
/-- R205. -/
def execRset (o : Operands) (s : State) : Result := .next (s.aluIssue (.rset o) o)

end Sys2Proof.Machine
end

