-- ==== Sys2Proof/Machine/Sync.lean ====
section
/-! DEFINITION. Clasps, tags, gang barriers, guards and core registers (R46, R47, R101, R169, R173, R175 to R181). -/

namespace Sys2Proof.Machine

/-! ### `clarm` (R169) -/

/-- The arming fields of `cl` rewritten. -/
def armClasp (cl : Word) (expect : Nat) (timed : Bool) (deadline : Nat) : Word :=
  let c1 := putBit (putBits cl 16 16 expect) 33 timed
  putBit (if timed then putBits c1 35 29 deadline else c1) 32 true

/-- The wait-table entry that a timed clasp holds (R108). -/
def State.timedEntry (s : State) (timed : Bool) : State :=
  if !timed then s.dropWaits s.curCore (fun e => e.row == s.curRow && e.on == .timedClasp)
  else if s.hasWait s.curCore s.curRow WaitOn.isTimed then s
  else s.addWait s.curCore { row := s.curRow, on := .timedClasp, met := false }

/-- R169. -/
def execClarm (o : Operands) (s : State) : Result :=
  let timed := o.a != 0
  if timed && !s.hasWait s.curCore s.curRow WaitOn.isTimed && !s.waitRoom s.curCore then .next s
  else
    let s1 := (s.timedEntry timed).setReg 1 (armClasp (s.reg 1) (o.immAt 0 16) timed (bitsAt (s.reg o.ra) 0 29))
    .next ((s1.evalClasp s1.curCore s1.curRow).advance o)

/-! ### Tags (R173) -/

/-- TAGS of the issuing row's core written; a tag that is clear is no longer one that an acknowledgement set (R360). -/
def State.setTags (s : State) (v : Word) : State :=
  s.setCore s.curCore { s.core s.curCore with tags := v, sysTags := (s.core s.curCore).sysTags &&& v }

/-- R173. -/
def execTagclr (o : Operands) (s : State) : Result :=
  .next ((s.setTags ((s.core s.curCore).tags &&& ~~~(s.reg o.ra ||| o.imm))).advance o)

/-- R173, which has it clear the tag, where the table of R20 names `tagclr` alone: DEDUCED (log 89). A tag that an acknowledgement set is
acquired at system scope (R317, R360). -/
def execTagffr (o : Operands) (s : State) : Result :=
  let t := (s.core s.curCore).tags &&& (s.reg o.ra ||| o.imm)
  match (upto 64).find? (fun i => bitAt t i) with
  | none => .next (s.finish o 64)
  | some i =>
    .next (((s.acquireTags s.curCore (word (2 ^ i))).setTags (putBit (s.core s.curCore).tags i false)).finish o (word i))

/-! ### Gang barriers (R175 to R179) -/

/-- The episode in progress completes when its count is enough (R175, R176). -/
def GangSt.complete (x : GangSt) (d : Desc) (t : Nat) : GangSt :=
  if d.members + 1 ≤ x.arrivals then
    { x with
      due := x.due ++ [{ number := x.episode, t := d.release t, held := false }]
      episode := x.episode + 1
      arrivals := 0
      heldDesc := false }
  else x

/-- The entry of the row follows the episode in progress (R175). -/
def State.barrierEntry (s : State) (g ep : Nat) : State :=
  let e : WaitEntry := { row := s.curRow, on := .barrier g ep, met := false }
  (s.dropWaits s.curCore (fun x => x.row == s.curRow && x.on.isBarrier)).addWait s.curCore e

/-- An arrival of the issuing row (R175): counted, followed by its entry, and the episode completes or is held. -/
def State.arriveBarrier (s : State) : State :=
  let p := s.partid s.curCore
  let g := ctlGang (s.ctl s.curCore s.curRow)
  let x := s.gang p g
  let s1 := s.barrierEntry g x.episode
  let y := { x with arrivals := x.arrivals + 1 }
  match s1.descriptor p g with
  | (none, s2) => s2.setGang p g { y with heldDesc := true }
  | (some d, s2) => s2.setGang p g (y.complete d s.time.toNat)

/-- The issuing row waits on the episode of its entry (R177): it stays OPEN and stalled while no READY row could take the
latch, else it closes into WAIT. -/
def State.waitBarrier (s : State) (o : Operands) : State :=
  if (s.eligible s.curCore).isEmpty then (s.advance o).setIntent s.curCore s.curRow .stalled
  else s.closing (.wait 4 (s.next o))

/-- The wait table has an entry for the row, or room for one (R108, R175). -/
def State.barrierRoom (s : State) : Bool :=
  s.hasWait s.curCore s.curRow WaitOn.isBarrier || s.waitRoom s.curCore

/-- R175. -/
def execGbar (o : Operands) (s : State) : Result :=
  if s.barrierRoom then .next (s.arriveBarrier.waitBarrier o) else .next s

/-- R175. -/
def execGbarArrive (o : Operands) (s : State) : Result :=
  if s.barrierRoom then .next (s.arriveBarrier.advance o) else .next s

/-- R175: complete at once when the episode of the entry has released. -/
def execGbarWait (o : Operands) (s : State) : Result :=
  match (s.core s.curCore).waits.find? (fun e => e.row == s.curRow && e.on.isBarrier) with
  | some e =>
    if e.met then .next ((s.dropWaits s.curCore (fun x => x.row == s.curRow && x.on.isBarrier)).advance o)
    else .next (s.waitBarrier o)
  | none =>
    if s.waitRoom s.curCore then
      let g := ctlGang (s.ctl s.curCore s.curRow)
      .next ((s.barrierEntry g (s.gang (s.partid s.curCore) g).episode).waitBarrier o)
    else .next s

/-! ### Guards (R180) -/

/-- GUARD slot k of the core: 0 PEND, 1 TRUE, 2 FALSE (R46). -/
def State.setGuard (s : State) (k v : Nat) : State :=
  s.setCore s.curCore { s.core s.curCore with guards := putBits (s.core s.curCore).guards (2 * k) 2 v }

/-- R180. -/
def execGset (o : Operands) (s : State) : Result :=
  .next ((s.setGuard (o.immAt 0 4) (if s.reg o.ra ≠ 0 then 1 else 2)).advance o)
/-- R180. -/
def execGsetClr (o : Operands) (s : State) : Result := .next ((s.setGuard (o.immAt 0 4) 0).advance o)

/-! ### Core registers (R46, R47) -/

/-- An index that is not reserved (R46). -/
def kregDefined (k : Nat) : Bool :=
  k < 0x010 || (0x100 ≤ k && k < 0x140) || (0x140 ≤ k && k < 0x160) || (0x160 ≤ k && k < 0x163)
/-- Registers that a supervisor writes and a user reads (R46). -/
def kregSupWrite (k : Nat) : Bool := (7 ≤ k && k ≤ 9) || (0x00B ≤ k && k ≤ 0x00E)
/-- Read-only registers (R46). -/
def kregReadOnly (k : Nat) : Bool := k < 4 || k == 6 || k == 0x00A || k == 0x00F || k == 0x161

/-- The value of a core register for a row of the core (R46). DESIGN CHOICE (log 88): all cores read one timebase, where R16 lets two
cores differ by 2 ns. -/
def State.kreg (s : State) (c r k : Nat) : Word :=
  let x := s.core c
  if k = 0 then word (c + s.fabric.nodeId * 2 ^ 8)
  else if k = 1 then s.time
  else if k = 2 then x.tags
  else if k = 3 then x.guards
  else if k = 4 then x.ctab0
  else if k = 5 then x.ctab1
  else if k = 6 then word (s.cadence c)
  else if k = 7 then word x.latmax
  else if k = 8 then word x.quantum
  else if k = 9 then word x.agelim
  else if k = 0x00A then word s.power.shed.toNat
  else if k ≤ 0x00E then x.mbx.get 0 (k - 0x00B)
  else if k = 0x00F then word r
  else if k < 0x140 then x.ctxmap.get 0 (k - 0x100)
  else if k < 0x150 then x.rangeA.get 0 (k - 0x140)
  else if k < 0x160 then x.rangeB.get 0 (k - 0x150)
  else if k = 0x160 then x.codebase
  else if k = 0x161 then word (s.partid c)
  else word x.dlogbase

/-- The rows whose bit a CTXMAP write changes allow it (R101). -/
def State.ctxmapOk (s : State) (c j : Nat) (v : Word) : Bool :=
  (upto 64).all (fun i =>
    let old := bitAt ((s.core c).ctxmap.get 0 j) i
    let st := s.rowState c (64 * j + i)
    old == bitAt v i || st == stIdle || st == stHalt || (old && st == stFault))

/-- The value lies in the register's range and bits (R46, R47, R70, R101, R319). -/
def State.kregOk (s : State) (c k : Nat) (v : Word) : Bool :=
  let n := v.toNat
  if k = 4 ∨ k = 5 then true
  else if k = 7 then decide (1 ≤ n) && decide (n ≤ 8)
  else if k = 8 then decide (1 ≤ n) && decide (n ≤ 65535)
  else if k = 9 then decide (1 ≤ n) && decide (n < 2 ^ 32)
  else if k ≤ 0x00E then
    within v (maskBits 0 12 + maskBits 16 12) && bitsAt v 16 12 != 1 && decide (bitsAt v 0 12 + bitsAt v 16 12 ≤ 4096)
  else if k < 0x140 then s.ctxmapOk c (k - 0x100) v
  else if k < 0x150 then within v (maskBits 0 12 + maskBits 16 12) && decide (bitsAt v 0 12 ≤ bitsAt v 16 12)
  else if k < 0x160 then within v (maskBits 0 4 + maskBits 8 12)
  else if k = 0x160 then within v (maskBits 12 45)
  else within v (maskBits 0 12)

/-- A core register written (R181). A free pool row whose CTXMAP bit is cleared leaves its pool (R294). -/
def CoreSt.setKreg (x : CoreSt) (k : Nat) (v : Word) : CoreSt :=
  if k = 4 then { x with ctab0 := v }
  else if k = 5 then { x with ctab1 := v }
  else if k = 7 then { x with latmax := v.toNat }
  else if k = 8 then { x with quantum := v.toNat }
  else if k = 9 then { x with agelim := v.toNat }
  else if k ≤ 0x00E then { x with mbx := x.mbx.set 0 (k - 0x00B) v }
  else if k < 0x140 then
    let j := k - 0x100
    { x with ctxmap := x.ctxmap.set 0 j v, pool := x.pool.filter (fun q => q.lent || q.row / 64 != j || bitAt v (q.row % 64)) }
  else if k < 0x150 then { x with rangeA := x.rangeA.set 0 (k - 0x140) v }
  else if k < 0x160 then { x with rangeB := x.rangeB.set 0 (k - 0x150) v }
  else if k = 0x160 then { x with codebase := v }
  else { x with dlogbase := v.toNat }

/-- The trap of a `kget`, or of a `kset`, by the order of R47. -/
def State.kregTrap (s : State) (k : Nat) (set : Option Word) : Option Cause :=
  let user := !ctlMode (s.ctl s.curCore s.curRow)
  if !kregDefined k then some .ill
  else if user && decide (0x100 ≤ k) then some .priv
  else
    match set with
    | none => none
    | some v =>
      if user && kregSupWrite k then some .priv
      else if kregReadOnly k then some .ill
      else if !s.kregOk s.curCore k v then some .ill
      else none

/-- R181. -/
def execKget (o : Operands) (s : State) : Result :=
  match s.kregTrap (o.immAt 0 10) none with
  | some k => .next (s.trap o k 0)
  | none => .next (s.finish o (s.kreg s.curCore s.curRow (o.immAt 0 10)))

/-- R181. -/
def execKset (o : Operands) (s : State) : Result :=
  let v := s.reg o.ra
  match s.kregTrap (o.immAt 0 10) (some v) with
  | some k => .next (s.trap o k 0)
  | none => .next ((s.setCore s.curCore ((s.core s.curCore).setKreg (o.immAt 0 10) v)).advance o)

end Sys2Proof.Machine
end

