-- ==== Sys2Proof/Machine/Scheduler.lean ====
section
/-! DEFINITION. The scheduler's steps: completion of long-latency operations (R113), trap entry (R122, R125), activation,
closing, quantum and aging (R109 to R112), requests and outside accesses (R103, R105), clasps, timed wakes, barrier releases
and the end of a revocation (R91, R138, R170, R171, R175 to R178). -/

namespace Sys2Proof.Machine

/-! ### Completion of long-latency operations (R113) -/

/-- The k-th pending operation of a row is done. -/
def State.dropPending (s : State) (c r k : Nat) : State := s.modLatch c r (fun l => { l with pending := dropNth l.pending k })

/-- The k-th pending operation reports a fault (R122). -/
def State.failPending (s : State) (c r k : Nat) (p : Pending) (cause : Cause) : State :=
  (s.dropPending c r k).deferFault c r { cause := cause, pc := p.pc, code := if cause == .cwstate then 1 else 0, deferred := decide (0 < p.since), len := p.len }

/-- A global access of a row waits for an earlier one of the row: to the same bytes (R357), or by the loop-back path (R363). -/
def State.globalHeld (s : State) (c r seq va n : Nat) : Bool :=
  s.olderStore c r seq va n || s.olderAccess c r seq va n || s.olderSend c r seq va n || (s.loopBack c va && s.loopBackHeld c r seq)

/-- The answer of another device to an access of a row (R324). -/
def State.remoteAnswer (s : State) (c r ea : Nat) : Acc (List Byte) × State :=
  match s.msgs.findIdx? (fun m => m.remote && m.mkind == 3 && m.chan == 0 && m.id.isRow c r && m.addr == ea) with
  | none => (.hold, s)
  | some k =>
    match s.msgs[k]? with
    | none => (.hold, s)
    | some m =>
      (if m.aux = 0 then .ok m.data else .fault (causeOf m.aux), { s with msgs := dropNth s.msgs k })

/-- The bytes that a pending load or `ldm` of a row finds; held while an earlier access that it follows is on its way. -/
def State.pendingLoad (s : State) (c r : Nat) (p : Pending) (glob : Bool) (ea n : Nat) (multi : Bool) : Acc (List Byte) × State :=
  if glob then
    if s.globalHeld c r p.seq ea n then (.hold, s)
    else if !s.isLocal ea then s.remoteAnswer c r ea
    else s.anyLoad (s.ident c r) ea n multi
  else if s.rowSpaceHeld c r p.seq (ea / 256) then (.hold, s)
  else if s.poisoned (arrayKey c ea) n then (.fault .memerr, s)
  else (.ok (s.shownBytes c ea n), s.touch c (ea / 256))

/-- Registers from wd take consecutive words (R156). -/
def State.setRegs (s : State) (c r d : Nat) : List Word → State
  | [] => s
  | v :: vs => (s.setRegOf c r d v).setRegs c r (d + 1) vs

/-- An acquire at system scope acts on the grove's slice (R80). -/
def State.acquireAt (s : State) (c : Nat) (acquire : Bool) (scope : Nat) : State :=
  if acquire && scope == scopeSystem then s.sysAcquire (groveOf c) else s

/-- A pending atomic of a row: its old value, and the state (R164, R168, R324). -/
def State.pendingAtomic (s : State) (c r : Nat) (p : Pending) (rowSpace : Bool) (ea : Nat) (a : AtomicOp) : Acc Nat × State :=
  if rowSpace then
    if s.rowSpaceHeld c r p.seq (ea / 256) then (.hold, s)
    else
      match s.arrayAtomic c ea a with
      | .ok (old, t) => (.ok old, t.touch c (ea / 256))
      | .fault k => (.fault k, s)
      | .hold => (.hold, s)
  else if s.globalHeld c r p.seq ea a.size then (.hold, s)
  else if !s.isLocal ea then
    match s.remoteAnswer c r ea with
    | (.ok bs, t) => (.ok (natOfBytes (bs.take a.size)), t)
    | (.fault k, t) => (.fault k, t)
    | (.hold, t) => (.hold, t)
  else s.anyAtomic (s.ident c r) ea a

/-- `lock` at completion: the faults of a load of one byte, then its status (R160). Another device's line is not cached here:
NOTCACHE (log 26), which an address of REGION 10 gives whatever the quota (DESIGN CHOICE, log 76). It waits where its way is being
removed (R82). -/
def State.finishLock (s : State) (c r ea : Nat) : Acc Nat × State :=
  if !s.isLocal ea then
    match s.remoteAnswer c r ea with
    | (.ok _, t) => (.ok 3, t)
    | (.fault k, t) => (.fault k, t)
    | (.hold, t) => (.hold, t)
  else
    match s.anyLoad (s.ident c r) ea 1 false with
    | (.ok _, t) =>
      if vaRegion ea = 2 then (.ok 3, t)
      else if t.lockHeld (groveOf c) (t.partid c) ea then (.hold, s)
      else
        let x := t.lockLine (groveOf c) (t.partid c) ea
        (.ok x.1, x.2)
    | (.fault k, t) => (.fault k, t)
    | (.hold, t) => (.hold, t)

/-- The k-th pending operation of a row completes: its registers are written, or its fault is taken; it stays pending while
it is held. -/
def State.complete (s : State) (c r k : Nat) (p : Pending) : State :=
  match p.op with
  | .value d v => (s.dropPending c r k).setRegOf c r d v
  | .taken d v _ => (s.dropPending c r k).setRegOf c r d v
  | .load d n sgn glob ea scope =>
    match s.pendingLoad c r p glob ea n false with
    | (.ok bs, t) => ((t.dropPending c r k).setRegOf c r d (loadValue sgn bs)).acquireAt c p.acquire scope
    | (.fault x, t) => t.failPending c r k p x
    | (.hold, _) => s
  | .loadMany d n glob ea =>
    match s.pendingLoad c r p glob ea (8 * n) true with
    | (.ok bs, t) => (t.dropPending c r k).setRegs c r d (wordsOf bs)
    | (.fault x, t) => t.failPending c r k p x
    | (.hold, _) => s
  | .atomic i ea y z =>
    match atomicOf i y z, i.operands? with
    | some a, some o =>
      (match s.pendingAtomic c r p o.rowSpace ea a with
      | (.ok old, t) => ((t.dropPending c r k).setRegOf c r o.rd (a.result old)).acquireAt c p.acquire o.immScope
      | (.fault x, t) => t.failPending c r k p x
      | (.hold, _) => s)
    | _, _ => s
  | .rowAlu i vd va vb vc rd =>
    match i.operands? with
    | some o =>
      if s.aluHeld c r p.seq then s
      else if p.rrows.any (fun x => !rd.any (fun e => e.1 == x) && s.poisoned (rowKey c x 0) 256) then s.failPending c r k p .memerr
      else (s.dropPending c r k).aluFinish c r i (s.aluIn c o rd vd va vb vc)
    | none => s
  | .lock d ea =>
    match s.finishLock c r ea with
    | (.ok v, t) => (t.dropPending c r k).setRegOf c r d (word v)
    | (.fault x, t) => t.failPending c r k p x
    | (.hold, _) => s
  | .gresize d n =>
    if s.resizeBefore (groveOf c) p.seq then s
    else
    let x := s.resizeGrove (groveOf c) n
    (x.2.dropPending c r k).setRegOf c r d (word x.1)
  | .launch d (some v) => (s.dropPending c r k).setRegOf c r d v
  | .launch _ none => s

/-- R113. -/
def execLongLatencyCompletion (core row k : Nat) (s : State) : Result :=
  match (s.pendingOf core row)[k]? with
  | none => .next s
  | some p => .next (s.complete core row k p)

/-! ### Traps (R122, R125, R126) -/

/-- A row has no pending operation and no outstanding store. DESIGN CHOICE (log 25): R109 and R122 name the pending operations only;
here a trap entry and a close also wait until every global store of the row is accepted or refused, so that a refusal finds its
row open. -/
def State.drainedRow (s : State) (c r : Nat) : Bool := (s.pendingOf c r).isEmpty && (s.outstanding c r).isEmpty

/-- The length in 4-byte units of what stands at a row's PC: an instruction, or a pad word (R28); 0 when it cannot be fetched (R126). -/
def State.lengthHere (s : State) (c r : Nat) : Nat :=
  let n := s.nextInstr c r
  if n.1 = s.rowPc c r then n.2 else 1

/-- R122: a drained row enters its trap. WDOG names the first instruction that has not issued, and NEXT of a deferred fault leads to
it, past pads (R28, R126). -/
def execTrapEntry (core row : Nat) (s : State) : Result :=
  match s.latch? core row with
  | none => .next s
  | some l => (match l.intent with
    | .trap t =>
      if !s.drainedRow core row then .next s
      else if t.cause = .wdog then
        let n := s.nextInstr core row
        .next (s.enterTrap core row { t with pc := n.1, len := n.2, deferred := false })
      else if t.deferred then .next ((s.setRowPc core row (s.nextInstr core row).1).enterTrap core row t)
      else .next (s.enterTrap core row t)
    | .run => .next s
    | .close _ => .next s
    | .stalled => .next s)

/-- An OPEN row stalled in `gbar` that takes an ENGINE trap is to stall there again after `tret` (log 55). -/
def State.leaveBarrier (s : State) (c r : Nat) (l : Latch) : State :=
  if l.intent = .stalled then s.setCore c { s.core c with barred := (s.core c).barred ++ [r] } else s

/-- R125: a pending ENGINE trap is taken at a boundary of an OPEN row, stalled in `gbar` or not, once it has drained. -/
def execEngineTrapDelivery (core row : Nat) (s : State) : Result :=
  match s.latch? core row, (s.core core).engTraps.find? (fun e => e.1 == row) with
  | some l, some e =>
    if (l.intent ≠ .run ∧ l.intent ≠ .stalled) ∨ bitAt (s.slot core row 3) 40 ∨ !s.drainedRow core row then .next s
    else
      let n := s.nextInstr core row
      let s1 := s.setCore core { s.core core with engTraps := (s.core core).engTraps.filter (fun x => x.1 != row) }
      .next ((s1.leaveBarrier core row l).enterTrap core row {
        cause := .engine, pc := n.1, code := e.2, deferred := false, len := n.2 })
  | _, _ => .next s

/-! ### Opening and closing (R109 to R112) -/

/-- The lowest latch number that is free. -/
def CoreSt.freeLatchNo (x : CoreSt) : Nat := ((upto 8).find? (fun i => !x.latches.any (fun l => l.idx == i))).getD 0

/-- A row whose atoms hold an error goes to FAULT as it opens or closes (R85). DESIGN CHOICE (log 59): the spec gives neither p nor
NEXT here; p is the PC of the control word and NEXT is 0. -/
def State.rowError (s : State) (c r : Nat) : State :=
  s.endRow c r { cause := .memerr, pc := s.rowPc c r, code := 0, deferred := false, len := 0 }

/-- R111: the next row is opened into a latch; not in a grove that sleeps (R349). -/
def execActivation (core : Nat) (s : State) : Result :=
  if (s.core core).latmax ≤ (s.core core).latches.length ∨ s.absent core ∨ s.asleep (groveOf core) then .next s
  else
    match s.nextReady core with
    | none => .next s
    | some e =>
      let s1 := s.leaveFifo core e.row
      if s1.poisoned (rowKey core e.row 0) 256 then .next (s1.rowError core e.row)
      else
        let x := s1.core core
        let l : Latch := {
          idx := x.freeLatchNo, row := e.row, count := 0, pending := [], intent := .run, block := none, hold := 0, gather := none }
        .next (((s1.setCore core { x with latches := x.latches ++ [l] }).setRowState core e.row stOpen).trimTarget core e.row)

/-- The gang of a row is stopped. -/
def State.rowGangStopped (s : State) (c r : Nat) : Bool := (s.gang (s.partid c) (ctlGang (s.ctl c r))).stopped

/-- A row that has closed is READY, or STOPPED while its gang is stopped (R107). -/
def State.closedReady (s : State) (c r : Nat) : State :=
  if s.rowGangStopped c r then (s.setWaitKind c r 0).setRowState c r stStopped else (s.setWaitKind c r 0).makeReady c r

/-- A wait of a closing row was met in the meantime (R138, R171). DESIGN CHOICE (log 60): an outside store that clears ARMED while
a `wait.clasp` row still drains (R106) counts as well, since the condition of R9 for waiting no longer holds. -/
def State.waitMet (s : State) (c r kind : Nat) : Bool :=
  if kind = 1 then !bitAt (s.slot c r 1) 32
  else (s.core c).waits.any (fun e => e.row == r && e.met && (if kind = 4 then e.on.isBarrier else e.on.isWait))

/-- A row closes into WAIT, or is READY at once when its wait was met during the close. -/
def State.closedWait (s : State) (c r kind : Nat) : State :=
  if s.waitMet c r kind then
    (s.dropWaits c (fun e => e.row == r && e.met && (if kind = 4 then e.on.isBarrier else e.on.isWait))).closedReady c r
  else (s.setWaitKind c r kind).setRowState c r (if s.rowGangStopped c r then stStopped else stWait)

/-- The close of a row ends (R109, R107). One that closes for a stop of its gang is READY where the gang has resumed meanwhile
(R373). -/
def State.closed (s : State) (c r : Nat) (dest : CloseTo) : State :=
  let s1 := s.freeLatch c r
  if s1.poisoned (rowKey c r 0) 256 then s1.rowError c r
  else
    match dest with
    | .ready | .stopped => (s1.closedReady c r).countStop c r
    | .wait kind pc => ((s1.setRowPc c r pc).closedWait c r kind).countStop c r
    | .halt pc =>
      (((((s1.setRowPc c r pc).setWaitKind c r 0).setRowState c r stHalt)).returnPool c r).postTraps c r

/-- A row stalled in `gbar` must give up its latch: a READY row could take it, or its release is held (R177, R178). -/
def State.stallEnds (s : State) (c r : Nat) : Bool :=
  !(s.eligible c).isEmpty || (s.gang (s.partid c) (ctlGang (s.ctl c r))).due.any (fun e => e.held)

/-- R109: a drained row that closes. -/
def execRowClose (core row : Nat) (s : State) : Result :=
  match s.latch? core row with
  | none => .next s
  | some l =>
    if !s.drainedRow core row then .next s
    else (match l.intent with
      | .close dest => .next (s.closed core row dest)
      | .stalled => if s.stallEnds core row then .next (s.closed core row (.wait 4 (s.rowPc core row))) else .next s
      | .run => .next s
      | .trap _ => .next s)

/-- R112: an OPEN row at its quantum closes for a READY row. -/
def execQuantumExpiry (core row : Nat) (s : State) : Result :=
  match s.latch? core row with
  | none => .next s
  | some l => if l.intent = .run ∧ s.quantumDue core row then .next (s.setIntent core row (.close .ready)) else .next s

/-- R111: cycles pass for the READY rows whose class is not shed. -/
def execAging (core cycles : Nat) (s : State) : Result :=
  .next (s.setCore core { s.core core with
    fifo := (s.core core).fifo.map (fun (e : FifoEntry) =>
      if s.isShed (ctlClass (s.ctl core e.row)) then e else { e with age := e.age + cycles }) })

/-! ### Requests and outside accesses (R103, R105) -/

/-- The k-th request is done. -/
def State.dropReq (s : State) (k : Nat) : State := { s with rowReqs := dropNth s.rowReqs k }

/-- R103: a control request at its row's boundary, or at the array. -/
def execControlRequest (k : Nat) (s : State) : Result :=
  match s.rowReqs[k]? with
  | some q =>
    if q.ctl && s.reqMay k q then
      .next (((s.dropReq k).applyControl q.id q.core q.row (word (natOfBytes q.data))).touch q.core q.row)
    else .next s
  | none => .next s

/-- R105: an outside store at its row's boundary, or at the array. -/
def execOutsideAccess (k : Nat) (s : State) : Result :=
  match s.rowReqs[k]? with
  | some q =>
    if !q.ctl && s.reqMay k q then .next (((s.dropReq k).applyRowStore q.id q.core q.row q.off q.data).touch q.core q.row)
    else .next s
  | none => .next s

/-! ### Clasps and timed wakes -/

/-- R170: the oldest arrival at a clasp; it waits while the grove of the row sleeps (R349). -/
def execClaspArrival (k : Nat) (s : State) : Result :=
  match s.arrivals[k]? with
  | none => .next s
  | some a =>
    if (s.arrivals.take k).any (fun b => b.core == a.core && b.row == a.row) then .next s
    else if s.asleep (groveOf a.core) then .next s
    else .next (({ s with arrivals := dropNth s.arrivals k }).arriveAt a)

/-- R171: the deadline of a timed clasp of a context row has passed; its grove has woken for it (R348). -/
def execClaspDeadline (core row : Nat) (s : State) : Result :=
  if s.isContext core row && !s.swappedOut core && bitAt (s.slot core row 1) 33 && deadlinePassed s.time (bitsAt (s.slot core row 1) 35 29) && !s.asleep (groveOf core)
      && !s.absent core then
    .next (s.evalClasp core row)
  else .next s

/-- R138: the timebase has reached the time a row waits for; its grove has woken for it (R348). -/
def execTimeWake (core row : Nat) (s : State) : Result :=
  match if s.asleep (groveOf core) then none else (s.core core).waits.find? (fun e => e.row == row && (match e.on with
      | .time t => decide (t ≤ s.time) && !e.met
      | .tagsAll _ => false
      | .tagsAny _ => false
      | .barrier _ _ => false
      | .timedClasp => false)) with
  | none => .next s
  | some e => .next (s.satisfy core e)

/-! ### Barriers (R175, R176, R178) -/

/-- The barrier entry of a row for a released episode: the row resumes, or the entry records the release (R176). -/
def State.releaseRow (s : State) (c : Nat) (e : WaitEntry) : State :=
  let gone := s.dropWaits c (fun x => x == e)
  if (s.rowState c e.row = stWait ∨ s.rowState c e.row = stStopped) ∧ ctlWait (s.ctl c e.row) = 4 then gone.wake c e.row
  else
    match s.latch? c e.row with
    | some l =>
      if l.intent = .stalled then gone.setIntent c e.row .run
      else s.setCore c { s.core c with waits := (s.core c).waits.map (fun (x : WaitEntry) => if x == e then { x with met := true } else x) }
    | none => s.setCore c { s.core c with waits := (s.core c).waits.map (fun (x : WaitEntry) => if x == e then { x with met := true } else x) }

/-- Every entry of an episode of a gang is released, and WDCNT returns to 0 (R176, R380). -/
def State.releaseEpisode (s : State) (p g n : Nat) : State :=
  let s1 := (s.coresOf p).foldl (fun (t : State) c =>
    ((t.core c).waits.filter (fun e => e.on == .barrier g n)).foldl (fun (u : State) e => u.releaseRow c e) t) s
  let x := s1.gang p g
  s1.setGang p g { x with due := x.due.filter (fun e => e.number != n), wdcnt := 0 }

/-- The release instant of a completed episode has come (R176); the release is held while the class of the gang's descriptor is shed
(R178). No member is released while the descriptor breaks R121, and none while the partition is swapped out (R377). -/
def State.releaseDue (s : State) (part gang : Nat) : State :=
  let x := s.gang part gang
  match x.due.find? (fun e => !e.held && decide (e.t ≤ s.time.toNat)) with
  | none => s
  | some e =>
    if (s.part part).saved.isSome then s
    else
      match s.gangClass part gang with
      | none => s
      | some k =>
        if s.isShed k then
          s.setGang part gang { x with
            due := x.due.map (fun (d : Episode) => if d.number == e.number then { d with held := true } else d) }
        else s.releaseEpisode part gang e.number

/-- The gang was held or stopped by shedding, and its class, which its descriptor now tells, is not shed: the class left SHED while the
descriptor broke R121 (R121, R178, log 77). -/
def State.leftShed (s : State) (p g : Nat) : Bool :=
  ((s.gang p g).shed || (s.gang p g).due.any (fun e => e.held)) && (s.gangClass p g).any (fun k => !s.isShed k)

/-- R176, R178. -/
def execBarrierRelease (part gang : Nat) (s : State) : Result :=
  .next (if s.leftShed part gang then s.unshedGang part gang else s.releaseDue part gang)

/-- R175: the descriptor of a held episode is read again. -/
def execBarrierReread (part gang : Nat) (s : State) : Result :=
  if !(s.gang part gang).heldDesc then .next s
  else
    match s.descriptor part gang with
    | (none, s1) => .next s1
    | (some d, s1) => .next (s1.setGang part gang ((s1.gang part gang).complete d s1.time.toNat))

/-! ### The end of a revocation (R91) -/

/-- Every member row is IDLE, HALT, FAULT or STOPPED, or waits in `gbar`. -/
def State.membersQuiet (s : State) (p g : Nat) : Bool :=
  (s.members p g).all (fun x => !running (s.rowState x.1 x.2) || s.atBarrier x.1 x.2)

/-- A record of the gang that began under the old lease is still in progress (R254, log 32). -/
def State.oldWork (s : State) (p g : Nat) : Bool :=
  (s.coresOf p).any (fun c => (upto 4).any (fun ch => ((s.core c).chan ch).id.inGang p g && ((s.core c).chan ch).revoked))

end Sys2Proof.Machine
end

