-- ==== Sys2Proof/Machine/Supervisor.lean ====
section
/-! DEFINITION. Supervisor instructions other than `lease` and `rowpool`: `gstop`, `gresume`, `tlbinv`, `dlharvest`, `preq`
and `mcall` (R92, R93, R347, R353, R370, R371, R373). -/

namespace Sys2Proof.Machine

/-! ### `gstop` (R370, R371) -/

/-- The gang of the issuing row. -/
def State.myGang (s : State) : Nat := ctlGang (s.ctl s.curCore s.curRow)
def State.myPart (s : State) : Nat := s.partid s.curCore

/-- Every slice of a partition writes its dirty lines back and keeps them. -/
def State.releaseAll (s : State) (p : Nat) : State :=
  ((upto numGroves).filter (fun g => s.owns p g)).foldl (fun (t : State) g => t.sysRelease g) s

/-- Completion of a stop acts as an acquire at system scope of every write of the stopped gangs (R364). -/
def State.stopDone (s : State) (o : Operands) (rows : Nat) : State :=
  (((s.leaveStop s.curCore s.curRow).releaseAll s.myPart).sysAcquire s.myGrove).finish o (word (rows * 2 ^ 32))

/-- A `gstop` that issues sets the marks of its gangs, and completes where every one is at rest; else its row stalls, with the gang it
named (`only`, none for the partition form). -/
def State.stopGangs (s : State) (o : Operands) (only : Option Nat) : State :=
  let p := s.myPart
  let gs := stopSet s.myGang only
  let rows := (gs.map (fun g => s.markRows p g)).sum
  let s1 := gs.foldl (fun (t : State) g => t.setMark p g .sup) s
  if s1.stopRests p s.myGang only then s1.stopDone o rows
  else (s1.setCore s1.curCore { s1.core s1.curCore with
    gstops := (s1.core s1.curCore).gstops ++ [{
      row := s1.curRow, rows := rows, todo := gs.flatMap (fun g => s.markOpen p g), gang := only }] }).stallHere

/-- A `gstop` that stalls goes on waiting for the gangs that it named when it issued, or completes (R370). -/
def State.awaitStop (s : State) (o : Operands) (e : StopWait) : State :=
  if s.stopRests s.myPart s.myGang e.gang then s.stopDone o e.rows else s

/-- The `gstop` in which the issuing row stalls. -/
def State.stopWait? (s : State) : Option StopWait := (s.core s.curCore).gstops.find? (fun e => e.row == s.curRow)

/-- R370, R371. -/
def execGstop (o : Operands) (s : State) : Result :=
  let a := s.reg o.ra
  match s.stopWait? with
  | some e => .next (s.awaitStop o e)
  | none =>
    if bitsAt a 12 52 ≠ 0 then .next (s.trap o .ill 0)
    else if a.toNat = s.myGang then .next (s.finish o 1)
    else .next (s.stopGangs o (some a.toNat))

/-- R370, R371. -/
def execGstopP (o : Operands) (s : State) : Result :=
  match s.stopWait? with
  | some e => .next (s.awaitStop o e)
  | none => .next (s.stopGangs o none)

/-! ### `gresume` (R370, R373) -/

/-- A `gresume` of a set of gangs: a release at system scope, then SUP is cleared (R364, R373). -/
def State.resumeGangs (s : State) (o : Operands) (gs : List Nat) : State :=
  let p := s.myPart
  let rows := (gs.map (fun g => s.unmarkRows p g .sup)).sum
  let s1 := gs.foldl (fun (t : State) g => t.clearMark p g .sup) (s.sysRelease s.myGrove)
  s1.finish o (word ((if gs.any (fun g => (s1.gang p g).stopped) then 2 else 0) + rows * 2 ^ 32))

/-- R370, R373. -/
def execGresume (o : Operands) (s : State) : Result :=
  let a := s.reg o.ra
  if bitsAt a 12 52 ≠ 0 then .next (s.trap o .ill 0)
  else if a.toNat = s.myGang then .next (s.finish o 1)
  else .next (s.resumeGangs o [a.toNat])

/-- R370, R373. -/
def execGresumeP (o : Operands) (s : State) : Result := .next (s.resumeGangs o (otherGangs s.myGang))

/-! ### `tlbinv` (R92, R119) -/

/-- The range of `tlbinv`: its first byte, by REGION and offset, and its length; none for every translation. It may run on into the
next REGION. -/
def tlbRange (a b : Word) : Option (Nat × Nat) := if b = 0 then none else some (bitsAt a 12 35 * 4096, b.toNat * 4096)

/-- n bytes from an offset of a REGION lie in the range of `tlbinv`. -/
def inTlbRange (r : Option (Nat × Nat)) (region off n : Nat) : Bool :=
  match r with
  | none => true
  | some (lo, len) => overlaps (region * 2 ^ 45 + off) n lo len

/-- The translations of a partition in the range are dropped, and its generation advances (R78, R92). -/
def State.dropTlb (s : State) (p : Nat) (r : Option (Nat × Nat)) : State :=
  let s1 := { s with tlb := s.tlb.filter (fun e => !(e.part == p && inTlbRange r e.region (e.page * e.size) e.size)) }
  s1.setPart p { s1.part p with gen := ((s1.part p).gen + 1) % 65536 }

/-- Translations dropped and the generation advanced; then the slice lines of the range written back, where they now translate to, and
dropped, and code blocks dropped (R92, R119). -/
def State.invalidate (s : State) (p : Nat) (r : Option (Nat × Nat)) : State :=
  ((upto numGroves).filter (fun g => s.owns p g)).foldl (fun (t : State) g =>
    let u := t.flushLines g (fun l => l.part == p && inTlbRange r (vaRegion (l.line * 64)) (l.line * 64 % 2 ^ 45) 64) false
    u.setGrove g { u.grove g with icache := (u.grove g).icache.filter (fun b =>
      !(b.part == p && inTlbRange r (vaRegion b.va) (b.va % 2 ^ 45) 32)) }) (s.dropTlb p r)

/-- R92. A start address with a bit of [63:57] set raises XLATE (R72, log 76). -/
def execTlbinv (o : Operands) (s : State) : Result :=
  if 2 ^ 57 ≤ (s.reg o.ra).toNat then .next (s.trap o .xlate 0)
  else
  let s1 := s.invalidate s.myPart (tlbRange (s.reg o.ra) (s.reg o.rb))
  .next (s1.finish o (word (s1.part s.myPart).gen))

/-! ### Merging the dirty logs (R88, R93) -/

/-- D is set in the leaf entry of a logged block. DESIGN CHOICE (log 85): a block of another NODE, whose own pages R88 does not say who
marks, sets D in this device's leaf of the same REGION and offset. -/
def State.setDirty (s : State) (p va : Nat) : State :=
  match s.walk p va with
  | none => s
  | some l => s.homeWrite (dramKey l.stack l.addr) (bytesOfNat 8 (putBit l.entry 4 true).toNat)

/-- One entry of a core's log is merged: D set, VALID cleared; the count goes on. -/
def State.mergeEntry (s : State) (c i : Nat) (n : Nat) : Nat × State :=
  let row := ((s.core c).dlogbase + i / 32) % 4096
  let e := s.slot c row (i % 32)
  if bitAt e 0 then (n + 1, (s.setDirty (s.partid c) (bitsAt e 16 41 * 2 ^ 16)).setSlot c row (i % 32) (putBit e 0 false))
  else (n, s)

/-- 256 entries of a half are merged. -/
def State.mergeHalf (s : State) (c half : Nat) (n : Nat) : Nat × State :=
  (upto 256).foldl (fun (x : Nat × State) i => x.2.mergeEntry c (256 * half + i) x.1) (n, s)

/-- The log of a core is merged whole and its filter cleared. -/
def State.mergeLog (s : State) (c : Nat) (n : Nat) : Nat × State :=
  let a := s.mergeHalf c 0 n
  let b := a.2.mergeHalf c 1 a.1
  (b.1, b.2.setCore c { b.2.core c with filter := [] })

/-- Every log of a partition. -/
def State.mergeLogs (s : State) (p : Nat) : Nat × State :=
  (s.coresOf p).foldl (fun (x : Nat × State) c => x.2.mergeLog c x.1) (0, s)

/-- R93. -/
def execDlharvest (o : Operands) (s : State) : Result :=
  let r := s.mergeLogs s.myPart
  .next (r.2.finish o (word r.1))

/-- A half of the log holds 256 entries. -/
def State.halfFull (s : State) (c half : Nat) : Bool :=
  (upto 256).all (fun i => bitAt (s.slot c (((s.core c).dlogbase + (256 * half + i) / 32) % 4096) (i % 32)) 0)

/-- R88: the log agent merges and frees a half that has filled. -/
def execDirtyLogMerge (core half : Nat) (s : State) : Result :=
  if decide (half < 2) && s.halfFull core half then .next (s.mergeHalf core half 0).2 else .next s

/-! ### `preq` (R347) and `mcall` (R353) -/

/-- R347. -/
def execPreq (o : Operands) (s : State) : Result :=
  let a := s.reg o.ra
  if bitsAt a 3 61 ≠ 0 then .next (s.trap o .ill 0)
  else
    let s1 := (s.setCore s.curCore { s.core s.curCore with point := a.toNat }).repoint s.myGrove
    .next (s1.finish o (s1.gop s1.myGrove))

/-- The service number of `mcall` (R353). -/
def Operands.service (o : Operands) : Nat := o.immAt 0 8

/-- R353. -/
def execMcall (o : Operands) (s : State) : Result :=
  let arg := s.reg o.ra + o.extOffset
  if Operands.service o = 0 then .next (s.finish o (s.energyOf 64))
  else if Operands.service o = 1 then
    if 63 < arg.toNat then .next (s.finish o 0xFFFFFFFFFFFFFFFF#64)
    else .next (s.finish o (s.energyOf arg.toNat))
  else if Operands.service o = 2 then .next ((s.alert (bitsAt arg 0 16)).finish o 0)
  else .next (s.finish o 0xFFFFFFFFFFFFFFFF#64)

end Sys2Proof.Machine
end

