-- ==== Sys2Proof/Machine/Lease.lean ====
section
/-! DEFINITION. `lease` (R90, R91): the record, the rights it removes, and the engine work that a revocation stops (R254,
R283). -/

namespace Sys2Proof.Machine

/-! ### The record (R90) -/

/-- Range j of a record. -/
def leaseRange (ws : List Word) (j : Nat) : LRange :=
  { base := bitsAt (wordAt ws (1 + 2 * j)) 12 45 * 4096
    bytes := bitsAt (wordAt ws (2 + 2 * j)) 0 32 * 4096
    wr := bitsAt (wordAt ws (1 + 2 * j)) 0 2 == 3 }

/-- COUNT. -/
def leaseCount (ws : List Word) : Nat := bitsAt (wordAt ws 0) 0 5

/-- Range j breaks R90 or R91: reserved bits, RIGHTS, SIZE, or a byte in REGION 10. -/
def leaseRangeBad (ws : List Word) (j : Nat) : Bool :=
  let r := leaseRange ws j
  let a := wordAt ws (1 + 2 * j)
  bitsAt a 2 10 != 0 || bitsAt a 57 7 != 0 || bitsAt (wordAt ws (2 + 2 * j)) 32 32 != 0
    || (bitsAt a 0 2 != 1 && bitsAt a 0 2 != 3) || r.bytes == 0 || vaRegion r.base == 2 || vaRegion (r.base + r.bytes - 1) == 2

/-- The record is bad (R91). -/
def leaseBad (ws : List Word) : Bool :=
  bitsAt (wordAt ws 0) 5 3 != 0 || bitsAt (wordAt ws 0) 16 48 != 0 || bitsAt (wordAt ws 33) 57 7 != 0
    || decide (16 < leaseCount ws) || bitsAt (wordAt ws 0) 8 2 == 3 || (upto (leaseCount ws)).any (leaseRangeBad ws)

/-- The ranges of a record. -/
def leaseRanges (ws : List Word) : List LRange := (upto (leaseCount ws)).map (leaseRange ws)

/-- The completion target of a record (R90). DESIGN CHOICE (log 84): a record of KIND 2 whose CLASP is no slot-0 address has no target:
R91 does not count it among the bad records, so it is taken, and the end of its revocation signals nothing. -/
def leaseTarget (core : Nat) (ws : List Word) : Target :=
  (targetOf (bitsAt (wordAt ws 0) 8 2) core (bitsAt (wordAt ws 0) 10 6) (bitsAt (wordAt ws 33) 0 57)).getD .none

/-! ### What a new lease takes away (R91) -/

/-- Byte a is covered, with the write right if `wr`. -/
def rightAt (rs : List LRange) (wr : Bool) (a : Nat) : Bool :=
  rs.any (fun r => decide (r.base ≤ a) && decide (a < r.base + r.bytes) && (r.wr || !wr))

/-- Between consecutive end points: the ranges that lose the read right, and those that lose only the write right. -/
def lostBetween (old new : List LRange) : List Nat → List LRange
  | a :: b :: rest =>
    (if rightAt old false a && !rightAt new false a then [{ base := a, bytes := b - a, wr := false }]
      else if rightAt old true a && !rightAt new true a then [{ base := a, bytes := b - a, wr := true }]
      else []) ++ lostBetween old new (b :: rest)
  | _ => []

/-- The end points of ranges, ascending. -/
def endPoints (rs : List LRange) : List Nat :=
  rs.foldl (fun (l : List Nat) r => insertNum r.base (insertNum (r.base + r.bytes) l)) []

/-- `revoked` of R91. -/
def revokedBy (old new : List LRange) : List LRange := lostBetween old new (endPoints (old ++ new))

/-! ### Engine work that a revocation stops -/

/-- Calls of the gang that touch the ranges are to end with ABORTED (R283). -/
def State.abortTouching (s : State) (p g : Nat) : State :=
  (upto numStacks).foldl (fun (t : State) k =>
    let x := t.stack k
    t.setStack k { x with calls := x.calls.map (fun (q : Call) =>
      if q.id.inGang p g && (s.headEnds k q).isNone && s.callTouches k q then { q with abort := true } else q) }) s

/-- A channel of the gang whose record touches the ranges: a held record is left, and one in progress goes on under the old lease and
stops its channel at its end (R254). -/
def State.stopChannel (s : State) (p g c ch : Nat) : State :=
  let q := (s.core c).chan ch
  if !q.id.inGang p g || q.record.isEmpty then s
  else if q.st = 2 then
    if s.chanTouches c ch q.record then s.setChan c ch { q.rest with st := 0, reason := 5 } else s
  else if q.st = 1 && s.chanTouches c ch q.record then s.setChan c ch { q with revoked := true }
  else s

/-- Every channel and every call of the gang. -/
def State.stopTouching (s : State) (p g : Nat) : State :=
  (s.coresOf p).foldl (fun (t : State) c => (upto 4).foldl (fun (u : State) ch => u.stopChannel p g c ch) t) (s.abortTouching p g)

/-- LEASEPTR of the gang's descriptor (R120). -/
def State.setLeasePtr (s : State) (p g : Nat) (va : Word) : Acc Unit × State :=
  s.storeMem none p (s.descVa p g + 8) (bytesOfNat 8 va.toNat)

/-- A gang's lease becomes `new`: extended rights at once, revoked rights when the gang is quiet (R91). The status: 0 done, 2 revoking. -/
def State.changeLease (s : State) (p g : Nat) (new : List LRange) (target : Target) (id : Ident) : Nat × State :=
  let x := s.gang p g
  let old := x.lease.getD []
  let gone := revokedBy old new
  if gone.isEmpty then (0, s.setGang p g { x with lease := some new })
  else
    let v : Revocation := { ranges := gone, after := new, target := target, id := id }
    (2, (s.setGang p g { x with lease := some (new ++ old), revoking := some v }).stopTouching p g)

/-- A good record is installed (R91). -/
def State.installLease (s : State) (o : Operands) (g : Nat) (ws : List Word) : State :=
  let r := s.changeLease s.myPart g (leaseRanges ws) (leaseTarget s.curCore ws) s.me
  r.2.finish o (word r.1)

/-- The party that reads a lease record over the fabric for the issuing row (R72, R91). -/
def State.leaseWork (s : State) : Work :=
  { core := s.curCore, chan := leaseChan, id := s.me, inner := s.me, old := false, mark := false }

/-- The 272 bytes of the record at an address: of this device, or read over the fabric, where the row stalls until they have come. -/
def State.readRecord (s : State) (va : Nat) : Acc (List Byte) × State :=
  if s.isLocal va then s.memAt s.myPart va 272
  else
    match s.workLoad s.leaseWork (globalAddr va) 272 with
    | (.ok bs, t) => (.ok bs, t)
    | (.error code, t) => if code = wkHold then (.hold, (s.keepRequests t).unissue) else (.fault (wkCause code), t.dropAnswers s.leaseWork)

/-- R91. A record that cannot be read, or a descriptor that cannot be written, is a fault of an access (log 27). -/
def execLease (o : Operands) (s : State) : Result :=
  let a := s.reg o.ra
  let b := s.reg o.rb
  let g := bitsAt a 0 12
  if bitsAt a 12 52 ≠ 0 ∨ b.toNat % 8 ≠ 0 then .next (s.finish o 1)
  else if (s.gang s.myPart g).revoking.isSome then .next (s.finish o 3)
  else if 2 ^ 57 ≤ b.toNat ∨ s.unreachable b.toNat then .next (s.trap o .xlate 0)
  else if vaRegion b.toNat ≠ 0 then .next (s.finish o 1)
  else
    match s.readRecord b.toNat with
    | (.fault k, s1) => .next (s1.trap o k 0)
    | (.hold, s1) => .next s1
    | (.ok bs, s1) =>
      if leaseBad (wordsOf bs) then .next (s1.finish o 1)
      else
        match s1.setLeasePtr s.myPart g b with
        | (.ok _, s2) => .next (s2.installLease o g (wordsOf bs))
        | (.fault k, s2) => .next (s2.trap o k 0)
        | (.hold, _) => .next s

/-! ### The end of a revocation (R91) -/

/-- R91: the revoked ranges are removed, and the target of the lease record is signalled. Calls that were stored during it and touch
them still end with LEASE (R283). -/
def execRevocationComplete (part gang : Nat) (s : State) : Result :=
  let x := s.gang part gang
  match x.revoking with
  | none => .next s
  | some v =>
    if s.membersQuiet part gang && !s.oldWork part gang then
      .next (((s.markLate part gang).setGang part gang { x with lease := some v.after, revoking := none }).signal v.id v.target)
    else .next s

end Sys2Proof.Machine
end

