-- ==== Sys2Proof/Machine/Power.lean ====
section
/-! DEFINITION. The power controller and configuration registers: register writes (R312, R332, R398, R399), frames of the port
(R335), STALE (R336), shed deadlines (R341), operating points (R346), sensors (R350 to R352) and idle states (R348,
R349). -/

namespace Sys2Proof.Machine

/-! ### Writes to registers without behaviour of their own -/

/-- NODEID (R312). -/
def State.writeNodeId (s : State) (v : Word) : State :=
  if v.toNat < 0x3FF then { s with fabric := { s.fabric with nodeId := v.toNat } } else s.badConfig

/-- ADMIT[n] (R312). -/
def State.writeAdmit (s : State) (n : Nat) (v : Word) : State :=
  if within v 0x7F ∧ n < 0x3FF then { s with fabric := { s.fabric with admission := s.fabric.admission.set 0 n v.toNat } } else s.badConfig

/-- Roots and GANGBASE may change: the partition has no row outside IDLE, HALT and FAULT, or is swapped out (R400). -/
def State.partQuiet (s : State) (p : Nat) : Bool :=
  (s.part p).saved.isSome || s.allRows.all (fun x => !s.inPart p x.1 || s.rowState x.1 x.2 == stIdle
    || s.rowState x.1 x.2 == stHalt || s.rowState x.1 x.2 == stFault)

/-- Words 1 to 6 of a partition's block (R399, R400); a store that is refused changes nothing. -/
def State.writePart (s : State) (p w : Nat) (v : Word) : State :=
  let x := s.part p
  if w = 1 then if within v (maskBits 12 45) && s.partQuiet p then s.setPart p { x with root00 := v } else s
  else if w = 2 then if within v (maskBits 12 45) && s.partQuiet p then s.setPart p { x with root01 := v } else s
  else if w = 3 then if within v (maskBits 12 45) && s.partQuiet p then s.setPart p { x with root11 := v } else s
  else if w = 4 then if within v (maskBits 6 51) && s.partQuiet p then s.setPart p { x with gangbase := v } else s
  else if w = 5 then if v.toNat ≤ 16384 then s.setPart p { x with lockquota := v.toNat } else s
  else if w = 6 then if v.toNat < 3 && x.swapop == 0 then s.setPart p { x with swapop := v.toNat } else s
  else s

/-- TAILVA and VECTOR of a mailbox (R398); a store that is refused changes nothing. -/
def State.writeMailbox (s : State) (p off : Nat) (v : Word) : State :=
  let x := s.part p
  if off = 0 then
    if v = 0 ∨ (v.toNat < 2 ^ 57 ∧ v.toNat % 8 = 0 ∧ vaRegion v.toNat = 3) then s.setPart p { x with tailva := v } else s
  else if off = 8 then if v.toNat < 2 ^ 11 then s.setPart p { x with vector := v.toNat } else s
  else s

/-- A write of the host driver to the power and telemetry block: a supervisor access (R332, R397). One that is refused is
discarded, and its record is dropped: no partition owns the unit (log 38). -/
def State.hostPower (s : State) (off : Nat) (bs : List Byte) (multi : Bool) : State :=
  match s.powerStore (Ident.supervisor 0) off bs multi with
  | .ok t => t
  | .fault _ => { s with mgmt := { s.mgmt with dropped := s.mgmt.dropped + 1 } }
  | .hold => s

/-- R312, R332, R398, R399. -/
def execRegisterWrite (w : RegWrite) (s : State) : Result :=
  match w with
  | .nodeId v => .next (s.writeNodeId v)
  | .admission n v => .next (s.writeAdmit n v)
  | .partition p k v => .next (if p < numParts then s.writePart p k v else s)
  | .mailbox p off v => .next (if p < numParts then s.writeMailbox p off v else s)
  | .power off v => .next (s.hostPower off (bytesOfNat 8 v.toNat) false)
  | .store k => .next (s.acceptStore k (fun c _ => c == .powerReg))

/-! ### Telemetry -/

/-- R335, R340: a frame of 32 bytes at the port. -/
def execTelemetryFrame (bytes : List Byte) (s : State) : Result := .next (s.frame bytes false)

/-- R336: 200 µs without a usable frame. -/
def execTelemetryStale (s : State) : Result :=
  if s.power.stale ∨ s.time.toNat < s.power.lastUsable + 200000 then .next s
  else .next ({ s with power := { s.power with stale := true } }.alert alertStale)

/-- The gangs of a class that are not at their barrier (R178, R341). -/
def State.lateGangs (s : State) (k : Nat) : List Nat :=
  s.gangKeys.filter (fun key => s.gangClass (key / 4096) (key % 4096) == some k && !s.membersQuiet (key / 4096) (key % 4096))

/-- R341: SHEDDL after its mark, every gang of a class still in SHED that is not at its barrier is gang-stopped. -/
def execShedDeadline (cls : Nat) (s : State) : Result :=
  match s.power.mark.get none cls with
  | none => .next s
  | some t0 =>
    if !s.power.sheds cls || decide (s.time.toNat < t0 + bitsAt (s.power.now 0x0248) 0 32) then .next s
    else
      let s1 := { s with power := { s.power with mark := s.power.mark.set none cls none } }
      .next ((s.lateGangs cls).foldl (fun (t : State) key => t.setMark (key / 4096) (key % 4096) .shed) s1)

/-! ### Operating points (R346) -/

/-- R346: a change of point completes. -/
def execOperatingPointChange (grove : Nat) (s : State) : Result :=
  let x := s.grove grove
  if x.changing then .next (s.setGrove grove { x with point := s.targetPoint grove, changing := false }) else .next s

/-! ### Temperature (R350 to R352) -/

/-- Threshold i of a sensor: 1 WARM, 2 HOT, 3 CRIT (R332). -/
def PowerSt.threshold (x : PowerSt) (n i : Nat) : Int :=
  signedNat 16 (bitsAt (x.reg (if n < 64 then 0x0810 else 0x0818)) (16 * (i - 1)) 16)
/-- HYS of a sensor. -/
def PowerSt.hysteresis (x : PowerSt) (n : Nat) : Int := Int.ofNat (bitsAt (x.reg (if n < 64 then 0x0810 else 0x0818)) 48 8)

/-- LEVEL after a reading (R350): up to the highest threshold reached, or down by one. -/
def PowerSt.levelAfter (x : PowerSt) (n cur : Nat) (t : Int) : Nat :=
  let up := ([3, 2, 1].find? (fun i => decide (x.threshold n i ≤ t))).getD 0
  if cur < up then up
  else if 0 < cur ∧ t < x.threshold n cur - x.hysteresis n then cur - 1
  else cur

/-- The package's actions after a reading (R352): class 7 by the thermal rule, then the groves' points, then CRIT. -/
def State.thermalAction (s : State) : State :=
  let s1 :=
    if s.anyHot then
      if s.power.sheds 7 then s
      else { s with power := { s.power.shedClass 7 s.time.toNat with thermal7 := true } }
    else if s.power.thermal7 then s.unshed 7
    else s
  let s2 := s1.repointAll
  if (upto numGroves).any (fun g => decide (3 ≤ s2.thermal g)) && s2.mgmt.powered then
    let s3 := (s2.gangKeys.foldl (fun (t : State) key => t.setMark (key / 4096) (key % 4096) .sup) s2).alert alertCrit
    { s3 with mgmt := { s3.mgmt with powered := false } }
  else s2

/-- R350: sensor n is read; a change of its level acts (R352). -/
def execSensorRead (n : Nat) (temp : BitVec 16) (s : State) : Result :=
  let old := s.levelOf n
  let new := s.power.levelAfter n old (signedNat 16 temp.toNat)
  let s1 := { s with power := { s.power with temps := s.power.temps.set (0, 0) n (temp, new) } }
  if new = old then .next s1 else .next (s1.cadenceFrom s).thermalAction

/-! ### Idle states (R348, R349) -/

/-- A core meets the conditions of quiescence (R348). -/
def State.coreQuiet (s : State) (c : Nat) : Bool :=
  let x := s.core c
  x.latches.isEmpty && x.fifo.all (fun e => s.isShed (ctlClass (s.ctl c e.row))) && x.mx.queue.isEmpty && x.mx.pipe.isEmpty
    && (upto 4).all (fun ch => (x.chan ch).st == 0 || (x.chan ch).st == 3)
    && s.stores.all (fun q => q.id.host || q.id.core != c) && s.msgs.all (fun m => m.id.host || m.id.node != 0x3FF || m.id.core != c)

/-- A request has come to the core's unit and is not yet performed (R349). -/
def State.arriving (s : State) (c : Nat) : Bool :=
  s.arrivals.any (fun a => a.core == c) || s.rowReqs.any (fun q => q.core == c)

/-- The time to the earliest deadline in a core's wait table (R108); none without one. -/
def State.waitTimes (s : State) (c : Nat) : List Nat :=
  (s.core c).waits.filterMap (fun e => match e.on with
    | .time t => some (if t ≤ s.time then 0 else (t - s.time).toNat)
    | .timedClasp =>
      let d := bitsAt (s.slot c e.row 1) 35 29
      some (if deadlinePassed s.time d then 0 else (d + 2 ^ 29 - s.time.toNat % 2 ^ 29) % 2 ^ 29)
    | .tagsAll _ | .tagsAny _ | .barrier _ _ => none)

/-- Wake times in ns (R348). -/
def wakeTime (g : Nat) : Nat := if g = 1 then 20 else if g = 2 then 1500 else 30000

/-- G3 is open to a grove (R348). -/
def State.mayPowerOff (s : State) (g : Nat) : Bool :=
  (upto 4).all (fun k => (s.core (4 * g + k)).ctxmap.items.all (fun e => e.2 == 0)) && (s.grove g).ways == 0
    && (s.grove g).pins.isEmpty

/-- The deepest idle state that fits; 0 for none (R348). -/
def State.idleState (s : State) (g : Nat) : Nat :=
  let fits (k : Nat) : Bool := decide (wakeTime k ≤ bitsAt (s.power.reg 0x0800) 0 32)
    && (upto 4).all (fun c => (s.waitTimes (4 * g + c)).all (fun t => decide (wakeTime k ≤ t)))
  if fits 3 && s.mayPowerOff g then 3 else if fits 2 then 2 else if fits 1 then 1 else 0

/-- The arrays of a grove are lost: every byte is a free value (R348, log 39). -/
def State.loseArrays (s : State) (g : Nat) : State :=
  State.draw { s with mem := (upto (2 ^ 22)).foldl (fun (m : Memory) i =>
    m.write (arrayKey (4 * g) i) (Config.lostByte s.draws i)) s.mem }

/-- Step 3 of R349, for G3: the slice is written back and dropped, launch pools and residency entries are cleared. -/
def State.powerOff (s : State) (g : Nat) : State :=
  let s1 := s.flushLines g (fun _ => true) false
  let s2 := (upto 64).foldl (fun (t : State) e => t.setResEntry (4 * g) e true (t.resEntry (4 * g) e true).drop) s1
  let s3 := (upto 4).foldl (fun (t : State) k =>
    let u := (upto 32).foldl (fun (v : State) e => v.setResEntry (4 * g + k) e false (v.resEntry (4 * g + k) e false).drop) t
    u.setCore (4 * g + k) { u.core (4 * g + k) with pool := [] }) s2
  (s3.setGrove g { s3.grove g with icache := [] }).loseArrays g

/-- R349: a quiescent grove enters the deepest idle state that fits. -/
def execIdleEntry (grove : Nat) (s : State) : Result :=
  let k := s.idleState grove
  if (s.grove grove).idle ≠ 0 ∨ k = 0 ∨ ¬ (upto 4).all (fun c => s.coreQuiet (4 * grove + c) && !s.arriving (4 * grove + c)) then
    .next s
  else
    let s1 := if k = 3 then s.powerOff grove else s
    .next (s1.setGrove grove { s1.grove grove with idle := k })

/-- The address is one of a core's or of the scratch of the grove, on this device. -/
def State.inGrove (s : State) (g va : Nat) : Bool :=
  s.isLocal va && vaRegion va == 2 && ((decide (vaUnit va < numCores) && groveOf (vaUnit va) == g) || vaUnit va == 0x100 + g)

/-- The address is one of an engine page (R68). -/
def isPageVa (va : Nat) : Bool := decide (vaUnit va < numCores) && decide (2 ^ 20 ≤ vaOff va)

/-- An access waits at the grove's router (R349): of a row, the host, another device, an engine or the dispatcher. In G3 only the engine
pages hold what comes. -/
def State.heldAt (s : State) (g : Nat) : Bool :=
  let off := (s.grove g).idle == 3
  let held (va : Nat) : Bool := s.inGrove g va && (!off || isPageVa va)
  s.stores.any (fun q => held q.va) || s.knocks.contains g
    || (!off && (s.msgs.any (fun m => !m.remote && s.inGrove g m.addr) || (upto 4).any (fun k => s.arriving (4 * g + k))))
    || s.cores.items.any (fun e => e.2.latches.any (fun l => l.pending.any (fun p => match p.op.global with
        | some (ea, _) => held ea
        | none => false)))

/-- What wakes a grove (R348, R349): an access that waits for it, a timed event no further off than its wake time, or a READY row
whose class is not shed. -/
def State.wakeCause (s : State) (g : Nat) : Bool :=
  s.heldAt g
    || (upto 4).any (fun k => (s.waitTimes (4 * g + k)).any (fun t => decide (t ≤ wakeTime (s.grove g).idle))
      || !(s.eligible (4 * g + k)).isEmpty)

/-- R349: a grove wakes; what was held is then served by its own steps. -/
def execGroveWake (grove : Nat) (s : State) : Result :=
  if (s.grove grove).idle ≠ 0 && s.wakeCause grove then
    .next { s.setGrove grove { s.grove grove with idle := 0 } with knocks := s.knocks.filter (fun g => g != grove) }
  else .next s

end Sys2Proof.Machine
end

