-- ==== Sys2Proof/Machine/Manage.lean ====
section
/-! DEFINITION. What the device does beside its rows: the watchdog (R379 to R381), repair (R86), held fault records (R368),
swapping a partition out and back (R374 to R378, R230), and the host's control of partitions (R397, R400). -/

namespace Sys2Proof.Machine

/-! ### The watchdog (R379 to R381) -/

/-- R380: WDCNT is compared with WDBUDGET of the gang's descriptor, after a release that falls on the instant of the check. Nothing is
checked while the partition is swapped out (R377). -/
def execWatchdogCheck (part gang : Nat) (s0 : State) : Result :=
  let s := s0.releaseDue part gang
  if (s.part part).saved.isSome then .next s
  else
    match s.descriptor part gang with
    | (none, s1) => .next s1
    | (some d, s1) =>
      let x := s1.gang part gang
      if d.wdbudget ≠ 0 ∧ d.wdbudget ≤ x.wdcnt then .next (s1.setGang part gang { x with expired := true }) else .next s1

/-- The trap of WDOG (R126): p is the PC of the row's control word. -/
def State.wdogTrap (s : State) (c r : Nat) : TrapInfo :=
  { cause := .wdog, pc := s.rowPc c r, code := 0, deferred := false, len := s.lengthHere c r }

/-- EndRow(WDOG) of a member row (R381): an OPEN row drains first, and its trap then names the first instruction that has not
issued. -/
def State.expireRow (s : State) (c r : Nat) : State :=
  let st := s.rowState c r
  if st = stOpen then
    let s1 := s.setRowPc c r (s.nextPc c r)
    s1.setIntent c r (.trap (s1.wdogTrap c r))
  else if running st || st == stStopped then s.endRow c r (s.wdogTrap c r)
  else s

/-- Matrix commands of the gang that have not begun are discarded, signalled and counted (R381). -/
def State.discardMx (s : State) (p g c : Nat) : State :=
  let m := (s.core c).mx
  let mine (q : MxCmd) : Bool := !q.begun && q.id.inGang p g
  let gone := m.queue.filter mine
  let s1 := s.setMx c { m with
    queue := m.queue.filter (fun q => !mine q)
    headFrom := if m.queue.head?.any mine then s.cycleOf c + 1 else m.headFrom
    discards := (m.discards + gone.length) % 65536 }
  gone.foldl (fun (t : State) (q : MxCmd) => t.signalIf q.id (mxTarget c q.words)) s1

/-- A channel running a chain of the gang completes its record and goes IDLE with REASON 4 (R381). -/
def Chan.expire (x : Chan) (p g : Nat) : Chan :=
  if !x.id.inGang p g then x
  else if x.st = 1 ∧ x.record ≠ [] then { x with stopReq := true, gangStop := false }
  else if x.st = 0 then x
  else { x.noRecord with stopReq := false, gangStop := false, revoked := false, st := 0, reason := 4 }

/-- The channels and the calls of a gang end (R381). -/
def State.expireChans (s : State) (p g : Nat) : State :=
  let s1 := (s.coresOf p).foldl (fun (t : State) c =>
    let v := (upto 4).foldl (fun (w : State) ch =>
      let q := (w.core c).chan ch
      if q.id.inGang p g ∧ q.record = [] then w.dropAnswers (w.chanWork c ch false) else w) t
    v.setCore c ((upto 4).foldl (fun (y : CoreSt) ch => y.setChan ch ((y.chan ch).expire p g)) (v.core c))) s
  s1.abortCalls p g

/-- The engine work of a gang ends (R381). -/
def State.expireEngines (s : State) (p g : Nat) : State :=
  ((s.coresOf p).foldl (fun (t : State) c => t.discardMx p g c) s).expireChans p g

/-- R381: every member is ended, the engine work of the gang ends, and its stop marks are cleared. -/
def execWatchdogExpiry (part gang : Nat) (s : State) : Result :=
  if !(s.gang part gang).expired ∨ (s.part part).saved.isSome then .next s
  else
    let s0 := s.setGang part gang { s.gang part gang with expired := false }
    let s1 := (s.members part gang).foldl (fun (t : State) x => t.expireRow x.1 x.2) s0
    let s2 := s1.expireEngines part gang
    .next (((s2.clearMark part gang .sup).clearMark part gang .shed).clearMark part gang .swap)

/-! ### Repair (R86) and held records (R368) -/

/-- R86: an atom is copied into the SRAM and remapped; a full table takes no more. -/
def execRemapAdd (stack atom : Nat) (s : State) : Result :=
  let x := s.stack stack
  if x.remap.contains atom || decide (4096 ≤ x.remap.length) || decide (2 ^ 31 ≤ atom) then .next s
  else
    let bs := s.readPhys (dramKey stack (32 * atom)) 32
    .next ({ s with mem := s.mem.storeBytes (remapKey stack x.remap.length 0) bs }.setStack stack { x with remap := x.remap ++ [atom] })

/-- The words of a held record; a run of dropped ones is one KIND 8 record (R368). -/
def HeldRec.words : HeldRec → List Word
  | .record ws => ws
  | .dropped n t => [8, 0, 0, word n, t, 0, 0, 0]

/-- R368: the oldest held record of a partition enters its supervisor's ring as room comes. -/
def execFaultRecordAppend (part : Nat) (s : State) : Result :=
  match (s.part part).held, s.lowCore part with
  | h :: rest, some c =>
    let r := s.ring c 0
    if r.2 = 0 ∨ (s.part part).saved.isSome ∨ ¬ s.ringRoom c 0 ∨ s.poisoned (rowKey c r.1 0) 32 ∨ s.absent c then
      .next s
    else if s.asleep (groveOf c) then .next (s.knock (rowVa 0x3FF c r.1))
    else
      .next ((s.setPart part { s.part part with held := rest }).ringAppend c 0 (Ident.supervisor part) (bytesOfWords h.words))
  | _, _ => .next s

/-! ### Swapping out (R374 to R376) -/

/-- The firmware that runs: none is the one the device was built with. -/
def MgmtSt.firmware (m : MgmtSt) : List Byte := m.fw.get [] m.fwB.toNat

/-- VERSION of matrix save images (R230, log 40). -/
def State.mxVersion (s : State) : Nat := if s.mgmt.firmware = [] then 1 else Config.imageVersion s.mgmt.firmware

/-- Word 0 of a matrix save image: VERSION, and SIZE in 64-byte units (R230). -/
def State.imageWord (s : State) : Word := word (s.mxVersion % 2 ^ 16 + 1024 * 2 ^ 16)

/-- The header of the save image of a core's matrix unit (R230). -/
def State.imageHeader (s : State) (c : Nat) : List Word :=
  let m := (s.core c).mx
  let issuer := match m.queue.head? with
    | some q => q.id.origin
    | none => 0
  [s.imageWord, word (c + s.fabric.nodeId * 2 ^ 8), m.status, word issuer, 0, 0, 0, 0]

/-- The rows that a swap-out saves of a core (R376): its context rows, then the rows of its rings. -/
def State.savedRows (s : State) (c : Nat) : List Nat :=
  (s.contextRows c ++ (upto 4).flatMap (fun k => (upto (s.ring c k).2).map (fun i => (s.ring c k).1 + i))).eraseDups

/-- The groves of a partition. -/
def State.grovesOf (s : State) (p : Nat) : List Nat := (upto numGroves).filter (fun g => s.owns p g)

/-- Every core's rows fit the swap area, whose ways hold no other partition (R374). -/
def State.swapFits (s : State) (p : Nat) : Bool :=
  (s.coresOf p).all (fun c => decide ((s.savedRows c).length ≤ 224)) && (s.grovesOf p).all (fun g => !(s.grove g).swapHeld)

/-- The gangs of a partition that have a member row or device state. -/
def State.gangsOf (s : State) (p : Nat) : List Nat :=
  ((s.gangKeys ++ s.gangs.items.map (fun e => e.1)).filterMap (fun k => if k / 4096 = p then some (k % 4096) else none)).eraseDups

/-- Every gang of the partition carries a mark, and what has begun since is stopped too. -/
def State.stopAll (s : State) (p : Nat) (m : Mark) : State :=
  (s.gangsOf p).foldl (fun (t : State) g => (t.setMark p g m).stopParties p g) s

/-- Every gang of the partition carries SWAP, and what has begun since is stopped too (R375). -/
def State.swapStop (s : State) (p : Nat) : State := s.stopAll p .swap

/-- A message for a core of the partition has come and is not yet performed. -/
def State.inbound (s : State) (p : Nat) (m : Msg) : Bool :=
  !m.remote && s.isLocal m.addr && vaRegion m.addr == 2 && s.inPart p (vaUnit m.addr)

/-- A post that waits for room in its ring. -/
def State.waitingPost (s : State) (m : Msg) : Bool := m.mkind == 6 && !s.ringRoom (vaUnit m.addr) m.cls

/-- Every gang is at rest with no expiry of its watchdog left to act, and no store or arrival for the partition's rows is on its way
(R371, R375, R381). -/
def State.swapQuiet (s : State) (p : Nat) : Bool :=
  (s.gangsOf p).all (fun g => !(s.gang p g).expired) && (s.gangsOf p).all (fun g => s.gangAtRest p g) && (s.coresOf p).all (fun c => !s.arriving c)
    && s.stores.all (fun q => !q.id.host || q.id.part != p)

/-- Nothing that has come for the partition can be performed: what is left are posts that wait for room, and what waits behind
them (R375). -/
def State.swapStuck (s : State) (p : Nat) : Bool :=
  s.msgs.zipIdx.all (fun (e : Msg × Nat) => !s.inbound p e.1 || s.waitingPost e.1 || !s.msgTurn e.2 e.1)

/-- The waiting posts are refused, the latest first (R375). -/
def State.refusePosts (s : State) (p : Nat) : State :=
  (upto s.msgs.length).reverse.foldl (fun (t : State) k =>
    match t.msgs[k]? with
    | none => t
    | some m => if s.inbound p m && s.waitingPost m then t.refuseMsg k m ((t.admitted m).getD m.id) .absent else t) s

/-- The saved state of a partition (R376). -/
def State.saveImage (s : State) (p : Nat) : Saved :=
  { cores := (s.coresOf p).map (fun c => {
      core := c, rows := (s.savedRows c).map (fun r => (r, s.rowBits c r)), state := s.core c, image := s.imageHeader c })
    groves := (s.grovesOf p).map (fun g => {
      grove := g, ways := (s.grove g).ways, pins := (s.grove g).pins, gres := (s.grove g).gres, last := (s.grove g).slewLast })
    hdrs := (s.part p).hdrs }

/-- The two lowest cache ways of a grove hold the swap area and cache nothing (R374). -/
def State.takeWays (s : State) (g : Nat) : State :=
  let s1 := s.flushLines g (fun l => decide (l.way < 2)) false
  s1.setGrove g { s1.grove g with pins := (s1.grove g).pins.filter (fun p => decide (2 ≤ p.way)), swapHeld := true }

/-- Steps 4 to 6 of R375: the partition's logs are merged, its state is saved, and its cores are left without rows. -/
def State.saveOut (s : State) (p : Nat) : State :=
  let s1 := (s.mergeLogs p).2
  let s2 := s1.setPart p { s1.part p with
    saved := some (s1.saveImage p), hdrs := [], swapop := 0, swapping := false, shutAt := none, swapst := 1 }
  let s3 := (s1.grovesOf p).foldl (fun (t : State) g => t.takeWays g) s2
  ((s1.coresOf p).foldl (fun (t : State) c => t.setCore c CoreSt.reset) s3).repointAll

/-- R375: a swap-out that was asked for: refused where it does not fit; else every gang is stopped, and once all is at rest the
admission is closed; what has come before is performed, the posts that still wait are refused, and the partition is saved. -/
def execSwapOut (part : Nat) (s : State) : Result :=
  let x := s.part part
  if x.swapop ≠ 1 then .next s
  else if !x.swapping then
    if x.saved.isSome || !s.swapFits part then .next (s.setPart part { x with swapop := 0, swapst := 2 })
    else .next ((s.setPart part { x with swapping := true }).swapStop part)
  else
    let s1 := s.swapStop part
    if !s1.swapQuiet part then .next s1
    else if (s1.part part).shutAt.isNone then .next (s1.setPart part { s1.part part with shutAt := some s1.seq })
    else if s1.msgs.any (fun m => s1.inbound part m) then .next (if s1.swapStuck part then s1.refusePosts part else s1)
    else .next (s1.saveOut part)

/-! ### Restoring (R378) -/

/-- The matrix unit that a rejected image leaves (R230). DESIGN CHOICE (log 94): FIDX and DISCARDS keep the saved values. -/
def MatrixSt.reject (m : MatrixSt) (draw : Nat) : MatrixSt :=
  { m.lose draw with
    queue := [], controls := [], pipe := [], halt := true, frozen := false, fcode := 8, fcmd := 0 }

/-- The ENGINE trap of a rejected image, to the row of the core that ISSUER names, or a record that names ISSUER (R126, R230). -/
def State.rejectTrap (s : State) (c : Nat) (x : SavedCore) : State :=
  let a := (wordAt x.image 3).toNat
  let row := vaOff a / 256
  if a ≠ 0 && vaUnit a == c && s.isContext c row then s.engineTrap (s.ident c row) 0
  else
    s.postRecord (s.partid c) (s.record 1 Cause.engine.code a 0
      (if a ≠ 0 && vaUnit a < numCores && s.isContext (vaUnit a) row then s.ctl (vaUnit a) row else 0) 0)

/-- One core comes back; its matrix save image is restored where its VERSION and SIZE are those of this device (R378, R230). -/
def State.restoreSaved (s : State) (x : SavedCore) : State :=
  let s1 := x.rows.foldl (fun (t : State) e => t.setRowBits x.core e.1 e.2) s
  if bitsAt (wordAt x.image 0) 0 32 = s.imageWord.toNat then s1.setCore x.core x.state
  else (s1.setCore x.core { x.state with mx := x.state.mx.reject s1.draws }).draw

/-- The saved groves are all the partition's, and it has no other (R378). -/
def State.sameGroves (s : State) (p : Nat) (v : Saved) : Bool :=
  (upto numGroves).all (fun g => s.owns p g == v.groves.any (fun e => e.grove == g))

/-- The saved state of a grove is placed back, and its two lowest ways cache again (R374, R376). -/
def State.restoreGrove (s : State) (e : SavedGrove) : State :=
  s.setGrove e.grove { s.grove e.grove with
    ways := e.ways, pins := e.pins, gres := e.gres, slewLast := e.last, failed := false, swapHeld := false }

/-- A saved core lies in a grove that failed while the partition was away: its rows are lost (R406). -/
def State.coreLost (s : State) (x : SavedCore) : Bool := (s.grove (groveOf x.core)).failed

/-- The state is placed back, rejected matrix images are reported, SWAP is cleared, and gangs without a mark resume (R378). SWAPST
is 2 where a grove has failed (R406). -/
def State.restoreAll (s : State) (p : Nat) (v : Saved) : State :=
  let kept := v.cores.filter (fun x => !s.coreLost x)
  let s1 := s.setPart p { s.part p with
    saved := none, hdrs := v.hdrs ++ (s.part p).hdrs, swapop := 0, swapst := if kept.length = v.cores.length then 1 else 2 }
  let s2 := v.groves.foldl (fun (t : State) e => t.restoreGrove e) s1
  let s3 := kept.foldl (fun (t : State) x => t.restoreSaved x) s2
  let s4 := (kept.filter (fun x => bitsAt (wordAt x.image 0) 0 32 != s.imageWord.toNat)).foldl
    (fun (t : State) x => t.rejectTrap x.core x) s3
  ((s4.gangsOf p).foldl (fun (t : State) g => t.clearMark p g .swap) s4).repointAll

/-- R378: a restore that was asked for; refused where nothing is saved or the groves are not those it was saved from. -/
def execSwapRestore (part : Nat) (s : State) : Result :=
  let x := s.part part
  if x.swapop ≠ 2 then .next s
  else
    match x.saved with
    | none => .next (s.setPart part { x with swapop := 0, swapst := 2 })
    | some v =>
      if s.sameGroves part v then .next (s.restoreAll part v) else .next (s.setPart part { x with swapop := 0, swapst := 2 })

/-! ### Partitions and the host (R397, R400) -/

/-- A grove has context rows (R400). -/
def State.hasRows (s : State) (g : Nat) : Bool := (upto 4).any (fun k => !(s.contextRows (4 * g + k)).isEmpty)

/-- A gang of the partition has a lease, which every grove of the partition holds at its senders (R89, R400). -/
def State.hasLeases (s : State) (p : Nat) : Bool :=
  s.gangs.items.any (fun e => e.1 / 4096 == p && !(e.2.lease.getD []).isEmpty)

/-- A store to GROVES is refused (R400). -/
def State.grovesRefused (s : State) (p : Nat) (v : Word) : Bool :=
  (upto numParts).any (fun q => q != p && (s.part q).groves &&& v != 0)
    || (upto numGroves).any (fun g => bitAt v g && (s.grove g).disabled)
    || ((s.part p).saved.isNone && (upto numGroves).any (fun g => s.owns p g && !bitAt v g && (s.hasRows g || s.hasLeases p)))

/-- R400. -/
def execGroves (part : Nat) (v : Word) (s : State) : Result :=
  if s.grovesRefused part v then .next s else .next (s.setPart part { s.part part with groves := v })

/-- A core of a partition after a Function Level Reset: no row is in a latch, a FIFO or the wait table, and no row is a context
row (R400). -/
def CoreSt.flr (x : CoreSt) : CoreSt :=
  { x with
    latches := [], fifo := [], waits := [], engTraps := [], gstops := [], clipped := [], ctxmap := ⟨[]⟩, pool := []
    res := ⟨[]⟩, sysClasps := [], fenced := [], barred := [] }

/-- A row is ended without a record; one in IDLE, HALT or FAULT is not changed (R372, R400). -/
def State.flrRow (s : State) (c r : Nat) : State :=
  if running (s.rowState c r) || s.rowState c r == stStopped then
    s.setCtl c r (putBits (putBits (s.ctl c r) 32 4 stFault) 40 4 0)
  else s

/-- The commands of a partition's rows leave a matrix unit, whether they have begun or not, and signal nothing, so that no record
comes of a row that is gone (R400). Those that have not begun are counted as discards. -/
def MatrixSt.flr (m : MatrixSt) (p cc : Nat) : MatrixSt :=
  let mine (id : Ident) : Bool := !id.host && id.node == 0x3FF && id.part == p
  { m with
    queue := m.queue.filter (fun q => !mine q.id)
    pipe := m.pipe.filter (fun w => !mine w.id)
    headFrom := if m.queue.head?.any (fun q => mine q.id) then cc + 1 else m.headFrom
    discards := (m.discards + (m.queue.filter (fun q => mine q.id && !q.begun)).length) % 65536 }

/-- A revocation of a partition that is reset goes on to its end (R91); it signals no clasp of the partition's own rows, which are context
rows no more (R400). -/
def State.flrRevocation (s : State) (p : Nat) (v : Revocation) : Revocation :=
  match v.target with
  | .clasp a => if s.isLocal a && vaRegion a == 2 && s.inPart p (vaUnit a) then { v with target := .none } else v
  | .tag _ _ => v
  | .none => v

/-- A gang after a Function Level Reset: no mark, no barrier episode and no watchdog time. -/
def State.flrGang (s : State) (p : Nat) (x : GangSt) : GangSt :=
  { x with
    sup := false, shed := false, swap := false, due := [], arrivals := 0, heldDesc := false, wdcnt := 0, expired := false
    revoking := x.revoking.map (fun v => s.flrRevocation p v) }

/-- The groves whose swap ways hold the partition's state (R374). -/
def PartSt.swapGroves (x : PartSt) : List Nat :=
  match x.saved with
  | some v => v.groves.map (fun e => e.grove)
  | none => []

/-- The gangs of a partition that have stopped are ended without records: their engine work ends, their rows are in FAULT, their marks are
cleared, and the matrix units go on. Context maps and residency entries are cleared, the mailbox is disabled, and the ways that held its
state cache again (R374, R400). -/
def State.endPartition (s : State) (p : Nat) : State :=
  let gs := s.gangsOf p
  let s0 := (s.coresOf p).foldl (fun (t : State) c => t.setMx c ((t.core c).mx.flr p (t.cycleOf c))) s
  let s1 := gs.foldl (fun (t : State) g => t.expireChans p g) s0
  let s2 := (s.allRows.filter (fun x => s.inPart p x.1)).foldl (fun (t : State) x => t.flrRow x.1 x.2) s1
  let s3 := (s.coresOf p).foldl (fun (t : State) c => t.setCore c (t.core c).flr) s2
  let s3a := (s.grovesOf p).foldl (fun (t : State) g => t.setGrove g { t.grove g with gres := ⟨[]⟩ }) s3
  let s4 := (s.part p).swapGroves.foldl (fun (t : State) g => t.setGrove g { t.grove g with swapHeld := false }) s3a
  let s5 := gs.foldl (fun (t : State) g => t.setGang p g (s.flrGang p (t.gang p g))) s4
  let s6 := gs.foldl (fun (t : State) g => (t.coresOf p).foldl (fun (u : State) c => u.resumeCore c p g) t) s5
  s6.setPart p { s6.part p with tailva := 0, saved := none, swapop := 0, swapping := false, shutAt := none, flr := false }

/-- R400: every gang is stopped as `gstop` stops it (R371), and once all have come to rest they are ended. A partition that is swapped out
has nothing left to stop. -/
def execFunctionLevelReset (part : Nat) (s : State) : Result :=
  let s1 := (s.setPart part { s.part part with flr := true }).stopAll part .sup
  .next (if (s.part part).saved.isSome || (s1.gangsOf part).all (fun g => s1.gangAtRest part g) then s1.endPartition part else s1)

/-- A host write of any length and place as aligned stores of at most 8 bytes; a whole record stays whole (log 38). -/
def tlpPieces (off : Nat) : Nat → List Byte → List (Nat × List Byte)
  | 0, _ => []
  | fuel + 1, bs =>
    if bs.isEmpty then []
    else
      let n := if off % 8 = 0 ∧ 8 ≤ bs.length then 8 else if off % 4 = 0 ∧ 4 ≤ bs.length then 4
        else if off % 2 = 0 ∧ 2 ≤ bs.length then 2 else 1
      (off, bs.take n) :: tlpPieces (off + n) fuel (bs.drop n)

/-- The stores that a host write makes at a unit window. -/
def tlpStores (off : Nat) (bs : List Byte) : List (Nat × List Byte) :=
  if off % 64 = 0 ∧ bs.length = 64 then [(off, bs)] else tlpPieces off bs.length bs

/-- The address of a byte of a unit window (R397). -/
def windowVa (off : Nat) : Nat := 0x3FF * 2 ^ 47 + 2 * 2 ^ 45 + off / 2 ^ 21 % 512 * 2 ^ 36 + off % 2 ^ 21

/-- A host write waits at its unit, in order (R397). -/
def State.hostStore (s : State) (p : Nat) (e : Nat × List Byte) : State :=
  State.bump { s with stores := s.stores ++ [{
      id := Ident.supervisor p, va := windowVa e.1, data := e.2, whole := e.2.length == 64, release := false, scope := 0, pc := 0
      len := 0, seq := s.seq, age := 0, sent := false }] }

/-- R397: a write through the PF's window, which reaches the power and telemetry block, or a VF's, which reaches every other
unit. -/
def execHostUnitWrite (part : Option Nat) (offset : Nat) (data : List Byte) (s : State) : Result :=
  let u := offset / 2 ^ 21
  match part with
  | none =>
    if u ≠ 0x1F1 then .next s
    else .next ((tlpStores (offset % 2 ^ 21) data).foldl (fun (t : State) e => t.hostPower e.1 e.2 (e.2.length == 64)) s)
  | some p =>
    if 512 ≤ u then .next s
    else if u = 0x1F1 then .next (s.refuseMessage (Ident.supervisor p) (windowVa offset) .prot)
    else if (s.part p).saved.isSome then
      .next (s.refuseMessage (Ident.supervisor p) (windowVa offset) (if u = 0x1F0 then .prot else .absent))
    else .next ((tlpStores offset data).foldl (fun (t : State) e => t.hostStore p e) s)

/-! ### Reads of the host (R397) -/

/-- The host's stores that a function has made to the unit are still to be accepted: a read follows them. -/
def State.hostPending (s : State) (p va : Nat) : Bool :=
  s.stores.any (fun q => q.id.host && q.id.part == p && vaUnit q.va == vaUnit va)

/-- The aligned parts of a host read, each a load of its window's identity, in order. -/
def State.hostLoads (s : State) (p : Nat) : List (Nat × Nat) → Acc (List Byte) × State
  | [] => (.ok [], s)
  | (off, n) :: es =>
    match s.anyLoad (Ident.supervisor p) (windowVa off) n false with
    | (.ok bs, t) =>
      match t.hostLoads p es with
      | (.ok cs, u) => (.ok (bs ++ cs), u)
      | (.fault k, u) => (.fault k, u)
      | (.hold, u) => (.hold, u)
    | (.fault k, t) => (.fault k, t)
    | (.hold, t) => (.hold, t)

/-- A window reaches a unit: the PF's unit 0x1F1 alone, a VF's every other one (R396). -/
def windowReaches (w : Option Nat) (off : Nat) : Bool :=
  decide (off / 2 ^ 21 < 512) && ((off / 2 ^ 21 == 0x1F1) == w.isNone)

/-- R397: the host reads n bytes through a window, a supervisor access of its partition; a read that is refused completes with
Completer Abort. One that the unit holds is made later. -/
def State.hostRead (s : State) (w : Option Nat) (off n : Nat) : State :=
  let p := w.getD 0
  if !windowReaches w off || (w.isSome && (s.part p).saved.isSome) then { s with reads := s.reads ++ [none] }
  else if s.hostPending p (windowVa off) then s
  else
    match s.hostLoads p ((tlpPieces off n (List.replicate n 0)).map (fun e => (e.1, e.2.length))) with
    | (.ok bs, t) => { t with reads := t.reads ++ [some bs] }
    | (.fault _, t) => { t with reads := t.reads ++ [none] }
    | (.hold, _) => s.knock (windowVa off)

/-! ### A grove that fails (R406) -/

/-- R406: a grove fails, and its data rows are lost. -/
def State.failGrove (s : State) (g : Nat) : State :=
  (s.setGrove g { s.grove g with failed := true }).loseArrays g

end Sys2Proof.Machine
end

