-- ==== Sys2Proof/Machine/Service.lean ====
section
/-! DEFINITION. What the management controller and the loader do: checkpoints (R403), updates (R284, R405), the spare grove
(R12, R406), attestation (R407), reset (R402), and load images (R6, R102, R183, R185, R231, R259, R354, R394, R395). -/

namespace Sys2Proof.Machine

/-! ### Checkpoint (R403) -/

/-- Bytes of the DRAM of a stack. -/
abbrev stackBytes : Nat := 2 ^ 36

/-- A WRITE of the management controller to another device, a message of class 3 (R310). -/
def State.background (s : State) (p va : Nat) (bs : List Byte) : State :=
  State.bump { s with msgs := s.msgs ++ [{
      mkind := 1, cls := 3, chan := 0, via := 0, id := Ident.supervisor p, addr := va, aux := 0, data := bs, count := none,
      ackreq := false, acktag := 0, remote := false, inCore := false, sys := false, seq := s.seq }] }

/-- A 64-byte line of a stack's DRAM is written to its place in the range: stack after stack, by address (log 43). Slices that hold
the line give up what they have written (R79). -/
def State.copyLine (s : State) (p base i : Nat) : State :=
  let k := dramKey (64 * i / stackBytes) (64 * i % stackBytes)
  let t := s.recallKey k false
  if t.isLocal base then (t.storeMem none p (base + 64 * i) (t.readPhys k 64)).2
  else t.background p (base + 64 * i) (t.readPhys k 64)

/-- R403: every stack's DRAM is written to a REGION 01 range of a partition, on this device or on another. -/
def execCheckpoint (part : Nat) (base : Word) (s : State) : Result :=
  if vaRegion base.toNat ≠ 1 ∨ base.toNat % 64 ≠ 0 ∨ s.unreachable base.toNat then .next s
  else .next ((upto (numStacks * stackBytes / 64)).foldl (fun (t : State) i => t.copyLine part base.toNat i) s)

/-! ### Images (R405) -/

/-- The image is refused: its form, a reserved byte, its VERSION or its signature (R405). -/
def imageRefused (kind : Nat) (im : List Byte) : Bool :=
  let head := im.take 64
  let body := im.drop 128
  decide (im.length < 128) || frameNat im 0 4 != 0x47563846 || frameNat im 4 2 != kind || frameNat im 6 2 != 0
    || frameNat im 12 4 != body.length || frameNat im 16 48 != 0 || decide (frameNat im 8 4 < Config.minVersion kind)
    || !Config.verify (Config.sha512 (head ++ body)) (BitVec.ofNat 512 (frameNat im 64 64))

/-- A management image is written to the inactive bank, verified there, and activated; the active bank is kept where it is
rejected (R404, R405). -/
def State.updateFirmware (s : State) (im : List Byte) : State :=
  let written := { s.mgmt with fw := s.mgmt.fw.set [] (!s.mgmt.fwB).toNat im }
  { s with mgmt := if imageRefused 1 im then written else { written with fwB := !s.mgmt.fwB } }

/-- The bytes of a heartwood bank: 256 micro-words and the dispatch table (R284). -/
abbrev bankBytes : Nat := 4160

/-- A heartwood image goes to the inactive bank of a stack, and a swap is requested (R284). -/
def State.updateHeartwood (s : State) (k : Nat) (im : List Byte) : State :=
  let x := s.stack k
  if imageRefused 2 im ∨ (im.drop 128).length ≠ bankBytes ∨ x.pendswap then s
  else
    { s with mem := s.mem.storeBytes (bankKey k (!x.actbank) 0) (im.drop 128) }.setStack k
      { x with pendswap := true, imageA := x.imageA || x.actbank, imageB := x.imageB || !x.actbank }

/-- R405. -/
def execFirmwareUpdate (stack : Option Nat) (image : List Byte) (s : State) : Result :=
  match stack with
  | none => .next (s.updateFirmware image)
  | some k => .next (s.updateHeartwood k image)

/-! ### The spare grove (R12, R406) -/

/-- The spare grove of a die stands in for one of its groves (R10). -/
def State.spareTaken (s : State) (die : Nat) : Bool := (upto numGroves).any (fun g => dieOf g == die && (s.grove g).spare)

/-- The grove and the spare of its die change places. -/
def State.exchange (s : State) (g : Nat) : State := s.setGrove g { s.grove g with spare := !(s.grove g).spare }

/-- R406: the partition that has the grove is swapped out; the spare of its die then takes the grove's arrays, slice and
identity, and a restore is requested. A grove of no partition is replaced at once. The grove is enabled, and the spare free unless
the grove is taken back from it (R10, R12). -/
def execGroveReplace (grove spare : Nat) (s : State) : Result :=
  if spare ≠ dieOf grove ∨ (s.grove grove).disabled ∨ (!(s.grove grove).spare && s.spareTaken spare) then .next s
  else
    match (upto numParts).find? (fun p => s.owns p grove) with
    | none => .next ((s.setGrove grove { s.grove grove with failed := false }).exchange grove)
    | some p =>
      if (s.part p).saved.isSome then
        .next ((s.setPart p { s.part p with swapop := if (s.part p).swapop = 0 then 2 else (s.part p).swapop }).exchange grove)
      else if (s.part p).swapop = 0 then .next (s.setPart p { s.part p with swapop := 1 })
      else .next s

/-! ### Attestation (R407) -/

/-- The droop set in force, register after register (R407). -/
def PowerSt.droopBytes (x : PowerSt) : List Byte := stagedOffs.flatMap (fun off => bytesOfNat 8 (x.now off).toNat)

/-- Bytes 0 to 679 of a report. -/
def State.reportBody (s : State) (nonce : List Byte) : List Byte :=
  nonce ++ bytesOfNat 64 (Config.sha512 s.mgmt.firmware).toNat
    ++ (upto numStacks).flatMap (fun k =>
      bytesOfNat 64 (Config.sha512 (s.mem.loadBytes bankBytes (bankKey k (s.stack k).actbank 0))).toNat)
    ++ bytesOfNat 64 (Config.sha512 s.power.droopBytes).toNat ++ bytesOfNat 8 s.time.toNat

/-- R407: a signed report over a 32-byte nonce. -/
def execAttestation (nonce : List Byte) (s : State) : Result :=
  if nonce.length ≠ 32 then .next s
  else
    let b := s.reportBody nonce
    .next { s with mgmt := { s.mgmt with report := b ++ bytesOfNat 64 (Config.sign b).toNat } }

/-! ### Reset (R402) -/

/-- A management bank that fails at start is abandoned for the other one (R405). -/
def MgmtSt.started (m : MgmtSt) : MgmtSt :=
  { MgmtSt.reset with
    fw := m.fw
    fwB := if m.firmware ≠ [] && imageRefused 1 m.firmware then !m.fwB else m.fwB }

/-- The CXL ports are trained: one with a type-3 device comes up (R401, R402). -/
def State.trained (s : State) : Sparse PortSt :=
  (upto 4).foldl (fun (m : Sparse PortSt) k => m.set PortSt.reset k { s.port k with trained := (s.port k).dtype == 3 }) ⟨[]⟩

/-- The groves after a reset: which of them are enabled, and which the spare of the die stands in for, is kept (R10, R12). -/
def State.builtGroves (s : State) : Sparse GroveSt :=
  (upto numGroves).foldl (fun (m : Sparse GroveSt) g =>
    m.set GroveSt.reset g { GroveSt.reset with disabled := (s.grove g).disabled, spare := (s.grove g).spare }) ⟨[]⟩

/-- The package after its reset steps: as `State.reset`, with what the controller's store keeps, the firmware banks and the
remap tables (R86, R402), and what is built or attached. The model's own counters and agenda go on. -/
def State.rebooted (s : State) (t : Word) : State :=
  { State.reset with
    groves := s.builtGroves
    stackSts := (upto numStacks).foldl (fun (m : Sparse StackSt) k =>
      m.set StackSt.reset k { StackSt.reset with remap := (s.stack k).remap }) ⟨[]⟩
    power := { PowerSt.reset with lastUsable := t.toNat }
    mgmt := s.mgmt.started
    ports := s.trained
    time := t, agenda := s.agenda, seq := s.seq, draws := s.draws }

/-- R402: the timebase starts at 0. -/
def execColdReset (s : State) : Result := .next (s.rebooted 0)

/-- R402: after CRIT; the timebase keeps its count. -/
def execWarmReset (s : State) : Result := .next (s.rebooted s.time)

/-! ### Load images (R395) -/

/-- The 64 KiB pages that n bytes at an address touch. -/
def pagesOf (va n : Nat) : List Nat :=
  if n = 0 then [] else (upto ((va + n - 1) / 65536 + 1 - va / 65536)).map (fun i => va / 65536 + i)

/-- The host driver has mapped a 64 KiB page of the partition with V and PIN, and with W where `wr`, on memory of this device, and
no older translation of it is cached at any of the points that translate it, its eight stacks or four ports (R76, R77, R185, R394). -/
def State.pageReady (s : State) (p page : Nat) (wr : Bool) : Bool :=
  let va := page * 65536
  match s.walk p va with
  | none => false
  | some l =>
    let frame := bitsAt l.entry 16 32
    s.isLocal va && vaRegion va != 2 && bitAt l.entry 5 && (bitAt l.entry 1 || !wr)
      && (upto 4).all (fun j => (s.frameKey (vaRegion va) frame ((va + 65535 - 4096 * j) % l.size)).isSome)
      && (upto 16).all (fun j => match s.tlbHit p (va + (if vaRegion va = 0 then 256 else 4096) * j) with
        | none => true
        | some e => e.frame == frame && e.size == l.size)

/-- Bytes placed at a virtual address of the partition, a line at a time. DESIGN CHOICE (log 68): lines that a slice holds of REGION 01 and
11, dirty ones too, and of REGION 00 under an older frame of the page, stay. -/
def State.placeBytes (s : State) (p va : Nat) (bs : List Byte) : State :=
  (pieces va (bs.length + 1) bs.length).foldl (fun (t : State) e =>
    match t.translate p e.1 false with
    | (some k, u) => u.homeWrite k ((bs.drop (e.1 - va)).take e.2)
    | (none, u) => u) s

/-- The core of the image that declares it, with what the loader places there. -/
def Image.ctxCount (im : Image) (g : Nat) : Nat :=
  (im.cores.map (fun c => (c.ctxs.filter (fun x => x.gang.toNat == g)).length)).sum

/-- The class of a gang of the image. -/
def Image.classOf (im : Image) (g : Nat) : Nat := ((im.gangs.find? (fun x => x.gang == g)).map (fun x => x.cls.toNat)).getD 0

/-- The lease of one read-write range, in whole 4 KiB units (R185). -/
def leaseOf (r : Nat × Nat) : LRange :=
  { base := r.1 / 4096 * 4096, bytes := (r.2 + 4095) / 4096 * 4096 - r.1 / 4096 * 4096, wr := true }

/-- Where the loader puts the lease record of a gang (R185). -/
def State.leaseRecordVa (s : State) (p g : Nat) : Nat := (s.part p).gangbase.toNat + 0x40000 + 512 * g

/-- The 34 words of a lease record of one read-write range (R90). -/
def leaseRecord (l : LRange) : List Word :=
  [1, word (l.base + 3), word (l.bytes / 4096)] ++ List.replicate 31 0

/-- The words of a gang's descriptor, with the values of R185 for the options that are not given (R120, R231). DESIGN CHOICE (log 92): a
number of members that does not fit MEMBERS is taken modulo 65536. -/
def ImageGang.words (x : ImageGang) (members : Nat) (leaseptr : Nat) : List Word :=
  [word (x.cls.toNat + members % 65536 * 2 ^ 16), word leaseptr, word (x.handler.getD 0xFFFFFFFF#32).toNat,
    word ((x.aperiod.getD 0).toNat + (x.aoffset.getD 0).toNat * 2 ^ 32), word (x.alead.getD 0).toNat, x.wdbudget.getD 0, 0, 0]

/-- A `.gang` directive: its lease record, its lease, which is installed as `lease` does or is none, and its descriptor (R185,
R231). DESIGN CHOICE (log 68): LEASEPTR of a gang without a lease is 0. -/
def State.placeGang (s : State) (im : Image) (x : ImageGang) : State :=
  let p := im.part
  let n := (x.members.map (fun m => m.toNat)).getD (Image.ctxCount im x.gang - 1)
  let va := s.leaseRecordVa p x.gang
  match x.lease with
  | none =>
    let s1 := s.setGang p x.gang { s.gang p x.gang with lease := none }
    s1.placeBytes p (s1.descVa p x.gang) (bytesOfWords (ImageGang.words x n 0))
  | some r =>
    let s1 := s.placeBytes p va (bytesOfWords (leaseRecord (leaseOf r)))
    let s2 := s1.placeBytes p (s1.descVa p x.gang) (bytesOfWords (ImageGang.words x n va))
    (s2.changeLease p x.gang [leaseOf r] .none (Ident.supervisor p)).2

/-- The pages of the data section, each of zero bytes where no directive writes it (R185, log 68). DESIGN CHOICE (log 93): bits [63:57] of
an address that `.org` gives say nothing. -/
def State.placeData (s : State) (im : Image) : State :=
  let pages := (im.data.flatMap (fun e => pagesOf e.1 e.2.length)).eraseDups
  im.data.foldl (fun (t : State) e => t.placeBytes im.part e.1 e.2)
    (pages.foldl (fun (t : State) k => t.placeBytes im.part (k * 65536) (List.replicate 65536 0)) s)

/-- The array of a core holds zero bytes (R259). -/
def State.clearArray (s : State) (c : Nat) : State :=
  { s with
    mem := ⟨s.mem.cells.filter (fun e => e.1 < arrayKey c 0) ++ s.mem.cells.filter (fun e => arrayKey (c + 1) 0 ≤ e.1)⟩
    poison := s.poison.filter (fun a => !(decide (arrayKey c 0 ≤ a * 32) && decide (a * 32 < arrayKey (c + 1) 0))) }

/-- The start states of a `.ctx` (R354). A READY row is loaded IDLE, and made READY by its control request (R102). -/
def ImageCtx.loadState (x : ImageCtx) : Nat := if x.state = 4 then stHalt else stIdle

/-- The control word of a `.ctx` with a STATE (R96, R391). -/
def ImageCtx.ctl (x : ImageCtx) (cls st : Nat) : Word :=
  word (x.pc.toNat + st * 2 ^ 32 + cls % 8 * 2 ^ 36 + x.mode.toNat * 2 ^ 39 + x.gang.toNat * 2 ^ 44)

/-- A `.ctx` directive: its row, its registers, and its bit of the context map. -/
def State.placeCtx (s : State) (im : Image) (c : Nat) (x : ImageCtx) : State :=
  let s1 := (s.setRowBits c x.row 0).setCtl c x.row (ImageCtx.ctl x (Image.classOf im x.gang.toNat) (ImageCtx.loadState x))
  let s2 := x.regs.foldl (fun (t : State) e => if 4 ≤ e.1 ∧ e.1 < 32 then t.setSlot c x.row e.1 e.2 else t) s1
  let y := s2.core c
  s2.setCore c { y with ctxmap := y.ctxmap.set 0 (x.row / 64) (putBit (y.ctxmap.get 0 (x.row / 64)) (x.row % 64) true) }

/-- Rows, context rows and core registers of a core of the image. -/
def State.placeCore (s : State) (im : Image) (x : ImageCore) : State :=
  let s1 := x.rows.foldl (fun (t : State) e => t.setRowBits x.core e.1 (BitVec.ofNat 2048 (natOfBytes (e.2.take 256))))
    (s.clearArray x.core)
  x.ctxs.foldl (fun (t : State) y => t.placeCtx im x.core y) s1

/-- `.kset` values (R183). -/
def State.placeKsets (s : State) (x : ImageCore) : State :=
  x.ksets.foldl (fun (t : State) e => t.setCore x.core ((t.core x.core).setKreg e.1 e.2)) s

/-- The code in blocks of 32 bytes, the last filled with pads (R393). -/
def codeBlocks : Nat → List Byte → List (List Byte)
  | 0, _ => []
  | fuel + 1, bs => if bs.isEmpty then [] else bs.take 32 :: codeBlocks fuel (bs.drop 32)

/-- A block as the instruction cache holds it; what the code leaves of its last block is pad words. -/
def blockBits (bs : List Byte) : BitVec 256 :=
  BitVec.ofNat 256 (natOfBytes (bs ++ ((List.replicate 8 [3, 0, 0, 0]).flatten.drop bs.length)))

/-- The groves that hold a context row of the image. -/
def Image.codeGroves (im : Image) : List Nat :=
  ((im.cores.filter (fun c => !c.ctxs.isEmpty)).map (fun c => groveOf c.core)).eraseDups

/-- CODEBASE of every core of the partition, the code in memory, and in the instruction caches (R183, R394). -/
def State.placeProgram (s : State) (im : Image) : State :=
  let s1 := (s.coresOf im.part).foldl (fun (t : State) c => t.setCore c { t.core c with codebase := im.codeBase }) s
  let s2 := s1.placeBytes im.part im.codeBase.toNat im.code
  let bs := codeBlocks im.code.length im.code
  let blocks := (upto bs.length).map (fun i =>
    ({ part := im.part, codebase := im.codeBase, va := (im.codeBase.toNat + 32 * i) % 2 ^ 57,
       data := blockBits (bs.getD i []) } : ICBlock))
  (Image.codeGroves im).foldl (fun (t : State) g =>
    let all := (t.grove g).icache.filter (fun b => !blocks.any (fun x => x.part == b.part && x.codebase == b.codebase && x.va == b.va))
      ++ blocks
    t.setGrove g { t.grove g with icache := all.drop (all.length - 8192) }) s2

/-- A pair into a list that ascends by its first part, then its second. -/
def insertPair (x : (Nat × Nat) × Word) : List ((Nat × Nat) × Word) → List ((Nat × Nat) × Word)
  | [] => [x]
  | y :: ys => if x.1.1 < y.1.1 ∨ (x.1.1 = y.1.1 ∧ x.1.2 < y.1.2) then x :: y :: ys else y :: insertPair x ys

/-- The READY rows of the image with their control words, by core and row (R102). -/
def Image.starts (im : Image) : List ((Nat × Nat) × Word) :=
  (im.cores.flatMap (fun c => (c.ctxs.filter (fun x => x.state == 1)).map (fun x =>
    ((c.core, x.row), ImageCtx.ctl x (Image.classOf im x.gang.toNat) stReady)))).foldr insertPair []

/-! ### What the loader takes (R392, R394, R395) -/

/-- No number stands twice in a list. -/
def distinct : List Nat → Bool
  | [] => true
  | x :: xs => !xs.contains x && distinct xs

/-- No two data statements write the same byte. -/
def apart : List (Nat × List Byte) → Bool
  | [] => true
  | e :: es => es.all (fun d => !overlaps e.1 e.2.length d.1 d.2.length) && apart es

/-- DLOGBASE of a core as the image leaves it. -/
def ImageCore.logBase (x : ImageCore) : Nat := (((x.ksets.filter (fun e => e.1 == 0x162)).getLast?.map (fun e => e.2.toNat))).getD 0

/-- A `.kset` names a register that a program may set, with a value that R47 takes (R392). -/
def State.ksetOk (s : State) (c : Nat) (e : Nat × Word) : Bool :=
  kregDefined e.1 && !kregReadOnly e.1 && !(decide (0x100 ≤ e.1) && decide (e.1 < 0x140)) && e.1 != 0x160 && s.kregOk c e.1 e.2

/-- The part of an image for one core breaks no rule of R391 and R392. DESIGN CHOICE (log 68): an image that names a core whose grove is
in G3 is not taken, since an access to its array is refused with ABSENT (R349). -/
def State.imageCoreOk (s : State) (im : Image) (x : ImageCore) : Bool :=
  s.inPart im.part x.core && !s.absent x.core
    && distinct (x.rows.map (fun e => e.1) ++ x.ctxs.map (fun y => y.row))
    && x.rows.all (fun e => decide (e.1 < 4096) && decide (e.2.length ≤ 256))
    && x.ctxs.all (fun y => decide (y.row < 4096) && (y.state == 0 || y.state == 1 || y.state == 4)
      && im.gangs.any (fun g => g.gang == y.gang.toNat) && decide (16 ≤ (y.row + 4096 - ImageCore.logBase x) % 4096))
    && x.ksets.all (s.ksetOk x.core)

/-- The addresses at which the 2 MiB of a partition's lease records begin, under each of the two ids of this device (R72, R185). -/
def State.recordAreas (s : State) (p : Nat) : List Nat :=
  let va := s.canonVa ((s.part p).gangbase.toNat + 0x40000)
  if s.isLocal va then [va, va % 2 ^ 47 + s.fabric.nodeId * 2 ^ 47] else [va]

/-- A gang of the image can be declared: no revocation of its lease is in progress, and the range of its lease is one that covers no
address of the lease records, under either id of this device (R91, R185). -/
def State.imageGangOk (s : State) (im : Image) (x : ImageGang) : Bool :=
  decide (x.gang < 4096) && (s.gang im.part x.gang).revoking.isNone
    && (match x.lease with
      | none => true
      | some r => !leaseBad (leaseRecord (leaseOf r))
          && (s.recordAreas im.part).all (fun va => !overlaps (leaseOf r).base (leaseOf r).bytes va (2 ^ 21)))

/-- The image is one that the assembler writes, for a partition whose cores it names (R392, R394). -/
def State.imageOk (s : State) (im : Image) : Bool :=
  within im.codeBase (maskBits 12 45) && distinct (im.gangs.map (fun x => x.gang)) && im.gangs.all (s.imageGangOk im)
    && distinct (im.cores.map (fun x => x.core)) && im.cores.all (s.imageCoreOk im) && apart im.data

/-- The pages that the image needs are mapped (R185, R394, R395). -/
def State.imageMapped (s : State) (im : Image) : Bool :=
  let p := im.part
  let records := im.gangs.filter (fun x => x.lease.isSome)
  (im.data.flatMap (fun e => pagesOf e.1 e.2.length)).all (fun k => s.pageReady p k true)
    && (im.gangs.flatMap (fun x => pagesOf (s.descVa p x.gang) 64)).all (fun k => s.pageReady p k true)
    && (records.flatMap (fun x => pagesOf (s.leaseRecordVa p x.gang) 272)).all (fun k => s.pageReady p k true)
    && (pagesOf im.codeBase.toNat im.code.length).all (fun k => s.pageReady p k false)

/-- The page-table entries that the host driver writes for the image. -/
def State.placePtes (s : State) (im : Image) : State :=
  im.ptes.foldl (fun (t : State) e => t.homeWrite (dramKey e.1 e.2.1) (bytesOfNat 8 e.2.2.toNat)) s

/-- The image is placed, with its pages mapped, and its READY rows are started, in the order of R395. -/
def State.loadImage (s : State) (im : Image) : State :=
  let s1 := im.cores.foldl (fun (t : State) x => t.rouse (groveOf x.core)) (s.placeData im)
  let s2 := im.gangs.foldl (fun (t : State) x => t.placeGang im x) s1
  let s3 := im.cores.foldl (fun (t : State) x => t.placeCore im x) s2
  let s4 := (im.cores.foldl (fun (t : State) x => t.placeKsets x) s3).placeProgram im
  (Image.starts im).foldl (fun (t : State) e => t.applyControl (Ident.supervisor im.part) e.1.1 e.1.2 e.2) s4

/-- R395. The loader refuses an image that names a core outside its partition (R392), and takes none that the assembler does not
write or whose pages the driver does not map. -/
def execLoadImage (image : Image) (s : State) : Result :=
  if s.imageOk image && (s.placePtes image).imageMapped image then .next ((s.placePtes image).loadImage image) else .next s

/-! ### Moves (log 1) -/

/-- A move other than an instruction or an agent's step (R13, R16, R77, R79, R118, R192, R397, R406). -/
def State.otherMove (s : State) : Move → State
  | .issue _ _ => s
  | .agent _ => s
  | .part _ _ => s
  | .tick ns => s.tick ns
  | .clock g => s.clockGrove g
  | .sample c r k src => s.sampleRow c r k src
  | .evictTlb k => { s with tlb := dropNth s.tlb k }
  | .evictLine g k => s.evictSlice g k
  | .evictCode g k => s.setGrove g { s.grove g with icache := dropNth (s.grove g).icache k }
  | .evictSide k line =>
    s.recall (fun _ l => decide (dramKey k (2048 * line) ≤ l.key) && decide (l.key < dramKey k (2048 * line + 2048))) true
  | .hostRead w off n => s.hostRead w off n
  | .groveFail g => s.failGrove g
  | .prefetch c r target => s.prefetchAhead c r target

/-- The outcome of one part of an engine's step (log 63): `pause` says nothing between moves. -/
def partDone (r : Result) : Result :=
  match r with
  | .next t => .next { t with pause := none }
  | .fault f => .fault f
  | .refused e => .refused e

end Sys2Proof.Machine
end

