-- ==== Sys2Proof/Machine/Dispatch.lean ====
section
/-! DEFINITION. One arm for each constructor of `Instr`: a direct call of its meaning. -/

namespace Sys2Proof.Machine

def exec (i : Instr) (s : State) : Host.Outcome State Fault Refusal :=
  match i with
  | .nop o => Sys2Proof.Machine.execNop o s
  | .hintGather o => Sys2Proof.Machine.execHintGather o s
  | .hintFetch o => Sys2Proof.Machine.execHintFetch o s
  | .pbr o => Sys2Proof.Machine.execPbr o s
  | .pbrRegister o => Sys2Proof.Machine.execPbrRegister o s
  | .br o => Sys2Proof.Machine.execBr o s
  | .bCc o => Sys2Proof.Machine.execBCc o s
  | .biCc o => Sys2Proof.Machine.execBiCc o s
  | .loop o => Sys2Proof.Machine.execLoop o s
  | .j o => Sys2Proof.Machine.execJ o s
  | .call o => Sys2Proof.Machine.execCall o s
  | .jr o => Sys2Proof.Machine.execJr o s
  | .callr o => Sys2Proof.Machine.execCallr o s
  | .yield o => Sys2Proof.Machine.execYield o s
  | .halt o => Sys2Proof.Machine.execHalt o s
  | .waitClasp o => Sys2Proof.Machine.execWaitClasp o s
  | .waitAll o => Sys2Proof.Machine.execWaitAll o s
  | .waitAny o => Sys2Proof.Machine.execWaitAny o s
  | .waitUntil o => Sys2Proof.Machine.execWaitUntil o s
  | .trap o => Sys2Proof.Machine.execTrap o s
  | .brk o => Sys2Proof.Machine.execBrk o s
  | .tret o => Sys2Proof.Machine.execTret o s
  | .add o => Sys2Proof.Machine.execAdd o s
  | .sub o => Sys2Proof.Machine.execSub o s
  | .and o => Sys2Proof.Machine.execAnd o s
  | .or o => Sys2Proof.Machine.execOr o s
  | .xor o => Sys2Proof.Machine.execXor o s
  | .andn o => Sys2Proof.Machine.execAndn o s
  | .shl o => Sys2Proof.Machine.execShl o s
  | .shr o => Sys2Proof.Machine.execShr o s
  | .sar o => Sys2Proof.Machine.execSar o s
  | .rol o => Sys2Proof.Machine.execRol o s
  | .mul o => Sys2Proof.Machine.execMul o s
  | .mulh o => Sys2Proof.Machine.execMulh o s
  | .div o => Sys2Proof.Machine.execDiv o s
  | .rem o => Sys2Proof.Machine.execRem o s
  | .min o => Sys2Proof.Machine.execMin o s
  | .max o => Sys2Proof.Machine.execMax o s
  | .cmpCc o => Sys2Proof.Machine.execCmpCc o s
  | .sel o => Sys2Proof.Machine.execSel o s
  | .li o => Sys2Proof.Machine.execLi o s
  | .lea o => Sys2Proof.Machine.execLea o s
  | .bext o => Sys2Proof.Machine.execBext o s
  | .bins o => Sys2Proof.Machine.execBins o s
  | .clz o => Sys2Proof.Machine.execClz o s
  | .ctz o => Sys2Proof.Machine.execCtz o s
  | .popc o => Sys2Proof.Machine.execPopc o s
  | .madd o => Sys2Proof.Machine.execMadd o s
  | .fadd o => Sys2Proof.Machine.execFadd o s
  | .fsub o => Sys2Proof.Machine.execFsub o s
  | .fmul o => Sys2Proof.Machine.execFmul o s
  | .ffma o => Sys2Proof.Machine.execFfma o s
  | .fdiv o => Sys2Proof.Machine.execFdiv o s
  | .fsqrt o => Sys2Proof.Machine.execFsqrt o s
  | .fmin o => Sys2Proof.Machine.execFmin o s
  | .fmax o => Sys2Proof.Machine.execFmax o s
  | .fcmpCc o => Sys2Proof.Machine.execFcmpCc o s
  | .fcvt o => Sys2Proof.Machine.execFcvt o s
  | .fsgn o => Sys2Proof.Machine.execFsgn o s
  | .fsgnN o => Sys2Proof.Machine.execFsgnN o s
  | .fsgnX o => Sys2Proof.Machine.execFsgnX o s
  | .fclass o => Sys2Proof.Machine.execFclass o s
  | .ld o => Sys2Proof.Machine.execLd o s
  | .st o => Sys2Proof.Machine.execSt o s
  | .lr o => Sys2Proof.Machine.execLr o s
  | .sr o => Sys2Proof.Machine.execSr o s
  | .ldm o => Sys2Proof.Machine.execLdm o s
  | .stm o => Sys2Proof.Machine.execStm o s
  | .pf o => Sys2Proof.Machine.execPf o s
  | .fence o => Sys2Proof.Machine.execFence o s
  | .fenceLb o => Sys2Proof.Machine.execFenceLb o s
  | .lock o => Sys2Proof.Machine.execLock o s
  | .unlock o => Sys2Proof.Machine.execUnlock o s
  | .gresize o => Sys2Proof.Machine.execGresize o s
  | .wb o => Sys2Proof.Machine.execWb o s
  | .inv o => Sys2Proof.Machine.execInv o s
  | .amoAdd o => Sys2Proof.Machine.execAmoAdd o s
  | .amoAnd o => Sys2Proof.Machine.execAmoAnd o s
  | .amoOr o => Sys2Proof.Machine.execAmoOr o s
  | .amoXor o => Sys2Proof.Machine.execAmoXor o s
  | .amoMin o => Sys2Proof.Machine.execAmoMin o s
  | .amoMax o => Sys2Proof.Machine.execAmoMax o s
  | .amoMinn o => Sys2Proof.Machine.execAmoMinn o s
  | .amoMaxn o => Sys2Proof.Machine.execAmoMaxn o s
  | .amoSwap o => Sys2Proof.Machine.execAmoSwap o s
  | .acas o => Sys2Proof.Machine.execAcas o s
  | .famoAdd o => Sys2Proof.Machine.execFamoAdd o s
  | .famoMin o => Sys2Proof.Machine.execFamoMin o s
  | .famoMax o => Sys2Proof.Machine.execFamoMax o s
  | .famoAdd2 o => Sys2Proof.Machine.execFamoAdd2 o s
  | .clarm o => Sys2Proof.Machine.execClarm o s
  | .tagclr o => Sys2Proof.Machine.execTagclr o s
  | .tagffr o => Sys2Proof.Machine.execTagffr o s
  | .gbar o => Sys2Proof.Machine.execGbar o s
  | .gbarArrive o => Sys2Proof.Machine.execGbarArrive o s
  | .gbarWait o => Sys2Proof.Machine.execGbarWait o s
  | .gset o => Sys2Proof.Machine.execGset o s
  | .gsetClr o => Sys2Proof.Machine.execGsetClr o s
  | .kget o => Sys2Proof.Machine.execKget o s
  | .kset o => Sys2Proof.Machine.execKset o s
  | .send o => Sys2Proof.Machine.execSend o s
  | .post o => Sys2Proof.Machine.execPost o s
  | .sig o => Sys2Proof.Machine.execSig o s
  | .launch o => Sys2Proof.Machine.execLaunch o s
  | .respub o => Sys2Proof.Machine.execRespub o s
  | .resdrop o => Sys2Proof.Machine.execResdrop o s
  | .resq o => Sys2Proof.Machine.execResq o s
  | .radd o => Sys2Proof.Machine.execRadd o s
  | .rsub o => Sys2Proof.Machine.execRsub o s
  | .rmul o => Sys2Proof.Machine.execRmul o s
  | .rfma o => Sys2Proof.Machine.execRfma o s
  | .rmax o => Sys2Proof.Machine.execRmax o s
  | .rmin o => Sys2Proof.Machine.execRmin o s
  | .rabs o => Sys2Proof.Machine.execRabs o s
  | .rneg o => Sys2Proof.Machine.execRneg o s
  | .rscal o => Sys2Proof.Machine.execRscal o s
  | .rcmpCc o => Sys2Proof.Machine.execRcmpCc o s
  | .rsel o => Sys2Proof.Machine.execRsel o s
  | .rsum o => Sys2Proof.Machine.execRsum o s
  | .rmaxr o => Sys2Proof.Machine.execRmaxr o s
  | .rdot o => Sys2Proof.Machine.execRdot o s
  | .rscan o => Sys2Proof.Machine.execRscan o s
  | .rcvt o => Sys2Proof.Machine.execRcvt o s
  | .rqnt o => Sys2Proof.Machine.execRqnt o s
  | .rdqnt o => Sys2Proof.Machine.execRdqnt o s
  | .rpack o => Sys2Proof.Machine.execRpack o s
  | .runpk o => Sys2Proof.Machine.execRunpk o s
  | .rexp2 o => Sys2Proof.Machine.execRexp2 o s
  | .rlog2 o => Sys2Proof.Machine.execRlog2 o s
  | .rrcp o => Sys2Proof.Machine.execRrcp o s
  | .rrsqrt o => Sys2Proof.Machine.execRrsqrt o s
  | .rperm o => Sys2Proof.Machine.execRperm o s
  | .rbcast o => Sys2Proof.Machine.execRbcast o s
  | .rmov o => Sys2Proof.Machine.execRmov o s
  | .rclr o => Sys2Proof.Machine.execRclr o s
  | .riota o => Sys2Proof.Machine.execRiota o s
  | .rbitAnd o => Sys2Proof.Machine.execRbitAnd o s
  | .rbitOr o => Sys2Proof.Machine.execRbitOr o s
  | .rbitXor o => Sys2Proof.Machine.execRbitXor o s
  | .rbitAndn o => Sys2Proof.Machine.execRbitAndn o s
  | .rbitNot o => Sys2Proof.Machine.execRbitNot o s
  | .rshShl o => Sys2Proof.Machine.execRshShl o s
  | .rshShr o => Sys2Proof.Machine.execRshShr o s
  | .rshSar o => Sys2Proof.Machine.execRshSar o s
  | .rshRol o => Sys2Proof.Machine.execRshRol o s
  | .rget o => Sys2Proof.Machine.execRget o s
  | .rset o => Sys2Proof.Machine.execRset o s
  | .gstop o => Sys2Proof.Machine.execGstop o s
  | .gstopP o => Sys2Proof.Machine.execGstopP o s
  | .gresume o => Sys2Proof.Machine.execGresume o s
  | .gresumeP o => Sys2Proof.Machine.execGresumeP o s
  | .lease o => Sys2Proof.Machine.execLease o s
  | .tlbinv o => Sys2Proof.Machine.execTlbinv o s
  | .dlharvest o => Sys2Proof.Machine.execDlharvest o s
  | .rowpool o => Sys2Proof.Machine.execRowpool o s
  | .preq o => Sys2Proof.Machine.execPreq o s
  | .mcall o => Sys2Proof.Machine.execMcall o s
  | .longLatencyCompletion core row k => Sys2Proof.Machine.execLongLatencyCompletion core row k s
  | .storeAcceptance k => Sys2Proof.Machine.execStoreAcceptance k s
  | .trapEntry core row => Sys2Proof.Machine.execTrapEntry core row s
  | .engineTrapDelivery core row => Sys2Proof.Machine.execEngineTrapDelivery core row s
  | .activation core => Sys2Proof.Machine.execActivation core s
  | .rowClose core row => Sys2Proof.Machine.execRowClose core row s
  | .quantumExpiry core row => Sys2Proof.Machine.execQuantumExpiry core row s
  | .aging core cycles => Sys2Proof.Machine.execAging core cycles s
  | .controlRequest k => Sys2Proof.Machine.execControlRequest k s
  | .outsideAccess k => Sys2Proof.Machine.execOutsideAccess k s
  | .claspArrival k => Sys2Proof.Machine.execClaspArrival k s
  | .claspDeadline core row => Sys2Proof.Machine.execClaspDeadline core row s
  | .timeWake core row => Sys2Proof.Machine.execTimeWake core row s
  | .barrierRelease part gang => Sys2Proof.Machine.execBarrierRelease part gang s
  | .barrierReread part gang => Sys2Proof.Machine.execBarrierReread part gang s
  | .revocationComplete part gang => Sys2Proof.Machine.execRevocationComplete part gang s
  | .matrixCommandStore k => Sys2Proof.Machine.execMatrixCommandStore k s
  | .wload core => Sys2Proof.Machine.execWload core s
  | .mrun core => Sys2Proof.Machine.execMrun core s
  | .mrunTimedStart core => Sys2Proof.Machine.execMrunTimedStart core s
  | .injection core => Sys2Proof.Machine.execInjection core s
  | .cRowWrite core => Sys2Proof.Machine.execCRowWrite core s
  | .mzero core => Sys2Proof.Machine.execMzero core s
  | .msync core => Sys2Proof.Machine.execMsync core s
  | .mfill core => Sys2Proof.Machine.execMfill core s
  | .mnop core => Sys2Proof.Machine.execMnop core s
  | .resume core => Sys2Proof.Machine.execResume core s
  | .flush core => Sys2Proof.Machine.execFlush core s
  | .slewStep grove => Sys2Proof.Machine.execSlewStep grove s
  | .head k => Sys2Proof.Machine.execHead k s
  | .stop k => Sys2Proof.Machine.execStop k s
  | .linear core ch => Sys2Proof.Machine.execLinear core ch s
  | .tensor core ch => Sys2Proof.Machine.execTensor core ch s
  | .gather core ch => Sys2Proof.Machine.execGather core ch s
  | .scatter core ch => Sys2Proof.Machine.execScatter core ch s
  | .expand core ch => Sys2Proof.Machine.execExpand core ch s
  | .repl core ch => Sys2Proof.Machine.execRepl core ch s
  | .callRecordStore k => Sys2Proof.Machine.execCallRecordStore k s
  | .gemv stack => Sys2Proof.Machine.execGemv stack s
  | .gemvAccumulate stack => Sys2Proof.Machine.execGemvAccumulate stack s
  | .gemvBatch stack => Sys2Proof.Machine.execGemvBatch stack s
  | .axpy stack => Sys2Proof.Machine.execAxpy stack s
  | .gatherRows stack => Sys2Proof.Machine.execGatherRows stack s
  | .expandEntry stack => Sys2Proof.Machine.execExpandEntry stack s
  | .reduceMax stack => Sys2Proof.Machine.execReduceMax stack s
  | .callAbort stack => Sys2Proof.Machine.execCallAbort stack s
  | .broadcastWrite k => Sys2Proof.Machine.execBroadcastWrite k s
  | .heartwoodSwap stack => Sys2Proof.Machine.execHeartwoodSwap stack s
  | .taskHeaderStore k => Sys2Proof.Machine.execTaskHeaderStore k s
  | .placement part => Sys2Proof.Machine.execPlacement part s
  | .write k => Sys2Proof.Machine.execWrite k s
  | .read k => Sys2Proof.Machine.execRead k s
  | .resp k => Sys2Proof.Machine.execResp k s
  | .atomic k => Sys2Proof.Machine.execAtomic k s
  | .count k => Sys2Proof.Machine.execCount k s
  | .postMessage k => Sys2Proof.Machine.execPostMessage k s
  | .ringAppend core ring => Sys2Proof.Machine.execRingAppend core ring s
  | .ack k => Sys2Proof.Machine.execAck k s
  | .nak link => Sys2Proof.Machine.execNak link s
  | .linkRetrain link => Sys2Proof.Machine.execLinkRetrain link s
  | .beacon link => Sys2Proof.Machine.execBeacon link s
  | .beaconSend link => Sys2Proof.Machine.execBeaconSend link s
  | .timebaseStale => Sys2Proof.Machine.execTimebaseStale s
  | .routeWrite node v => Sys2Proof.Machine.execRouteWrite node v s
  | .tparentWrite v => Sys2Proof.Machine.execTparentWrite v s
  | .registerWrite w => Sys2Proof.Machine.execRegisterWrite w s
  | .telemetryFrame bytes => Sys2Proof.Machine.execTelemetryFrame bytes s
  | .replay k => Sys2Proof.Machine.execReplay k s
  | .tctl k => Sys2Proof.Machine.execTctl k s
  | .commit k => Sys2Proof.Machine.execCommit k s
  | .telemetryStale => Sys2Proof.Machine.execTelemetryStale s
  | .shedDeadline cls => Sys2Proof.Machine.execShedDeadline cls s
  | .operatingPointChange grove => Sys2Proof.Machine.execOperatingPointChange grove s
  | .sensorRead n temp => Sys2Proof.Machine.execSensorRead n temp s
  | .idleEntry grove => Sys2Proof.Machine.execIdleEntry grove s
  | .groveWake grove => Sys2Proof.Machine.execGroveWake grove s
  | .watchdogCheck part gang => Sys2Proof.Machine.execWatchdogCheck part gang s
  | .watchdogExpiry part gang => Sys2Proof.Machine.execWatchdogExpiry part gang s
  | .dirtyLogMerge core half => Sys2Proof.Machine.execDirtyLogMerge core half s
  | .remapAdd stack atom => Sys2Proof.Machine.execRemapAdd stack atom s
  | .faultRecordAppend part => Sys2Proof.Machine.execFaultRecordAppend part s
  | .swapOut part => Sys2Proof.Machine.execSwapOut part s
  | .swapRestore part => Sys2Proof.Machine.execSwapRestore part s
  | .groves part v => Sys2Proof.Machine.execGroves part v s
  | .functionLevelReset part => Sys2Proof.Machine.execFunctionLevelReset part s
  | .hostUnitWrite part offset data => Sys2Proof.Machine.execHostUnitWrite part offset data s
  | .mailboxInterrupt k => Sys2Proof.Machine.execMailboxInterrupt k s
  | .checkpoint part base => Sys2Proof.Machine.execCheckpoint part base s
  | .firmwareUpdate stack image => Sys2Proof.Machine.execFirmwareUpdate stack image s
  | .groveReplace grove spare => Sys2Proof.Machine.execGroveReplace grove spare s
  | .attestation nonce => Sys2Proof.Machine.execAttestation nonce s
  | .coldReset => Sys2Proof.Machine.execColdReset s
  | .warmReset => Sys2Proof.Machine.execWarmReset s
  | .loadImage image => Sys2Proof.Machine.execLoadImage image s
  | .flit link bytes => Sys2Proof.Machine.execFlit link bytes s

end Sys2Proof.Machine
end

