-- ==== Sys2Proof/Machine/Step.lean ====
section
/-! DEFINITION. One step of the machine: the next move of the agenda, or the default move when the agenda is empty. -/

namespace Sys2Proof.Machine

/-- A move performed: an issue runs what `prepare` finds, an agent's step runs through `exec`. -/
def perform (m : Move) (s : State) : Host.Outcome State Fault Refusal :=
  if !m.unitsOk then .fault .noSuchUnit
  else if !s.mgmt.powered && !m.isReset then .fault .powerOff
  else
    match m with
    | .issue c r =>
      match s.prepare c r with
      | .run i s1 => exec i s1
      | .done s1 => .next s1
    | .agent i => exec i s
    | .part i n => partDone (exec i { s with pause := some n })
    | m => .next (s.otherMove m)

/-- One step. -/
def step (s : State) : Host.Outcome State Fault Refusal :=
  match s.agenda with
  | [] => perform s.defaultMove s
  | m :: rest => perform m { s with agenda := rest }

/-- `s` with an instruction of the opcode table placed where the next step fetches it (log 16). -/
def State.withFetchWord (s : State) (nbits w : Nat) : State := s.placeCode (bytesOfNat 16 (w % 2 ^ nbits))

end Sys2Proof.Machine
end

