-- ==== Sys2Proof/Safety.lean ====
section
/-! DEFINITION. What counts as a safe run, and the terms claims use: what a step leaves alone, what an instruction that writes
a register does, and what an instruction that becomes pending does. -/

namespace Sys2Proof.Safety

open Sys2Proof.Machine

/-- A step answers a next state. -/
def completes (s : State) : Prop := ∃ t, step s = .next t

/-- Every one of n steps answers a next state. -/
def safeFor (n : Nat) (s : State) : Prop := ∃ t, Sys2Proof.core.run n s = .next t

/-- The first n bytes of slot j of a row (R95). -/
def InSlot (c r j n k : Nat) : Prop := slotKey c r j ≤ k ∧ k < slotKey c r j + n

/-- `t` differs from `s` in memory alone, and there only in bytes that `p` picks: every register outside them, every core,
grove, stack, gang, partition, link, queue and controller, and the timebase are unchanged. -/
def MemoryOnly (s t : State) (p : Nat → Prop) : Prop :=
  t = { s with mem := t.mem } ∧ ∀ k, ¬ p k → t.mem.read k = s.mem.read k

/-- Only PC of the issuing row changes, to `target`: the other bytes of its control word (STATE, CLASS, MODE, WAITKIND and
GANG) stay too. -/
def SetsPc (s t : State) (target : BitVec 32) : Prop :=
  MemoryOnly s t (InSlot s.curCore s.curRow 0 4) ∧ t.pc = target

/-- PC goes past the instruction and nothing else changes. -/
def OnlyAdvances (s t : State) (o : Operands) : Prop := SetsPc s t (s.pc + BitVec.ofNat 32 o.len.units)

/-- Register d of the issuing row takes `v` (nothing when d is 0, and w0 reads as zero: R32), PC takes `target`, and nothing
else changes. -/
def SetsRegisterAndPc (s t : State) (d : Nat) (v : Word) (target : BitVec 32) : Prop :=
  MemoryOnly s t (fun k => InSlot s.curCore s.curRow 0 4 k ∨ (d ≠ 0 ∧ InSlot s.curCore s.curRow d 8 k))
    ∧ t.reg d = (if d = 0 then 0 else v) ∧ t.pc = target

/-- An instruction that writes register d and goes to the next instruction. -/
def WritesRegister (s t : State) (o : Operands) (d : Nat) (v : Word) : Prop :=
  SetsRegisterAndPc s t d v (s.pc + BitVec.ofNat 32 o.len.units)

/-- A long-latency instruction has issued (R113): the operation `op` stands last among the pending operations of its row, with
the LAH window of the instruction, PC goes past it, and nothing else changes but the program-order number. -/
def BecomesPending (s t : State) (o : Operands) (op : PendOp) (acquire : Bool) : Prop :=
  let c := s.curCore
  let r := s.curRow
  (∃ p : Pending, t.pendingOf c r = s.pendingOf c r ++ [p] ∧ p.op = op ∧ p.acquire = acquire ∧ p.lah = o.lah.toNat
      ∧ p.since = 0 ∧ p.pc = s.pc ∧ p.len = o.len.units ∧ p.seq = s.seq)
    ∧ t = { s with mem := t.mem, cores := t.cores, seq := s.seq + 1 }
    ∧ (∀ k, ¬ InSlot c r 0 4 k → t.mem.read k = s.mem.read k)
    ∧ t.pc = s.pc + BitVec.ofNat 32 o.len.units
    ∧ (∀ d, d ≠ c → t.core d = s.core d)
    ∧ t.core c = { s.core c with latches := (t.core c).latches }
    ∧ (∀ q, q ≠ r → t.latch? c q = s.latch? c q)

/-- From `u`, in which the access of the issuing row of `s` is pending, to `t`: nothing more when the address is this device's,
else one message of class 1 to the device it names (R308, R324). -/
def Requests (s u t : State) (kind aux va : Nat) (data : List Byte) : Prop :=
  (s.isLocal va = true → t = u)
    ∧ (s.isLocal va = false → t = { u with seq := u.seq + 1, msgs := u.msgs ++ [{
        mkind := kind, cls := 1, chan := 0, via := 0, id := s.me, addr := va, aux := aux, data := data, count := none,
        ackreq := false, acktag := 0, remote := false, inCore := false, sys := false, seq := u.seq }] })

/-- Everything but memory and the cores is unchanged. -/
def CoresAndMemory (s t : State) : Prop := t = { s with mem := t.mem, cores := t.cores }

/-- Core c alone changes, and no byte of memory. -/
def CoreOnly (s t : State) (c : Nat) : Prop := t = { s with cores := t.cores } ∧ ∀ d, d ≠ c → t.core d = s.core d

/-- The row has no pending operation and no store that is not accepted (R122). -/
def Drained (s : State) (c r : Nat) : Prop := s.pendingOf c r = [] ∧ s.outstanding c r = []

/-- The invariant of every step: memory keeps its canonical form, so that equal memories are equal data. -/
def Canonical (s : State) : Prop := s.mem.wf = true

/-! ### Answers -/

/-- The instruction answers a next state, and `p` holds of it. -/
abbrev Answers (i : Instr) (s : State) (p : State → Prop) : Prop := ∃ t, Sys2Proof.Machine.exec i s = .next t ∧ p t

/-- The instruction takes a trap with a cause and a CODE (R122): it answers what the one shared operation gives. -/
abbrev Traps (i : Instr) (s : State) (o : Operands) (k : Cause) (code : Nat) : Prop := Answers i s (fun t => t = s.trap o k code)

/-- The issuing row is a row of the package (R10). -/
def RowExists (s : State) : Prop := s.curCore < numCores ∧ s.curRow < 4096

/-! ### Families of forms -/

/-- The forms of the row ALU (R187). -/
def rowAluForms (o : Operands) : List Instr :=
  [.radd o, .rsub o, .rmul o, .rfma o, .rmax o, .rmin o, .rabs o, .rneg o, .rscal o, .rcmpCc o, .rsel o, .rsum o, .rmaxr o, .rdot o,
    .rscan o, .rcvt o, .rqnt o, .rdqnt o, .rpack o, .runpk o, .rexp2 o, .rlog2 o, .rrcp o, .rrsqrt o, .rperm o, .rbcast o, .rmov o,
    .rclr o, .riota o, .rbitAnd o, .rbitOr o, .rbitXor o, .rbitAndn o, .rbitNot o, .rshShl o, .rshShr o, .rshSar o, .rshRol o, .rget o,
    .rset o]

/-- Short forms that neither access memory nor wait for anything of their own (R113, R116). -/
def shortForms (o : Operands) : List Instr :=
  [.nop o, .hintFetch o, .pbr o, .pbrRegister o, .add o, .sub o, .and o, .or o, .xor o, .andn o, .shl o, .shr o, .sar o, .rol o, .mul o,
    .mulh o, .min o, .max o, .cmpCc o, .sel o, .li o, .lea o, .bext o, .bins o, .clz o, .ctz o, .popc o, .madd o, .fadd o, .fsub o, .fmul o,
    .ffma o, .fmin o, .fmax o, .fcmpCc o, .fcvt o, .fsgn o, .fsgnN o, .fsgnX o, .fclass o, .tagclr o, .tagffr o, .kget o, .kset o,
    .unlock o, .rowpool o, .preq o, .mcall o]

/-! ### Integer operands (R134, R140) -/

/-- The second operand: `imm` where FN[7] is set, else register B. -/
def operandB (s : State) (o : Operands) : Word := if o.fn.getLsbD 7 then o.imm else s.reg o.rb

/-- A result on 64 bits, or on bits [31:0] and sign-extended where FN[6] is set. -/
def intForm (o : Operands) (f : {n : Nat} → BitVec n → BitVec n → BitVec n) (x y : Word) : Word :=
  if o.fn.getLsbD 6 then (f (x.setWidth 32) (y.setWidth 32)).signExtend 64 else f x y

/-- A relation of R134 on n-bit operands by its code. -/
def relation (cc : Nat) {n : Nat} (x y : BitVec n) : Bool :=
  match cc with
  | 0 => x == y
  | 1 => x != y
  | 2 => x.slt y
  | 3 => y.sle x
  | 4 => x.ult y
  | _ => y.ule x

/-- `Cond` of R134: c is FN[2:0] and w is FN[6]. -/
def condition (o : Operands) (x y : Word) : Bool :=
  if o.fn.getLsbD 6 then relation (o.fn.toNat % 8) (x.setWidth 32) (y.setWidth 32) else relation (o.fn.toNat % 8) x y

/-! ### Rows that close -/

/-- The issuing row issues nothing more: its latch takes `intent`, its wait-table entries `reserved` are added, PC is `pc`, and
nothing else changes. -/
def Turns (s t : State) (intent : Intent) (pc : BitVec 32) (reserved : List WaitEntry) : Prop :=
  let c := s.curCore
  let r := s.curRow
  CoresAndMemory s t ∧ (∀ k, ¬ InSlot c r 0 4 k → t.mem.read k = s.mem.read k) ∧ t.pc = pc ∧ (∀ d, d ≠ c → t.core d = s.core d)
    ∧ t.core c = { s.core c with latches := (t.core c).latches, waits := (s.core c).waits ++ reserved }
    ∧ ∀ q, t.latch? c q = if q = r then (s.latch? c r).map (fun l => { l with intent := intent }) else s.latch? c q

/-- The issuing row is to close (R109). -/
abbrev Closes (s t : State) (dest : CloseTo) (pc : BitVec 32) (reserved : List WaitEntry) : Prop := Turns s t (.close dest) pc reserved

/-- The machine is as it was: the instruction stalls and issues again. -/
abbrev Stalls (i : Instr) (s : State) : Prop := Answers i s (fun t => t = s)

/-! ### Caches and translations -/

/-- Beside PC, only the instruction cache of the issuing row's grove changes: no register, no byte of memory, no translation and no
queue. A block that it did not hold is the one of the code address `va`. -/
def OnlyCaches (s t : State) (o : Operands) (va : Nat) : Prop :=
  let g := s.curCore / 4
  t = { s with mem := t.mem, groves := t.groves }
    ∧ (∀ k, ¬ InSlot s.curCore s.curRow 0 4 k → t.mem.read k = s.mem.read k)
    ∧ t.pc = s.pc + BitVec.ofNat 32 o.len.units
    ∧ (∀ h, h ≠ g → t.grove h = s.grove h)
    ∧ t.grove g = { s.grove g with icache := (t.grove g).icache }
    ∧ ∀ b ∈ (t.grove g).icache, b ∈ (s.grove g).icache
        ∨ (b.part = s.partid s.curCore ∧ b.codebase = (s.core s.curCore).codebase ∧ b.va = va / 32 * 32)

/-- Nothing of a grove changes but the lines of its slice, which a walk or a read by the device may recall (R77, R79). -/
def LinesOnly (s t : State) : Prop := ∀ h, t.grove h = { s.grove h with lines := (t.grove h).lines }

/-- The device has read a table of the partition in memory, as a use of a descriptor does (R77, R79, R120): it may have filled TLBs, set
accessed bits and recalled lines, and nothing else has changed; memory below the DRAM is as it was. -/
def Walks (s t : State) : Prop :=
  t = { s with mem := t.mem, poison := t.poison, tlb := t.tlb, groves := t.groves } ∧ LinesOnly s t
    ∧ ∀ k, k < 2 ^ 28 → t.mem.read k = s.mem.read k

/-- Every slice line of `t` is one of `s`, which may have been written back, or one that `new` picks. -/
def LinesFrom (s t : State) (new : Nat → SliceLine → Prop) : Prop :=
  ∀ h, ∀ l ∈ (t.grove h).lines, (∃ m ∈ (s.grove h).lines, l = m ∨ l = { m with dirty := false }) ∨ new h l

/-- The TLBs hold the translations of the lines, to the keys that `f` gives, and no two of their bytes are one byte of memory. -/
def Resident (s : State) (ls : List SliceLine) (f : SliceLine → Nat) : Prop :=
  (∀ l ∈ ls, s.translate l.part (l.line * 64) false = (some (f l), s))
    ∧ ∀ l ∈ ls, ∀ m ∈ ls, ∀ i j, i < 64 → j < 64 → s.physKey (f l + i) = s.physKey (f m + j) → l = m ∧ i = j

/-- The lines have been written to memory at the keys that `f` gives, and beside them and PC no byte has changed. -/
def WritesLines (s t : State) (ls : List SliceLine) (f : SliceLine → Nat) : Prop :=
  (∀ l ∈ ls, ∀ j, j < 64 → t.mem.read (s.physKey (f l + j)) = l.data.extractLsb' (8 * j) 8)
    ∧ ∀ k, ¬ InSlot s.curCore s.curRow 0 4 k → (∀ l ∈ ls, ∀ j, j < 64 → k ≠ s.physKey (f l + j)) → t.mem.read k = s.mem.read k

/-! ### Stores into rows (R98, R105) -/

/-- Byte b of a row as a store leaves it: bits [63:33] of `bt` of a context row are no bits of the machine (R98). -/
def trimmed (ctx : Bool) (b : Nat) (v : Byte) : Byte := if ctx = true ∧ 20 ≤ b ∧ b < 24 then (if b = 20 then v &&& 1 else 0) else v

/-- Bytes have been stored at offset `off` of row r of core c, and beside them and those that `p` picks no byte has changed. -/
def StoresBytes (s t : State) (c r off : Nat) (bs : List Byte) (p : Nat → Prop) : Prop :=
  let row := rowKey c r 0
  (∀ j, j < bs.length → t.mem.read (row + off + j) = trimmed (s.isContext c r) (off + j) (bs.getD j 0))
    ∧ ∀ k, ¬ p k → ¬ (row + off ≤ k ∧ k < row + off + bs.length) →
        t.mem.read k = if row ≤ k ∧ k < row + 256 then trimmed (s.isContext c r) (k - row) (s.mem.read k) else s.mem.read k

/-! ### Barriers (R175, R176) -/

/-- T is the release instant of an episode that completes at t (R176): the first instant from t + ALEAD on that is congruent to
AOFFSET modulo APERIOD, or t + ALEAD when APERIOD is 0. -/
def ReleaseInstant (d : Desc) (t T : Nat) : Prop :=
  if d.aperiod = 0 then T = t + d.alead
  else t + d.alead ≤ T ∧ T < t + d.alead + d.aperiod ∧ T % d.aperiod = d.aoffset % d.aperiod

/-- The issuing row has arrived at the barrier of its gang (R175): the arrival is counted, the row's one entry follows the episode
in progress, and the episode completes when its count is enough, or is held where the descriptor cannot be read. -/
def Arrives (s u : State) : Prop :=
  let c := s.curCore
  let r := s.curRow
  let p := s.partid c
  let g := ctlGang (s.ctl c r)
  let x := s.gang p g
  let y := { x with arrivals := x.arrivals + 1 }
  u = { s with mem := u.mem, poison := u.poison, tlb := u.tlb, groves := u.groves, cores := u.cores, gangs := u.gangs }
    ∧ LinesOnly s u
    ∧ (∀ k, k < 2 ^ 28 → u.mem.read k = s.mem.read k)
    ∧ (∀ d, d ≠ c → u.core d = s.core d)
    ∧ u.core c = { s.core c with
        waits := (s.core c).waits.filter (fun e => !(e.row == r && e.on.isBarrier))
          ++ [{ row := r, on := .barrier g x.episode, met := false }] }
    ∧ (∀ k, k ≠ p * 4096 + g → u.gangs.get GangSt.reset k = s.gangs.get GangSt.reset k)
    ∧ match (s.descriptor p g).1 with
      | none => u.gang p g = { y with heldDesc := true }
      | some d =>
        if d.members ≤ x.arrivals then
          ∃ T, ReleaseInstant d s.time.toNat T ∧ u.gang p g = { y with
            due := x.due ++ [{ number := x.episode, t := T, held := false }]
            episode := x.episode + 1
            arrivals := 0
            heldDesc := false }
        else u.gang p g = y

/-! ### Ends of pending operations -/

/-- The lines that a slice keeps over an acquire at system scope: the dirty ones, and those of REGION 00 (R80). -/
def afterAcquire (ls : List SliceLine) : List SliceLine := ls.filter (fun l => l.dirty || vaRegion (l.line * 64) % 2 == 0)

/-- The k-th pending operation of row r of core c has completed with `v` for register d (R113); with `acq`, an acquire at system
scope has dropped the clean lines of REGIONs 01 and 11 of the grove's slice (R80). Nothing else has changed. -/
def Retires (s t : State) (c r k d : Nat) (v : Word) (acq : Bool) : Prop :=
  t = { s with mem := t.mem, cores := t.cores, groves := t.groves }
    ∧ (∀ j, ¬ (d ≠ 0 ∧ InSlot c r d 8 j) → t.mem.read j = s.mem.read j)
    ∧ t.regOf c r d = (if d = 0 then 0 else v)
    ∧ (∀ e, e ≠ c → t.core e = s.core e)
    ∧ t.core c = { s.core c with latches := (t.core c).latches }
    ∧ (∀ q, t.latch? c q =
        if q = r then (s.latch? c r).map (fun l => { l with pending := l.pending.eraseIdx k }) else s.latch? c q)
    ∧ ∀ h, t.grove h =
        if acq = true ∧ h = c / 4 then { s.grove h with lines := afterAcquire (s.grove h).lines } else s.grove h

/-- Row r of core c is to take a deferred trap once it has drained (R122); its latch is otherwise `l`, and nothing else has
changed since `s`. -/
def Defers (s t : State) (c r : Nat) (l : Latch) (x : TrapInfo) : Prop :=
  t = { s with cores := t.cores }
    ∧ (∀ e, e ≠ c → t.core e = s.core e)
    ∧ t.core c = { s.core c with latches := (t.core c).latches }
    ∧ ∀ q, t.latch? c q = if q = r then some { l with intent := .trap x } else s.latch? c q

/-! ### Engine work in row space (R234, R237 to R239) -/

/-- Row q of core c may be read, or with `wr` written, by engine work of `id`: no context row, allowed by the range check, free of
errors, and its core is there. -/
def RowOpen (s : State) (id : Ident) (c q : Nat) (wr : Bool) : Prop :=
  s.isContext c q = false ∧ s.absent c = false ∧ s.rowDenied id.supIf c q wr = false ∧ s.poisoned (rowKey c q 0) 256 = false

/-- The rows of the n bytes from a row-space offset are open to the work. -/
def BytesOpen (s : State) (id : Ident) (c off n : Nat) (wr : Bool) : Prop :=
  off + n ≤ 2 ^ 20 ∧ ∀ q, off / 256 ≤ q → q ≤ (off + n - 1) / 256 → RowOpen s id c q wr

/-- A copy address names byte `off` of row space (R234). -/
def NamesRowByte (a : Word) (off : Nat) : Prop := bitAt a 63 = true ∧ bitsAt a 20 43 = 0 ∧ bitsAt a 0 20 = off

/-- Two byte ranges have no byte in common. -/
def Apart (a n b m : Nat) : Prop := a + n ≤ b ∨ b + m ≤ a

/-- WriteBack of R238 on word 0 of the record at row-space offset `off`: OWN 0, STATUS and UNITS; its other bits stay. -/
def WritesBack (s t : State) (c off st n : Nat) : Prop :=
  let w := word (s.mem.loadNat 8 (arrayKey c off))
  let v := word (t.mem.loadNat 8 (arrayKey c off))
  bitsAt v 0 4 = bitsAt w 0 4 ∧ bitAt v 4 = false ∧ bitsAt v 5 19 = bitsAt w 5 19 ∧ bitsAt v 24 8 = st ∧ bitsAt v 32 32 = n

/-- Channel ch of core c becomes `y`; beside it only memory changes. -/
def ChannelBecomes (s t : State) (c ch : Nat) (y : Chan) : Prop :=
  t = { s with mem := t.mem, poison := t.poison, cores := t.cores } ∧ (∀ d, d ≠ c → t.core d = s.core d)
    ∧ t.core c = { s.core c with chans := (t.core c).chans } ∧ (t.core c).chan ch = y
    ∧ ∀ h, h ≠ ch → (t.core c).chan h = (s.core c).chan h

/-! ### Bank work and messages -/

/-- Row r of core d of this device takes stores and gives loads of `id` at once: its core is the partition's and is there, and the row
is no context row, is not busy, is allowed by the range check and is free of errors. -/
def RowServes (s : State) (id : Ident) (d r : Nat) : Prop :=
  d < numCores ∧ r < 4096 ∧ id.part = s.partid d ∧ (s.part (s.partid d)).shut 0 = false ∧ s.readsRefused id d = false ∧ s.absent d = false ∧ s.asleep (d / 4) = false
    ∧ s.isContext d r = false ∧ s.rowBusy d r = false ∧ (∀ wr, s.rowDenied id d r wr = false)
    ∧ s.poisoned (rowKey d r 0) 256 = false

/-- A message that came on a link has left the receive buffer there, whose flits are owed as credits (R306). -/
def Frees (s t : State) (m : Msg) : Prop :=
  let l := s.link (m.via - 1)
  (m.via = 0 → t.links = s.links)
    ∧ (m.via ≠ 0 → t.link (m.via - 1) = { l with owed := l.owed.set 0 m.cls (l.owed.get 0 m.cls + (s.flitsOf m).length) })
    ∧ ∀ h, h + 1 ≠ m.via → t.link h = s.link h

/-- The k-th message has left `s`: the receive buffer of its link (R306), or the buffer of its core, the one that it is for, which the
oldest message of its class that waits for that buffer then enters, while it holds fewer than 32 (R320). -/
def Leaves (s t : State) (k : Nat) (m : Msg) : Prop :=
  let rest := s.msgs.eraseIdx k
  let here (q : Msg) : Bool := q.cls == m.cls && s.bufferOf q == some ((s.coreFor m).getD 0)
  let full := 32 ≤ (rest.filter (fun q => here q && q.inCore)).length
  (m.inCore = false → t = { s with msgs := rest, links := t.links } ∧ Frees s t m)
    ∧ (m.inCore = true → full ∨ rest.findIdx? (fun q => here q && !q.inCore) = none → t = { s with msgs := rest })
    ∧ (m.inCore = true → ¬ full → ∀ j q, rest.findIdx? (fun q => here q && !q.inCore) = some j → rest[j]? = some q →
        t = { s with msgs := rest.set j { q with inCore := true }, links := t.links } ∧ Frees s t q)

/-- The answer to a message (R309, R317, log 31): for a row of this device its tag, where it asked for one; for another device one
message of kind `kind` with a status and data, to the row that asked, which carries ACKREQ and ACKTAG on when it is an ACK. -/
def Replies (s t : State) (m : Msg) (kind status : Nat) (data : List Byte) : Prop :=
  let here := m.id.host = true ∨ m.id.node = 0x3FF
  (here → m.ackreq = false → t = s)
    ∧ (here → m.ackreq = true → (t.core m.id.core).tags = (s.core m.id.core).tags ||| BitVec.ofNat 64 (2 ^ m.acktag))
    ∧ (¬ here → t = { s with seq := s.seq + 1, msgs := s.msgs ++ [{
        mkind := kind, cls := m.cls, chan := 0, via := 0
        id := { Ident.none with host := false, node := 0x3FF, core := m.id.core, row := m.id.row }
        addr := m.id.node * 2 ^ 47 + m.addr % 2 ^ 47, aux := status, data := data, count := none, ackreq := m.ackreq && kind == 7
        acktag := if kind = 7 then m.acktag else 0
        remote := false, inCore := false, sys := false, seq := s.seq }] })

/-- The identity under which this device performs a message (R313): its own, or what ADMIT gives another device's. -/
def Admits (s : State) (m : Msg) (id : Ident) : Prop :=
  let here := m.id.host = true ∨ m.id.node = 0x3FF
  let a := word (s.fabric.admission.get 0 m.id.node)
  (here ∧ id = m.id) ∨ (¬ here ∧ bitAt a 0 = true ∧ id = { m.id with part := bitsAt a 1 4, mode := m.id.mode && bitAt a 5 })

/-- No part of this device performs the message for its sender (R313). -/
def Refuses (s : State) (m : Msg) : Prop :=
  m.id.host = false ∧ m.id.node ≠ 0x3FF ∧ bitAt (word (s.fabric.admission.get 0 m.id.node)) 0 = false

/-! ### FP32 codes (R48, R49) -/

/-- A NaN. -/
def fpNan (a : BitVec 32) : Bool := a.extractLsb' 23 8 == 255#8 && a.extractLsb' 0 23 != 0#23
/-- An infinity. -/
def fpInf (a : BitVec 32) : Bool := a.extractLsb' 23 8 == 255#8 && a.extractLsb' 0 23 == 0#23
/-- A zero. -/
def fpZero (a : BitVec 32) : Bool := a.extractLsb' 0 31 == 0#31
/-- A number that orders the codes that are not NaN as their values; the zeros have the same. -/
def fpKey (a : BitVec 32) : Int := if a.getLsbD 31 then - Int.ofNat (a.toNat % 2 ^ 31) else Int.ofNat (a.toNat % 2 ^ 31)
/-- The value is the smaller, with −0 below +0 (R147). -/
def fpBelow (a b : BitVec 32) : Bool := decide (fpKey a < fpKey b) || (fpZero a && fpZero b && a.getLsbD 31 && !b.getLsbD 31)
/-- A code with the sign `neg`. -/
def fpSigned (neg : Bool) (mag : BitVec 31) : BitVec 32 := BitVec.ofBool neg ++ mag
/-- The canonical NaN (R54). -/
abbrev fpCanonical : BitVec 32 := 0x7FC00000#32
/-- The relation of `fcmp.cc` (R148). -/
def fpRelation (cc : Nat) (a b : BitVec 32) : Bool :=
  let nan := fpNan a || fpNan b
  match cc with
  | 0 => !nan && decide (fpKey a = fpKey b)
  | 1 => nan || decide (fpKey a ≠ fpKey b)
  | 2 => !nan && decide (fpKey a < fpKey b)
  | 3 => !nan && decide (fpKey b ≤ fpKey a)
  | 4 => !nan && decide (fpKey a ≤ fpKey b)
  | 5 => !nan && decide (fpKey b < fpKey a)
  | 6 => nan
  | _ => !nan
/-- The class bit of R151. -/
def fpClass (a : BitVec 32) : Nat :=
  let neg := a.getLsbD 31
  if fpNan a then 8
  else if fpInf a then (if neg then 0 else 7)
  else if fpZero a then (if neg then 3 else 4)
  else if a.extractLsb' 23 8 == 0#8 then (if neg then 2 else 5)
  else (if neg then 1 else 6)

/-! ### Atomics and the dirty log (R87, R88, R164 to R167) -/

/-- The atomic forms of R165 to R167 on operands y and z, `old n` being the n bytes found: `does i n new result` says of a form that it
writes `new` over them and gives `result`, and `keeps i n result` that it writes nothing. -/
def AtomicForms (o : Operands) (y z : Word) (old : Nat → Nat) (does : Instr → Nat → Nat → Word → Prop)
    (keeps : Instr → Nat → Word → Prop) : Prop :=
  let wide := if o.fn.getLsbD 4 then 8 else 4
  let old4 : BitVec 32 := BitVec.ofNat 32 (old 4)
  let old8 : BitVec 64 := BitVec.ofNat 64 (old 8)
  let found := if wide = 8 then old8 else old4.signExtend 64
  let amo (i : Instr) (f : {n : Nat} → BitVec n → BitVec n → BitVec n) : Prop :=
    does i wide (if wide = 8 then (f old8 y).toNat else (f old4 (y.setWidth 32)).toNat) found
  let famo (i : Instr) (f : BitVec 32 → BitVec 32 → BitVec 32) : Prop :=
    does i 4 (f old4 (y.setWidth 32)).toNat (old4.setWidth 64)
  let sum (g : Fmt) (a b : Nat) : Nat := rnd g 0 true (Val.add 0 (g.decode a) (g.decode b))
  let choose (first : Bool) (a b : BitVec 32) : BitVec 32 :=
    if fpNan a && fpNan b then fpCanonical else if fpNan a then b else if fpNan b then a else if first then a else b
  let same := if wide = 8 then old8 = y else old4 = y.setWidth 32
  amo (.amoAdd o) (fun a b => a + b)
    ∧ amo (.amoAnd o) (fun a b => a &&& b)
    ∧ amo (.amoOr o) (fun a b => a ||| b)
    ∧ amo (.amoXor o) (fun a b => a ^^^ b)
    ∧ amo (.amoMin o) (fun a b => if a.sle b then a else b)
    ∧ amo (.amoMax o) (fun a b => if a.sle b then b else a)
    ∧ amo (.amoMinn o) (fun a b => if a.ule b then a else b)
    ∧ amo (.amoMaxn o) (fun a b => if a.ule b then b else a)
    ∧ amo (.amoSwap o) (fun _ b => b)
    ∧ (same → does (.acas o) wide (if wide = 8 then z.toNat else (z.setWidth 32).toNat) found)
    ∧ (¬ same → keeps (.acas o) wide found)
    ∧ famo (.famoAdd o) (fun a b => BitVec.ofNat 32 (sum .fp32 a.toNat b.toNat))
    ∧ famo (.famoMin o) (fun a b => choose (!fpBelow b a) a b)
    ∧ famo (.famoMax o) (fun a b => choose (!fpBelow a b) a b)
    ∧ famo (.famoAdd2 o) (fun a b => BitVec.ofNat 16 (sum .bf16 (a.toNat / 2 ^ 16) (b.toNat / 2 ^ 16))
        ++ BitVec.ofNat 16 (sum .bf16 (a.toNat % 2 ^ 16) (b.toNat % 2 ^ 16)))

/-- The atomic instructions. -/
def atomicForms (o : Operands) : List Instr :=
  [.amoAdd o, .amoAnd o, .amoOr o, .amoXor o, .amoMin o, .amoMax o, .amoMinn o, .amoMaxn o, .amoSwap o, .acas o,
    .famoAdd o, .famoMin o, .famoMax o, .famoAdd2 o]

/-- A write to a block has been logged at core c (R87): nothing, while its filter holds the block; else the next entry names the block,
and the filter holds it. -/
def Logs (s t : State) (c blk : Nat) : Prop :=
  let x := s.core c
  let row := (x.dlogbase + x.dlogPos / 32) % 4096
  let slot := x.dlogPos % 32
  if x.filter.contains blk = true then t = s
  else t = { s with mem := t.mem, cores := t.cores } ∧ t.slot c row slot = word (blk * 2 ^ 16 + 1)
    ∧ (∀ b, ¬ InSlot c row slot 8 b → t.mem.read b = s.mem.read b)
    ∧ (∀ d, d ≠ c → t.core d = s.core d)
    ∧ t.core c = { x with
        filter := (if x.filter.length < 64 then x.filter else x.filter.drop 1) ++ [blk], dlogPos := (x.dlogPos + 1) % 512 }

/-! ### Traps (R99, R122 to R126) -/

/-- The fields of `tw`. -/
def trapFields (code : BitVec 8) (next : BitVec 7) (btv resume busy : Bool) (cause : Nat) (pc : BitVec 32) : Word :=
  0#6 ++ code ++ next ++ BitVec.ofBool btv ++ BitVec.ofBool resume ++ BitVec.ofBool busy ++ BitVec.ofNat 8 cause ++ pc

/-- `tw` as the trap `x` of a row writes it: RESUME 1 and the distance to the first instruction not issued, which lies past any pad
words, when it is deferred, else the cause's RESUME and the instruction's length. -/
def trapValue (s : State) (c r : Nat) (x : TrapInfo) (busy : Bool) : Word :=
  trapFields x.code (if x.deferred then ((s.nextInstr c r).1 - x.pc).setWidth 7 else BitVec.ofNat 7 x.len) ((s.slot c r 2).getLsbD 32)
    (x.deferred || x.cause.resume) busy x.cause.code x.pc

/-- What the row does after the entry: it issues, or it closes while its gang is stopped. -/
def afterEntry (s : State) (c r : Nat) : Intent :=
  if (s.gang (s.partid c) (ctlGang (s.ctl c r))).stopped = true then Intent.close CloseTo.stopped else Intent.run

/-- Row r of core c has entered a trap (R122): `tw` is `v`, PC is `pc`, the upper half of the control word (STATE, CLASS, MODE, WAITKIND
and GANG), `bt` and every other register stay, and its latch takes `intent`. A wait-table entry that its `wait` had reserved is free, and
it stalls in no `gstop`. -/
def EntersAt (s t : State) (c r : Nat) (pc : BitVec 32) (v : Word) (intent : Intent) : Prop :=
  t = { s with mem := t.mem, poison := t.poison, tlb := t.tlb, groves := t.groves, cores := t.cores } ∧ LinesOnly s t
    ∧ (∀ k, k < 2 ^ 28 → ¬ InSlot c r 0 4 k → ¬ InSlot c r 3 8 k → t.mem.read k = s.mem.read k)
    ∧ t.rowPc c r = pc ∧ t.slot c r 3 = v
    ∧ (∀ d, d ≠ c → t.core d = s.core d)
    ∧ t.core c = { s.core c with
        latches := (t.core c).latches
        waits := (s.core c).waits.filter (fun e => !(e.row == r && e.on.isWait))
        gstops := (s.core c).gstops.filter (fun e => e.row != r)
        engTraps := (t.core c).engTraps
        barred := (t.core c).barred }
    ∧ ∀ q, t.latch? c q = if q = r then (s.latch? c r).map (fun l => { l with intent := intent }) else s.latch? c q

/-- It has entered its handler: its latch issues again, or closes for a gang-stop that came meanwhile. -/
abbrev EntersHandler (s t : State) (c r : Nat) (handler : BitVec 32) (v : Word) : Prop :=
  EntersAt s t c r handler v (afterEntry s c r)

/-- Row r of core c is ended (R126), with its supervisor's ring disabled: FAULT, no WAITKIND, PC and `tw` at the trapping
instruction; it holds no latch, no place in a FIFO and no wait-table entry; the record, and one of an ENGINE trap that was pending, is
dropped and counted. -/
def Ends (s t : State) (c r : Nat) (pc : BitVec 32) (v : Word) : Prop :=
  t = { s with mem := t.mem, poison := t.poison, tlb := t.tlb, groves := t.groves, cores := t.cores, mgmt := t.mgmt } ∧ LinesOnly s t
    ∧ (∀ k, k < 2 ^ 28 → ¬ InSlot c r 0 8 k → ¬ InSlot c r 3 8 k → t.mem.read k = s.mem.read k)
    ∧ t.rowPc c r = pc ∧ t.rowState c r = 5 ∧ ctlWait (t.ctl c r) = 0 ∧ ctlClass (t.ctl c r) = ctlClass (s.ctl c r)
    ∧ ctlMode (t.ctl c r) = ctlMode (s.ctl c r) ∧ ctlGang (t.ctl c r) = ctlGang (s.ctl c r)
    ∧ t.slot c r 3 = v
    ∧ (∀ d, d ≠ c → t.core d = s.core d)
    ∧ t.latch? c r = none ∧ (∀ e ∈ (t.core c).fifo, e.row ≠ r) ∧ (∀ e ∈ (t.core c).waits, e.row ≠ r)
    ∧ (∀ q, q ≠ r → t.latch? c q = s.latch? c q)
    ∧ t.mgmt = { s.mgmt with
        dropped := s.mgmt.dropped + 1 + (if (s.core c).engTraps.any (fun e => e.1 == r) then 1 else 0) }

/-- The ring of a partition's supervisor is disabled (R126): MBX0 of its lowest core names no rows; and the partition is not swapped
out. -/
def PartDrops (s : State) (p : Nat) : Prop := (s.part p).saved = none ∧ ∃ low, s.lowCore p = some low ∧ (s.ring low 0).2 = 0

/-- The records of the partition of core c are dropped. -/
abbrev RecordsDropped (s : State) (c : Nat) : Prop := PartDrops s (s.partid c)

/-- The handler of a row's gang (R120, R121). -/
def HandlerIs (s : State) (c r : Nat) (h : BitVec 32) : Prop :=
  ∃ d, (s.descriptor (s.partid c) (ctlGang (s.ctl c r))).1 = some d ∧ d.handler = h

end Sys2Proof.Safety
end

