-- ==== Sys2Proof/Certificates/Slice0/Obligations.lean ====
section
/-! DEFINITION. The statements for the provers: what the rules of the specification say that an instruction, a step of an agent
and the machine do. -/

open Sys2Proof Sys2Proof.Machine Sys2Proof.Safety

/-! ### The executor: integers, floating point and control flow -/

/-- R140: add, sub, and, or, xor, andn, mul, mulh, min and max write D with their result on 64 bits, or on 32 bits and
sign-extended; nothing else changes but PC. R140: the shifts and the rotate take their count modulo the operand width. R141: div and rem of a row that has
a latch become pending with the quotient or the remainder of the operands at issue; division by zero gives all ones and the dividend. -/
def Obligations.IntegerOperations : Prop :=
  (∀ (s : State) (o : Operands),
    let x := s.reg o.ra
    let y := operandB s o
    let puts (i : Instr) (v : Word) : Prop := Answers i s (fun t => WritesRegister s t o o.rd v)
    puts (.add o) (intForm o (fun a b => a + b) x y)
      ∧ puts (.sub o) (intForm o (fun a b => a - b) x y)
      ∧ puts (.and o) (intForm o (fun a b => a &&& b) x y)
      ∧ puts (.or o) (intForm o (fun a b => a ||| b) x y)
      ∧ puts (.xor o) (intForm o (fun a b => a ^^^ b) x y)
      ∧ puts (.andn o) (intForm o (fun a b => a &&& ~~~b) x y)
      ∧ puts (.mul o) (intForm o (fun a b => a * b) x y)
      ∧ puts (.mulh o) (intForm o (fun {n} a b =>
          if o.fn.getLsbD 0 then BitVec.ofNat n (a.toNat * b.toNat / 2 ^ n) else BitVec.ofInt n (a.toInt * b.toInt / 2 ^ n)) x y)
      ∧ puts (.min o) (intForm o (fun a b => if (if o.fn.getLsbD 0 then a.ule b else a.sle b) then a else b) x y)
      ∧ puts (.max o) (intForm o (fun a b => if (if o.fn.getLsbD 0 then a.ule b else a.sle b) then b else a) x y)) ∧
  (∀ (s : State) (o : Operands),
    let x := s.reg o.ra
    let y := operandB s o
    let puts (i : Instr) (v : Word) : Prop := Answers i s (fun t => WritesRegister s t o o.rd v)
    puts (.shl o) (intForm o (fun {n} a b => a <<< (b.toNat % n)) x y)
      ∧ puts (.shr o) (intForm o (fun {n} a b => a >>> (b.toNat % n)) x y)
      ∧ puts (.sar o) (intForm o (fun {n} a b => a.sshiftRight (b.toNat % n)) x y)
      ∧ puts (.rol o) (intForm o (fun {n} a b => a.rotateLeft (b.toNat % n)) x y)) ∧
  (∀ (s : State) (o : Operands), (s.latch? s.curCore s.curRow).isSome = true →
    let x := s.reg o.ra
    let y := operandB s o
    let q : Word := intForm o (fun {n} a b =>
      if b = 0 then BitVec.allOnes n else if o.fn.getLsbD 0 then a / b else a.sdiv b) x y
    let r : Word := intForm o (fun a b => if b = 0 then a else if o.fn.getLsbD 0 then a % b else a.srem b) x y
    Answers (.div o) s (fun t => BecomesPending s t o (.value o.rd q) false)
      ∧ Answers (.rem o) s (fun t => BecomesPending s t o (.value o.rd r) false))

/-- R113 to R115, R154, R155, R158, R175, R180, R191, R225: an instruction may issue once it lies in every window of its row and its row has
issued fewer than 15 instructions since each outstanding store, and where what it must wait for is done: a long-latency one needs fewer
than four pending operations, a control transfer none and no outstanding store, `yield`, `halt`, a wait, `gbar` and a fence no
outstanding store, an access no pending acquire, a release no earlier load, atomic or store, a fence none of its kinds, `gset` and a
matrix command no earlier store and no pending row ALU form, and one that stalls for room its room. It meets a hazard where it uses a register
or a row that a pending operation uses in a way that conflicts: CODE names the lowest such register, or the register of the first field D,
A, B, C that names such a row. What fits a class queue is a free value (log 58). -/
def Obligations.IssueConditions : Prop :=
  (∀ (s : State) (o : Operands),
    let c := s.curCore
    let r := s.curRow
    let ps := s.pendingOf c r
    let outs := s.outstanding c r
    let ea := (s.reg o.ra + o.imm).toNat
    let within := (∀ p ∈ ps, p.since < p.lah) ∧ ∀ q ∈ outs, q.age < 15
    let room := ps.length < 4
    let free := ∀ p ∈ ps, p.acquire = false
    let no (f : PendOp → Bool) : Prop := ∀ p ∈ ps, f p.op = false
    let stored := ∀ q ∈ s.rowReqs, q.id.isRow c r = false
    let released := outs = [] ∧ stored ∧ no PendOp.reads ∧ no PendOp.writes
    let entries := (s.core c).waits.length < 64
    let when (i : Instr) (p : Prop) : Prop := mayIssue i s = true ↔ within ∧ p
    (∀ i ∈ shortForms o, when i True)
      ∧ (∀ i ∈ [Instr.div o, .rem o, .fdiv o, .fsqrt o], when i room)
      ∧ (∀ i ∈ [Instr.br o, .bCc o, .biCc o, .loop o, .j o, .call o, .jr o, .callr o, .trap o, .brk o, .tret o],
          when i (ps = [] ∧ outs = []))
      ∧ (∀ i ∈ [Instr.yield o, .halt o, .waitClasp o], when i (outs = []))
      ∧ when (.waitAll o) (outs = [] ∧ ((s.core c).tags &&& (s.reg o.ra ||| o.imm) = s.reg o.ra ||| o.imm ∨ entries))
      ∧ when (.waitAny o) (outs = [] ∧ (s.reg o.ra ||| o.imm = 0 ∨ (s.core c).tags &&& (s.reg o.ra ||| o.imm) ≠ 0 ∨ entries))
      ∧ when (.waitUntil o) (outs = [] ∧ (s.reg o.ra + o.imm ≤ s.time ∨ entries))
      ∧ (∀ i ∈ [Instr.gbar o, .gbarArrive o, .gbarWait o],
          when i (ps = [] ∧ outs = [] ∧ stored ∧ ((∃ e ∈ (s.core c).waits, e.row = r ∧ e.on.isBarrier = true) ∨ entries)))
      ∧ when (.clarm o) (o.a = 0 ∨ (∃ e ∈ (s.core c).waits, e.row = r ∧ e.on = .timedClasp) ∨ entries)
      ∧ (vaRegion ea ≠ 2 → when (.ld o) (room ∧ free))
      ∧ (ea < 2 ^ 20 → when (.lr o) (room ∧ free) ∧ when (.sr o) free)
      ∧ when (.ldm o) (room ∧ free) ∧ when (.lock o) (room ∧ free) ∧ when (.gresize o) (room ∧ free)
      ∧ when (.pf o) free ∧ when (.dlharvest o) free
      ∧ (vaRegion ea ≠ 2 → when (.st o) (free ∧ (o.fn.getLsbD 3 = true → released)))
      ∧ (o.fn.getLsbD 3 = true → vaRegion ea ≠ 2 → when (.stm o) free)
      ∧ (o.fn.toNat % 16 = 7 → ea = 0x100000 → when (.stm o) (free ∧ no PendOp.isRowAlu ∧ outs = [] ∧ stored
          ∧ ((bitsAt (s.reg o.rd) 0 8 = 6 ∧ (bitsAt (s.reg o.rd) 20 2 = 1 ∨ bitsAt (s.reg o.rd) 20 2 = 2)) ∨ (s.core c).mx.queue.length < 32)))
      ∧ (∀ i ∈ [Instr.amoAdd o, .amoAnd o, .amoOr o, .amoXor o, .amoMin o, .amoMax o, .amoMinn o, .amoMaxn o, .amoSwap o, .acas o,
            .famoAdd o, .famoMin o, .famoMax o, .famoAdd2 o], when i (room ∧ free ∧ (o.fn.getLsbD 6 = true → released)))
      ∧ (∀ i ∈ rowAluForms o, when i (room ∧ free))
      ∧ when (.gset o) (no PendOp.isRowAlu ∧ outs = [] ∧ stored) ∧ when (.gsetClr o) (no PendOp.isRowAlu ∧ outs = [] ∧ stored)
      ∧ (∀ i ∈ [Instr.post o, .sig o], when i (free ∧ no PendOp.isRowAlu ∧ s.queueFull c (o.fn.toNat % 4) = false))
      ∧ when (.launch o) (room ∧ free ∧ no PendOp.isRowAlu ∧ s.dispatchOnWay c r = false ∧ released ∧ (s.part (s.partid c)).hdrs.length < 64)
      ∧ when (.fence o) (outs = [] ∧ (o.fn.getLsbD 0 = true → no PendOp.reads) ∧ (o.fn.getLsbD 1 = true → no PendOp.writes ∧ stored)
          ∧ (o.fn.getLsbD 2 = true → s.unperformed c r = false ∧ no PendOp.isLaunch))) ∧
  (∀ (s : State) (i : Instr) (o : Operands) (ps : List Pending), i.operands? = some o →
    let u := usesOf i s
    let clash (reads writes : Prop) (p : List Nat × List Nat) (x : Nat) : Prop := ((reads ∨ writes) ∧ x ∈ p.2) ∨ (writes ∧ x ∈ p.1)
    let register (k : Nat) : Prop := ∃ p ∈ ps, clash (k ∈ u.rregs) (k ∈ u.wregs) (p.rregs, p.wregs) k
    let row (x : Nat) : Prop := ∃ p ∈ ps, clash (∃ f, (x, f) ∈ u.rrows) (∃ f, (x, f) ∈ u.wrows) (p.rrows, p.wrows) x
    let field (f : Nat) : Prop := ∃ x, ((x, f) ∈ u.rrows ∨ (x, f) ∈ u.wrows) ∧ row x
    let regs := [o.rd, o.ra, o.rb, o.rc]
    (∀ k, k < 32 → register k → (∀ j, j < k → ¬ register j) → hazardCode i s ps = some k)
      ∧ ((∀ k, k < 32 → ¬ register k) → (∀ f, f < 4 → field f → (∀ j, j < f → ¬ field j) → hazardCode i s ps = some (128 + regs.getD f 0))
          ∧ ((∀ f, f < 4 → ¬ field f) → hazardCode i s ps = none))) ∧
  ∀ (s : State) (o : Operands),
    let ea := (s.reg o.ra + o.imm).toNat
    let n := [1, 1, 2, 2, 4, 4, 8].getD (o.fn.toNat % 8) 8
    let m := o.fn.toNat % 8 + 1
    let q := ea / 256
    let row (f : Nat) (v : Word) : Nat := (v.toNat % 4096 + (match o.len with | .w96 => o.ext.toNat / 2 ^ (8 * f) % 256 | _ => 0)) % 4096
    let D := row 0 (s.reg o.rd)
    let A := row 1 (s.reg o.ra)
    let B := row 2 (s.reg o.rb)
    let C := row 3 (s.reg o.rc)
    let uses (i : Instr) (rregs wregs : List Nat) (rrows wrows : List (Nat × Nat)) : Prop :=
      let u := usesOf i s
      (∀ k, (k ∈ u.rregs ↔ k ≠ 0 ∧ k ∈ rregs) ∧ (k ∈ u.wregs ↔ k ≠ 0 ∧ k ∈ wregs)) ∧ u.rrows = rrows ∧ u.wrows = wrows
    (∀ i ∈ [Instr.add o, .sub o, .and o, .or o, .xor o, .andn o, .shl o, .shr o, .sar o, .rol o, .mul o, .mulh o, .min o, .max o, .div o,
          .rem o, .cmpCc o, .li o, .lea o, .fadd o, .fsub o, .fmul o, .fdiv o, .fsqrt o, .ld o], uses i [o.ra, o.rb] [o.rd] [] [])
      ∧ (∀ i ∈ [Instr.sel o, .madd o, .ffma o], uses i [o.ra, o.rb, o.rc] [o.rd] [] [])
      ∧ (∀ i ∈ [Instr.br o, .bCc o, .biCc o], uses i [o.ra, o.rb, 2] [] [] [])
      ∧ uses (.loop o) [o.ra, o.rb, o.rd, 2] [o.rd] [] [] ∧ uses (.pbr o) [o.ra, o.rb] [2] [] []
      ∧ uses (.tret o) [o.ra, o.rb, 3] [2, 3] [] [] ∧ uses (.clarm o) [o.ra, o.rb, 1] [1] [] []
      ∧ uses (.st o) [o.ra, o.rb] [] [] []
      ∧ (o.fn.getLsbD 3 = true → uses (.ldm o) [o.ra, o.rb] ((List.range m).map (fun k => o.rd + k)) [] []
          ∧ uses (.stm o) ([o.ra, o.rb] ++ (List.range m).map (fun k => o.rd + k)) [] [] [])
      ∧ (ea < 2 ^ 20 → q ≠ s.curRow → (ea % n = 0 → uses (.lr o) [o.ra, o.rb] [o.rd] [(q, 1)] [])
          ∧ (ea % 2 ^ (o.fn.toNat % 8) = 0 → o.fn.toNat % 8 ≤ 3 → uses (.sr o) [o.ra, o.rb] [] [] [(q, 1)])
          ∧ (ea % 64 = 0 → uses (.launch o) [o.ra, o.rb] [o.rd] [(q, 1)] []))
      ∧ (ea < 2 ^ 20 → q = s.curRow → ea % 8 = 0 → o.fn.toNat % 8 = 6 → uses (.lr o) [o.ra, o.rb, ea % 256 / 8] [o.rd] [(q, 1)] [])
      ∧ uses (.radd o) [o.ra, o.rb, o.rd] [] [(A, 1), (B, 2)] [(D, 0)]
      ∧ uses (.rfma o) [o.ra, o.rb, o.rc, o.rd] [] [(A, 1), (B, 2), (C, 3)] [(D, 0)]
      ∧ uses (.rqnt o) [o.ra, o.rb, o.rd] [] [(A, 1)] [(D, 0), (B, 2)]
      ∧ uses (.runpk o) [o.ra, o.rb, o.rd] [] [(A, 1)] [(D, 0), ((D + 1) % 4096, 0)]
      ∧ uses (.rget o) [o.ra, o.rb] [o.rd] [(A, 1)] []

/-- R142: cmp.cc, sel, li and lea. R143, R144: bext takes `len` bits from `pos`, bins puts them; clz, ctz and popc count; madd
multiplies and adds. -/
def Obligations.ComparesAndBitFields : Prop :=
  (∀ (s : State) (o : Operands),
    let puts (i : Instr) (v : Word) : Prop := Answers i s (fun t => WritesRegister s t o o.rd v)
    (o.fn.toNat % 8 < 6 → puts (.cmpCc o) (if condition o (s.reg o.ra) (operandB s o) then 1 else 0))
      ∧ puts (.sel o) (if s.reg o.rc ≠ 0 then s.reg o.ra else s.reg o.rb)
      ∧ puts (.li o) o.imm
      ∧ puts (.lea o) (s.reg o.ra + s.reg o.rb <<< (o.fn.toNat % 4) + o.imm)) ∧
  (∀ (s : State) (o : Operands),
    let x := s.reg o.ra
    let y := s.reg o.rb
    let pos := o.imm22.toNat % 64
    let len := o.imm22.toNat / 64 % 128
    let w : Nat := if o.fn.getLsbD 6 then 32 else 64
    let puts (i : Instr) (p : Word → Prop) : Prop := ∃ v, Answers i s (fun t => WritesRegister s t o o.rd v) ∧ p v
    (1 ≤ len → pos + len ≤ 64 → puts (.bext o) (fun v => ∀ k, k < 64 → v.getLsbD k =
        if k < len then x.getLsbD (pos + k) else (o.fn.getLsbD 0 && x.getLsbD (pos + len - 1))))
      ∧ (1 ≤ len → pos + len ≤ 64 → puts (.bins o) (fun v => ∀ k, k < 64 → v.getLsbD k =
        if pos ≤ k ∧ k < pos + len then y.getLsbD (k - pos) else x.getLsbD k))
      ∧ puts (.clz o) (fun v => v.toNat ≤ w ∧ (∀ k, k < v.toNat → x.getLsbD (w - 1 - k) = false)
          ∧ (v.toNat < w → x.getLsbD (w - 1 - v.toNat) = true))
      ∧ puts (.ctz o) (fun v => v.toNat ≤ w ∧ (∀ k, k < v.toNat → x.getLsbD k = false)
          ∧ (v.toNat < w → x.getLsbD v.toNat = true))
      ∧ puts (.popc o) (fun v => v.toNat = ((List.range w).filter (fun k => x.getLsbD k)).length)
      ∧ puts (.madd o) (fun v => v = intForm o (fun a b => a + b) (x * y) (s.reg o.rc)))

/-- R129, R159: nop and fence.lb change nothing but PC := next. R130: hint.gather k holds its row while another row of its grove is
behind it in its block, for up to k cycles of the grove, and then changes nothing but PC; which cycles count, that the latch keeps when
the wait began and what a held issue leaves are the model's choice (log 75). R131: hint.fetch changes, beside PC,
no more than the instruction cache of its grove, into which it brings the block of its target where that can be fetched: no register, no
byte of memory and no translation. -/
def Obligations.NoOperations : Prop :=
  ∀ (s : State) (o : Operands),
    Answers (.nop o) s (fun t => OnlyAdvances s t o)
      ∧ Answers (.fenceLb o) s (fun t => OnlyAdvances s t o)
      ∧ (let c := s.curCore
        let r := s.curRow
        let k := o.imm22.toNat % 256
        let cc := (s.grove (c / 4)).cc
        let holds (p : Nat → Prop) : Prop := ∃ l a, s.latch? c r = some l ∧ l.gather = some (a, s.pc) ∧ p a
        let held := holds (fun _ => True)
        let past := k = 0 ∨ s.gatherBehind c r = false ∨ holds (fun a => a + k ≤ cc)
        let rests (f : Latch → Option (Nat × BitVec 32)) : Prop := Answers (.hintGather o) s (fun t => CoreOnly s t c
          ∧ t.core c = { s.core c with latches := (t.core c).latches }
          ∧ ∀ q, t.latch? c q = if q = r then (s.latch? c r).map (fun l => { l with
              count := l.count - 1, pending := l.pending.map (fun p => { p with since := p.since - 1 }), gather := f l }) else s.latch? c q)
        (past → ¬ held → Answers (.hintGather o) s (fun t => OnlyAdvances s t o))
          ∧ (past → held → Answers (.hintGather o) s (fun t => OnlyAdvances (s.modLatch c r (fun l => { l with gather := none })) t o))
          ∧ (¬ past → ¬ held → rests (fun _ => some (cc, s.pc)))
          ∧ (¬ past → held → rests (fun l => l.gather)))
      ∧ Answers (.hintFetch o) s (fun t => OnlyCaches s t o (s.codeVa s.curCore (s.pc + o.imm.setWidth 32)))
      ∧ (let c := s.curCore
        let blk := s.codeVa c (s.pc + o.imm.setWidth 32) / 32 * 32
        ∀ key, s.isLocal blk = true → vaRegion blk ≠ 2 → s.peek (s.partid c) (s.canonVa blk) = some key → s.poisoned key 32 = false →
          Answers (.hintFetch o) s (fun t => ∃ b ∈ (t.grove (c / 4)).icache,
            b.part = s.partid c ∧ b.codebase = (s.core c).codebase ∧ b.va = blk))

/-- R132: pbr writes the whole of `bt`: VALID, and a target from PC or from wa[31:0]. R134: a branch that is taken goes to
bt[31:0], or raises BT with nothing written while VALID is 0; one that is not taken goes to next. loop writes its counter less
one. R135: j and jr set PC; call and callr write `next` to D as well, and callr reads its target before that write. -/
def Obligations.Branches : Prop :=
  (∀ (s : State) (o : Operands),
    Answers (.pbr o) s (fun t => WritesRegister s t o 2 (1#32 ++ (s.pc + o.imm.setWidth 32)))
      ∧ Answers (.pbrRegister o) s (fun t => WritesRegister s t o 2 (1#32 ++ ((s.reg o.ra).setWidth 32 + o.imm.setWidth 32)))) ∧
  (∀ (s : State) (o : Operands), o.fn.toNat % 8 < 6 →
    let bt := s.reg 2
    let v := s.reg o.rd - 1
    let branch (i : Instr) (take : Bool) : Prop :=
      (take = true → bt.getLsbD 32 = true → Answers i s (fun t => SetsPc s t (bt.setWidth 32)))
        ∧ (take = true → bt.getLsbD 32 = false → Traps i s o .bt 0)
        ∧ (take = false → Answers i s (fun t => OnlyAdvances s t o))
    branch (.br o) true
      ∧ branch (.bCc o) (condition o (s.reg o.ra) (s.reg o.rb))
      ∧ branch (.biCc o) (condition o (s.reg o.ra) o.imm)
      ∧ (v ≠ 0 → bt.getLsbD 32 = true → Answers (.loop o) s (fun t => SetsRegisterAndPc s t o.rd v (bt.setWidth 32)))
      ∧ (v ≠ 0 → bt.getLsbD 32 = false → Traps (.loop o) s o .bt 0)
      ∧ (v = 0 → Answers (.loop o) s (fun t => WritesRegister s t o o.rd v))) ∧
  (∀ (s : State) (o : Operands),
    let next : BitVec 32 := s.pc + BitVec.ofNat 32 o.len.units
    Answers (.j o) s (fun t => SetsPc s t (s.pc + o.imm.setWidth 32))
      ∧ Answers (.call o) s (fun t => SetsRegisterAndPc s t o.rd (next.setWidth 64) (s.pc + o.imm.setWidth 32))
      ∧ Answers (.jr o) s (fun t => SetsPc s t ((s.reg o.ra).setWidth 32 + o.imm.setWidth 32))
      ∧ Answers (.callr o) s (fun t =>
          SetsRegisterAndPc s t o.rd (next.setWidth 64) ((s.reg o.ra).setWidth 32 + o.imm.setWidth 32)))

/-- R7, R112, R136, R137: yield closes the row for a READY row whose class is not shed, else it is a nop; halt closes the row
with PC at itself; a wait whose condition holds goes on, else it reserves an entry and closes the row, or stalls while the
table is full. R80, R317, R360: a wait that observes tags set by acknowledgements acquires them at system scope. -/
def Obligations.YieldHaltAndWait : Prop :=
  ∀ (s : State) (o : Operands),
    let c := s.curCore
    let next : BitVec 32 := s.pc + BitVec.ofNat 32 o.len.units
    let m := s.reg o.ra ||| o.imm
    let at_ := s.reg o.ra + o.imm
    let acquired (seen : Word) : State := if (s.core c).sysTags &&& seen = 0 then s
      else s.setGrove (c / 4) { s.grove (c / 4) with lines := afterAcquire (s.grove (c / 4)).lines }
    let wait (i : Instr) (met : Prop) (kind : Nat) (on : WaitOn) (seen : Word) : Prop :=
      (met → Answers i s (fun t => OnlyAdvances (acquired seen) t o))
        ∧ (¬ met → (s.core c).waits.length < 64 →
          Answers i s (fun t => Closes s t (.wait kind next) s.pc [{ row := s.curRow, on := on, met := false }]))
        ∧ (¬ met → 64 ≤ (s.core c).waits.length → Stalls i s)
    ((s.core c).fifo.all (fun e => s.isShed (ctlClass (s.ctl c e.row))) = true → Answers (.yield o) s (fun t => OnlyAdvances s t o))
      ∧ ((s.core c).fifo.all (fun e => s.isShed (ctlClass (s.ctl c e.row))) = false →
          Answers (.yield o) s (fun t => Closes s t .ready next []))
      ∧ Answers (.halt o) s (fun t => Closes s t (.halt s.pc) s.pc [])
      ∧ ((s.reg 1).getLsbD 32 = true → Answers (.waitClasp o) s (fun t => Closes s t (.wait 1 next) s.pc []))
      ∧ ((s.reg 1).getLsbD 32 = false → Answers (.waitClasp o) s (fun t => OnlyAdvances s t o))
      ∧ wait (.waitAll o) ((s.core c).tags &&& m = m) 2 (.tagsAll m) m
      ∧ wait (.waitAny o) (m = 0 ∨ (s.core c).tags &&& m ≠ 0) 3 (.tagsAny m) ((s.core c).tags &&& m)
      ∧ wait (.waitUntil o) (at_ ≤ s.time) 5 (.time at_) 0

/-- R146: fadd, fsub, fmul and ffma write the exact result rounded once; fdiv and fsqrt of a row that has a latch become pending
with theirs; the special operands give the results of the table of R146. -/
def Obligations.FloatArithmetic : Prop :=
  ∀ (s : State) (o : Operands),
    let rm := o.fn.toNat / 32
    let a : BitVec 32 := (s.reg o.ra).setWidth 32
    let b : BitVec 32 := (s.reg o.rb).setWidth 32
    let c : BitVec 32 := (s.reg o.rc).setWidth 32
    let val (v : BitVec 32) : Val := Fmt.fp32.decode v.toNat
    let rounded (v : Val) : BitVec 32 := BitVec.ofNat 32 (rnd .fp32 rm true v)
    let opp := a.getLsbD 31 != b.getLsbD 31
    let short (i : Instr) (v : BitVec 32) : Prop := Answers i s (fun t => WritesRegister s t o o.rd (v.setWidth 64))
    let long (i : Instr) (v : BitVec 32) : Prop := (s.latch? s.curCore s.curRow).isSome = true →
      Answers i s (fun t => BecomesPending s t o (.value o.rd (v.setWidth 64)) false)
    short (.fadd o) (rounded (Val.add rm (val a) (val b)))
      ∧ short (.fsub o) (rounded (Val.add rm (val a) (val b).neg))
      ∧ short (.fmul o) (rounded ((val a).mul (val b)))
      ∧ short (.ffma o) (rounded (Val.add rm ((val a).mul (val b)) (val c)))
      ∧ long (.fdiv o) (BitVec.ofNat 32 (divRnd .fp32 rm true (val a) (val b)))
      ∧ long (.fsqrt o) (BitVec.ofNat 32 (sqrtRnd .fp32 rm true (val a)))
      ∧ (fpNan a ∨ fpNan b → short (.fadd o) fpCanonical ∧ short (.fsub o) fpCanonical ∧ short (.fmul o) fpCanonical
          ∧ long (.fdiv o) fpCanonical)
      ∧ (fpNan a ∨ fpNan b ∨ fpNan c → short (.ffma o) fpCanonical)
      ∧ (fpNan a → long (.fsqrt o) fpCanonical)
      ∧ (fpInf a → fpInf b → opp = true → short (.fadd o) fpCanonical)
      ∧ (fpInf a → fpInf b → opp = false → short (.fsub o) fpCanonical)
      ∧ ((fpZero a ∧ fpInf b) ∨ (fpInf a ∧ fpZero b) → short (.fmul o) fpCanonical ∧ short (.ffma o) fpCanonical)
      ∧ (¬ fpNan a → ¬ fpZero a → fpZero b → long (.fdiv o) (fpSigned opp 0x7F800000#31))
      ∧ ((fpZero a ∧ fpZero b) ∨ (fpInf a ∧ fpInf b) → long (.fdiv o) fpCanonical)
      ∧ (¬ fpNan a → ¬ fpInf a → fpInf b → long (.fdiv o) (fpSigned opp 0#31))
      ∧ (a = 0x80000000#32 → long (.fsqrt o) 0x80000000#32)
      ∧ (a = 0x7F800000#32 → long (.fsqrt o) 0x7F800000#32)
      ∧ (¬ fpNan a → ¬ fpZero a → a.getLsbD 31 = true → long (.fsqrt o) fpCanonical)

/-- R147, R148, R150, R151: fmin and fmax choose an operand's code, fcmp.cc writes 1 where its relation holds, fsgn builds a
sign, and fclass writes the one bit of the operand's class. R149: fcvt by its kind, FN[3:0]; the roundings are RndInt and Rnd
of R52 and R59. -/
def Obligations.FloatCompareAndConvert : Prop :=
  (∀ (s : State) (o : Operands),
    let a : BitVec 32 := (s.reg o.ra).setWidth 32
    let b : BitVec 32 := (s.reg o.rb).setWidth 32
    let puts (i : Instr) (v : Word) : Prop := Answers i s (fun t => WritesRegister s t o o.rd v)
    let choose (first : Bool) : BitVec 32 :=
      if fpNan a && fpNan b then fpCanonical else if fpNan a then b else if fpNan b then a else if first then a else b
    let sign (neg : Bool) : BitVec 32 := if fpNan a then fpCanonical else fpSigned neg (a.extractLsb' 0 31)
    puts (.fmin o) ((choose (!fpBelow b a)).setWidth 64)
      ∧ puts (.fmax o) ((choose (!fpBelow a b)).setWidth 64)
      ∧ puts (.fcmpCc o) (if fpRelation (o.fn.toNat % 8) a b then 1 else 0)
      ∧ puts (.fsgn o) ((sign (b.getLsbD 31)).setWidth 64)
      ∧ puts (.fsgnN o) ((sign (!b.getLsbD 31)).setWidth 64)
      ∧ puts (.fsgnX o) ((sign (a.getLsbD 31 != b.getLsbD 31)).setWidth 64)
      ∧ puts (.fclass o) (1#64 <<< fpClass a)) ∧
  (∀ (s : State) (o : Operands),
    let kind := o.fn.toNat % 16
    let rm := o.fn.toNat / 32
    let w := s.reg o.ra
    let a : BitVec 32 := w.setWidth 32
    let x : Val := Fmt.fp32.decode a.toNat
    let fp (m : Nat) (v : Int) : BitVec 32 := BitVec.ofNat 32 (rnd .fp32 m true (Val.ofInt v))
    let puts (k : Nat) (v : Word) : Prop := kind = k → Answers (.fcvt o) s (fun t => WritesRegister s t o o.rd v)
    puts 0 ((BitVec.ofNat 32 (rndInt 32 true rm false x)).signExtend 64)
      ∧ puts 1 ((BitVec.ofNat 32 (rndInt 32 false rm false x)).setWidth 64)
      ∧ puts 2 (BitVec.ofNat 64 (rndInt 64 true rm false x))
      ∧ puts 3 (BitVec.ofNat 64 (rndInt 64 false rm false x))
      ∧ puts 4 ((fp 0 a.toInt).setWidth 64)
      ∧ puts 5 ((fp 0 (Int.ofNat a.toNat)).setWidth 64)
      ∧ puts 6 ((fp rm w.toInt).setWidth 64)
      ∧ puts 7 ((fp rm (Int.ofNat w.toNat)).setWidth 64)
      ∧ puts 8 ((BitVec.ofNat 16 (rnd .bf16 rm true x)).setWidth 64)
      ∧ puts 9 (if (w.extractLsb' 7 8 == 255#8 && w.extractLsb' 0 7 != 0#7) then fpCanonical.setWidth 64
          else ((w.setWidth 16 ++ 0#16 : BitVec 32)).setWidth 64))

/-! ### The executor: traps -/

/-- R122, R125, R139: a drained row whose gang has a handler, with BUSY clear, enters it, by trap, by brk, after a trap that
waited for it to drain, and for a pending ENGINE trap. A control request that it took while it drained acts then: it goes on, or halts, at
that request's PC (the model's choice, log 73). That a row stalled in gbar takes the ENGINE trap there too, and is marked to stall
there again after tret, is the model's choice (log 55): R125 does not say it. -/
def Obligations.TrapEntry : Prop :=
  ∀ (s : State) (c r : Nat) (h : BitVec 32), c < numCores → r < 4096 → Drained s c r → (s.slot c r 3).getLsbD 40 = false →
    HandlerIs s c r h → h ≠ 0xFFFFFFFF#32 →
    let x := s.core c
    let enters (t : State) (v : Word) : Prop := EntersHandler s t c r h v ∧ (t.core c).engTraps = x.engTraps ∧ (t.core c).barred = x.barred
    (∀ o : Operands, c = s.curCore → r = s.curRow →
      let info (k : Cause) (code : BitVec 8) : TrapInfo := { cause := k, pc := s.pc, code := code, deferred := false, len := o.len.units }
      Answers (.trap o) s (fun t => enters t (trapValue s c r (info .trapi (o.imm22.setWidth 8)) true))
        ∧ Answers (.brk o) s (fun t => enters t (trapValue s c r (info .brk 0) true)))
    ∧ (∀ (l : Latch) (y : TrapInfo), s.latch? c r = some l → l.intent = .trap y → y.cause ≠ .lease → y.cause ≠ .wdog →
        let at_ (pc : BitVec 32) (i : Intent) : Prop := Answers (.trapEntry c r) s (fun t =>
          EntersAt s t c r pc (trapValue s c r y true) i ∧ (t.core c).engTraps = x.engTraps ∧ (t.core c).barred = x.barred)
        (y.redirect = none → at_ h (afterEntry s c r))
          ∧ (∀ pc, y.redirect = some (pc, false) → at_ pc (afterEntry s c r))
          ∧ (∀ pc, y.redirect = some (pc, true) → at_ pc (.close (.halt pc))))
    ∧ (∀ (l : Latch) (eng : BitVec 8), s.latch? c r = some l → l.intent = .run ∨ l.intent = .stalled →
        x.engTraps.find? (fun e => e.1 == r) = some (r, eng) →
        Answers (.engineTrapDelivery c r) s (fun t =>
          EntersHandler s t c r h (trapFields eng (BitVec.ofNat 7 (s.nextInstr c r).2) ((s.slot c r 2).getLsbD 32) false true 0x0B
            (s.nextInstr c r).1)
          ∧ (t.core c).engTraps = x.engTraps.filter (fun e => e.1 != r)
          ∧ (t.core c).barred = if l.intent = .stalled then x.barred ++ [r] else x.barred))

/-- R122, R126: a drained row that takes a trap with BUSY set, or for LEASE or WDOG, or whose gang has no handler, is ended; `tw`
keeps BUSY as it was. The supervisor's ring is disabled, so that the record is dropped and counted. -/
def Obligations.RowEnds : Prop :=
  ∀ (s : State) (c r : Nat), c < numCores → r < 4096 → Drained s c r → RecordsDropped s c →
    let busy := (s.slot c r 3).getLsbD 40
    let next := s.nextInstr c r
    (∀ o : Operands, c = s.curCore → r = s.curRow → busy = true ∨ HandlerIs s c r 0xFFFFFFFF#32 →
      let info (k : Cause) (code : BitVec 8) : TrapInfo := { cause := k, pc := s.pc, code := code, deferred := false, len := o.len.units }
      Answers (.trap o) s (fun t => Ends s t c r s.pc (trapValue s c r (info .trapi (o.imm22.setWidth 8)) busy))
        ∧ Answers (.brk o) s (fun t => Ends s t c r s.pc (trapValue s c r (info .brk 0) busy)))
    ∧ (∀ (l : Latch) (x : TrapInfo), s.latch? c r = some l → l.intent = .trap x →
        (x.cause ≠ .wdog → busy = true ∨ HandlerIs s c r 0xFFFFFFFF#32 ∨ x.cause = .lease →
          Answers (.trapEntry c r) s (fun t => Ends s t c r x.pc (trapValue s c r x busy)))
        ∧ (x.cause = .wdog → Answers (.trapEntry c r) s (fun t =>
            Ends s t c r next.1 (trapValue s c r { x with pc := next.1, len := next.2, deferred := false } busy))))

/-- R123: tret clears BUSY, sets `bt`.VALID to BTV and resumes at PC + NEXT or at PC by RESUME, or at wa[31:0] when A names a
register; with BUSY clear it raises ILL. The clauses on a row that left a stall in gbar for an ENGINE trap are the model's choice (log
55), which no rule states: without a register it stalls there again unless its episode has released, and its entry is free where it has;
with one it goes on at wa and stalls there no more. -/
def Obligations.TrapReturn : Prop :=
  ∀ (s : State) (o : Operands),
    let tw := s.reg 3
    let saved : BitVec 32 := tw.setWidth 32
    let resume := if o.a ≠ 0 then (s.reg o.ra).setWidth 32
      else if tw.getLsbD 41 then saved + (tw.extractLsb' 43 7).setWidth 32 else saved
    let c := s.curCore
    let r := s.curRow
    let x := s.core c
    let barrier (e : WaitEntry) : Bool := e.row == r && e.on.isBarrier
    (tw.getLsbD 40 = true → Answers (.tret o) s (fun t =>
      (∀ k, ¬ InSlot c r 0 4 k → ¬ InSlot c r 2 8 k → ¬ InSlot c r 3 8 k → t.mem.read k = s.mem.read k)
        ∧ t.pc = resume ∧ t.reg 3 = tw &&& ~~~(1#64 <<< 40)
        ∧ t.reg 2 = (s.reg 2 &&& ~~~(1#64 <<< 32)) ||| (if tw.getLsbD 42 then 1#64 <<< 32 else 0)
        ∧ (r ∉ x.barred → t = { s with mem := t.mem })
        ∧ (r ∈ x.barred → CoresAndMemory s t ∧ (∀ d, d ≠ c → t.core d = s.core d)
            ∧ if o.a ≠ 0 then t.core c = { x with barred := x.barred.filter (fun q => q != r) }
              else if x.waits.any (fun e => barrier e && !e.met) = true then
                t.core c = { x with barred := x.barred.filter (fun q => q != r), latches := (t.core c).latches }
                  ∧ ∀ q, t.latch? c q = if q = r then (s.latch? c r).map (fun l => { l with intent := .stalled }) else s.latch? c q
              else t.core c = { x with barred := x.barred.filter (fun q => q != r), waits := x.waits.filter (fun e => !barrier e) })))
    ∧ (tw.getLsbD 40 = false → Traps (.tret o) s o .ill 0)

/-! ### The executor: memory, at issue -/

/-- R152 to R156: an aligned ld, lr or ldm that the sender's checks allow becomes pending as the access it names, and asks
another device with a READ message; a load of the row's own latch reads it as it stands after the instruction, with the PC of the next
one past pads (R105), and completes at once (R182). A misaligned
address raises ALIGN before any other check, and a refused access its cause. R68, R156, R223, R235: lr of eight bytes reads
the matrix status and the registers of the channels from the engine page; the command window and what holds no register refuse
with PROT, another width or an ldm with ALIGN. R70 to R72, R89, R94, R312: the sender's checks answer XLATE for an address with a bit of
[63:57] set or a device that no link leads to, PROT for a reserved unit, and LEASE for a user row whose gang's lease has no range that
holds all bytes with the right; the bits of the address are compared with the range's as they stand, which is the model's reading (log
67). Row space answers PROT past the array, for another partition's row, and in user mode for a dirty-log row and for what the lowest
enabled range over the row does not allow. -/
def Obligations.LoadsIssue : Prop :=
  (∀ (s : State) (o : Operands), (s.latch? s.curCore s.curRow).isSome = true →
    let ea := s.reg o.ra + o.imm
    let cc := o.fn.toNat % 8
    let n := [1, 1, 2, 2, 4, 4, 8].getD cc 8
    let sgn := cc == 0 || cc == 2 || cc == 4
    let scope := if o.fn.getLsbD 3 then o.fn.toNat / 16 % 8 else 0
    let align := [8, 16, 32, 32, 64, 64, 64, 64].getD cc 64
    let asks (i : Instr) (op : PendOp) (acq : Bool) (len : Nat) : Prop :=
      ∃ u, BecomesPending s u o op acq ∧ Answers i s (fun t => Requests s u t 2 0 ea.toNat (List.replicate len 0))
    (ea.toNat % n ≠ 0 → Traps (.ld o) s o .align 0 ∧ Traps (.lr o) s o .align 0)
      ∧ (ea.toNat % align ≠ 0 → Traps (.ldm o) s o .align 0)
      ∧ (ea.toNat % n = 0 → (∀ k, s.senderRefusal s.me ea n true false = some k → Traps (.ld o) s o k 0)
          ∧ (s.senderRefusal s.me ea n true false = none →
              asks (.ld o) (.load o.rd n sgn true ea.toNat scope) (o.fn.getLsbD 3) n))
      ∧ (ea.toNat % align = 0 → o.fn.getLsbD 3 = true →
          (∀ k, s.senderRefusal s.me ea (8 * (cc + 1)) true false = some k → Traps (.ldm o) s o k 0)
          ∧ (s.senderRefusal s.me ea (8 * (cc + 1)) true false = none →
              asks (.ldm o) (.loadMany o.rd (cc + 1) true ea.toNat) false (8 * (cc + 1))))
      ∧ (2 ^ 21 ≤ ea.toNat → (ea.toNat % n = 0 → Traps (.lr o) s o .prot 0)
          ∧ (ea.toNat % align = 0 → o.fn.getLsbD 3 = false → Traps (.ldm o) s o .prot 0))
      ∧ (ea.toNat < 2 ^ 20 → (∀ k, s.rowRefusal s.me ea false = some k → (ea.toNat % n = 0 → Traps (.lr o) s o k 0)
          ∧ (ea.toNat % align = 0 → o.fn.getLsbD 3 = false → Traps (.ldm o) s o k 0)))
      ∧ (ea.toNat < 2 ^ 20 → s.rowRefusal s.me ea false = none → ea.toNat / 256 ≠ s.curRow →
          (ea.toNat % n = 0 → Answers (.lr o) s (fun t => BecomesPending s t o (.load o.rd n sgn false ea.toNat 0) false))
          ∧ (ea.toNat % align = 0 → o.fn.getLsbD 3 = false →
              Answers (.ldm o) s (fun t => BecomesPending s t o (.loadMany o.rd (cc + 1) false ea.toNat) false)))
      ∧ (ea.toNat < 2 ^ 20 → s.rowRefusal s.me ea false = none → ea.toNat / 256 = s.curRow →
          ∃ u, OnlyAdvances s u o
            ∧ (ea.toNat % n = 0 → Answers (.lr o) s (fun t =>
                WritesRegister s t o o.rd (loadValue sgn (u.shownBytes s.curCore ea.toNat n))))
            ∧ (ea.toNat % align = 0 → o.fn.getLsbD 3 = false → Answers (.ldm o) s (fun t =>
                MemoryOnly s t (fun k => InSlot s.curCore s.curRow 0 4 k
                    ∨ ∃ j, j ≤ cc ∧ o.rd + j ≠ 0 ∧ InSlot s.curCore s.curRow (o.rd + j) 8 k)
                  ∧ t.pc = s.pc + BitVec.ofNat 32 o.len.units
                  ∧ ∀ j, j ≤ cc → o.rd + j ≠ 0 →
                      t.reg (o.rd + j) = wordAt (wordsOf (u.shownBytes s.curCore ea.toNat (8 * (cc + 1)))) j)))) ∧
  (∀ (s : State) (o : Operands), (s.latch? s.curCore s.curRow).isSome = true →
    let c := s.curCore
    let ea := (s.reg o.ra + o.imm).toNat
    let n := [1, 1, 2, 2, 4, 4, 8].getD (o.fn.toNat % 8) 8
    let reads (v : Word) : Prop := n = 8 → Answers (.lr o) s (fun t => BecomesPending s t o (.taken o.rd v false) false)
    (ea = 0x100040 → reads (s.core c).mx.status)
      ∧ (∀ ch, ch < 4 → ea = 0x100100 + 64 * ch → reads ((s.core c).chan ch).head)
      ∧ (∀ ch, ch < 4 → ea = 0x100108 + 64 * ch → reads ((s.core c).chan ch).status)
      ∧ (∀ ch, ch < 4 → ea = 0x100110 + 64 * ch → reads ((s.core c).chan ch).current)
      ∧ (∀ j, j < 32 → ea = 0x100200 + 16 * j → reads ((s.core c).res.get ⟨0, 0⟩ j).w0)
      ∧ (∀ j, j < 32 → ea = 0x100208 + 16 * j → reads ((s.core c).res.get ⟨0, 0⟩ j).w1)
      ∧ (0x100000 ≤ ea → ea < 0x100040 → ea % n = 0 → Traps (.lr o) s o .prot 0)
      ∧ (0x100400 ≤ ea → ea < 2 ^ 21 → ea % n = 0 → Traps (.lr o) s o .prot 0)
      ∧ (ea = 0x100040 → n ≠ 8 → Traps (.lr o) s o .align 0)
      ∧ (ea = 0x100040 → o.fn.toNat % 16 = 0 → Traps (.ldm o) s o .align 0)) ∧
  (∀ (s : State) (id : Ident) (ea : Word) (n : Nat) (rd wr : Bool),
    let va := ea.toNat
    let unit := vaUnit va
    let answers := s.senderRefusal id ea n rd wr
    let nowhere := 2 ^ 57 ≤ va
      ∨ (vaNode va ≠ 0x3FF ∧ vaNode va ≠ s.fabric.nodeId ∧ s.fabric.route.get 31 (vaNode va) = 31)
    let assigned := unit < 0x140 ∨ (0x180 ≤ unit ∧ unit < 0x188) ∨ unit = 0x1F0 ∨ unit = 0x1F1
    let covered (w : Bool) : Prop := ∃ rs, (s.gang id.part id.gang).lease = some rs
      ∧ ∃ l ∈ rs, l.base ≤ va ∧ va + n ≤ l.base + l.bytes ∧ (w = true → l.wr = true)
    let unleased := id.mode = false ∧ ((rd = true ∧ ¬ covered false) ∨ (wr = true ∧ ¬ covered true))
    (nowhere → answers = some .xlate)
      ∧ (¬ nowhere → vaRegion va = 2 → (¬ assigned → answers = some .prot) ∧ (assigned → answers = none))
      ∧ (¬ nowhere → vaRegion va ≠ 2 → (unleased → answers = some .lease) ∧ (¬ unleased → answers = none))) ∧
  (∀ (s : State) (id : Ident) (ea : Word) (wr : Bool),
    (2 ^ 20 ≤ ea.toNat ∨ s.rowDenied id id.core (ea.toNat / 256) wr = true → s.rowRefusal id ea wr = some .prot)
      ∧ (ea.toNat < 2 ^ 20 → s.rowDenied id id.core (ea.toNat / 256) wr = false → s.rowRefusal id ea wr = none)) ∧
  (∀ (s : State) (id : Ident) (c r : Nat) (wr : Bool), r < 4096 → (s.core c).dlogbase < 4096 →
    let x := s.core c
    let denied := s.rowDenied id c r wr
    let logs := ∃ k, k < 16 ∧ r = (x.dlogbase + k) % 4096
    let ranged (i : Nat) : Prop := (x.rangeB.get 0 i).getLsbD 0 = true
      ∧ bitsAt (x.rangeA.get 0 i) 0 12 ≤ r ∧ r ≤ bitsAt (x.rangeA.get 0 i) 16 12
    let user := id.part = s.partid c ∧ id.mode = false
    (id.part ≠ s.partid c → denied = true)
      ∧ (id.part = s.partid c → id.mode = true → denied = false)
      ∧ (user → logs → denied = true)
      ∧ (user → ¬ logs → (∀ i, i < 16 → ¬ ranged i) → denied = false)
      ∧ (user → ¬ logs → ∀ i, i < 16 → ranged i → (∀ j, j < i → ¬ ranged j) →
          (denied = true ↔ ((x.rangeB.get 0 i).getLsbD 3 = true ∧ bitsAt (x.rangeB.get 0 i) 8 12 ≠ id.gang)
            ∨ (wr = false ∧ (x.rangeB.get 0 i).getLsbD 1 = false) ∨ (wr = true ∧ (x.rangeB.get 0 i).getLsbD 2 = false))))

/-- R154 to R156: an aligned st or global stm that the sender's checks allow becomes an outstanding store with its bytes,
under the identity of its row; a release at system scope writes the dirty lines of the grove back first, and so does a header for
another device's dispatch window (R301, R360). R103, R105, R153, R154,
R156, R363: a row-space sr or stm to another row of the array stores exactly its bytes, or waits while that row is open or an
earlier access of its path is on its way; where it covers slot 0 of a context row it makes a control request, which the sender
checks first, in an order where two checks fail that is the model's reading (log 57); to the row itself it writes the registers above slot 3, requests control in slot 0, and slots 1 to 3 raise ILL. -/
def Obligations.StoresIssue : Prop :=
  (∀ (s : State) (o : Operands),
    let ea := s.reg o.ra + o.imm
    let n := 2 ^ (o.fn.toNat % 8)
    let m := o.fn.toNat % 8 + 1
    let align := [8, 16, 32, 32, 64, 64, 64, 64].getD (o.fn.toNat % 8) 64
    let rel := o.fn.getLsbD 3
    let scope := if rel then o.fn.toNat / 16 % 8 else 0
    let b := if rel = true ∧ scope = 5 then s.sysRelease (s.curCore / 4) else s
    let h := if vaRegion ea.toNat = 2 ∧ vaUnit ea.toNat = 0x1F0 ∧ s.isLocal ea.toNat = false then s.sysRelease (s.curCore / 4) else s
    let store (u : State) (data : List Byte) (whole release : Bool) (sc : Nat) : StoreReq :=
      { id := u.me, va := ea.toNat, data := data, whole := whole, release := release, scope := sc, pc := u.pc,
        len := o.len.units, seq := u.seq, age := 0, sent := false }
    let issues (i : Instr) (u : State) (q : StoreReq) : Prop :=
      Answers i s (fun t => OnlyAdvances { u with stores := u.stores ++ [q], seq := u.seq + 1 } t o)
    (ea.toNat % n ≠ 0 → Traps (.st o) s o .align 0)
      ∧ (ea.toNat % align ≠ 0 → Traps (.stm o) s o .align 0)
      ∧ (ea.toNat % n = 0 → (∀ k, s.senderRefusal s.me ea n false true = some k → Traps (.st o) s o k 0)
          ∧ (s.senderRefusal s.me ea n false true = none →
              issues (.st o) b (store b (bytesOfNat n (s.reg o.rb).toNat) false rel scope)))
      ∧ (ea.toNat % align = 0 → rel = true → (∀ k, s.senderRefusal s.me ea (8 * m) false true = some k → Traps (.stm o) s o k 0)
          ∧ (s.senderRefusal s.me ea (8 * m) false true = none →
              issues (.stm o) h (store h (bytesOfWords ((upto m).map (fun k => s.reg (o.rd + k)))) true false 0)))) ∧
  (∀ (s : State) (o : Operands), RowExists s →
    let c := s.curCore
    let ea := s.reg o.ra + o.imm
    let r := ea.toNat / 256
    let off := ea.toNat % 256
    let n := 2 ^ (o.fn.toNat % 8)
    let align := [8, 16, 32, 32, 64, 64, 64, 64].getD (o.fn.toNat % 8) 64
    let key := c * 2 ^ 20 + ea.toNat
    let next : BitVec 32 := s.pc + BitVec.ofNat 32 o.len.units
    let req (ctl : Bool) (bs : List Byte) : RowReq :=
      { core := c, row := r, off := off, data := bs, ctl := ctl, id := s.me, rs := true, seq := s.seq }
    let control := off < 8 ∧ s.isContext c r = true
    let store (i : Instr) (bs : List Byte) (wide : Bool) : Prop :=
      let q := req (decide (off < 8) && s.isContext c r && bs.length == 8) bs
      let held : Prop := s.rowBusy c r = true ∨ s.olderOnPath c s.curRow true s.seq = true
        ∨ (s.seq ≠ 0 ∧ s.rowReqs.any (fun x => x.alongside q) = true)
      let w := word (natOfBytes (bs.take 8))
      (2 ^ 21 ≤ ea.toNat → Traps i s o .prot 0)
        ∧ (ea.toNat < 2 ^ 20 → (8 ≤ off ∨ s.isContext c r = false ∨ r = s.curRow) →
            ∀ k, s.rowRefusal s.me ea true = some k → Traps i s o k 0)
        ∧ (ea.toNat < 2 ^ 20 → s.rowRefusal s.me ea true = none →
            (r ≠ s.curRow → ¬ control →
              (s.partlyPoisoned key bs.length = true → Traps i s o .memerr 0)
              ∧ (s.partlyPoisoned key bs.length = false → ¬ held → Answers i s (fun t =>
                  t = { s with mem := t.mem, poison := t.poison, seq := s.seq + 1 } ∧ t.pc = next
                    ∧ StoresBytes s t c r off bs (InSlot c s.curRow 0 4))))
            ∧ (r = s.curRow → 32 ≤ off → Answers i s (fun t =>
                t = { s with mem := t.mem, poison := t.poison } ∧ t.pc = next
                  ∧ (∀ j, j < bs.length → t.mem.read (key + j) = bs.getD j 0)
                  ∧ (∀ k, ¬ InSlot c s.curRow 0 4 k → ¬ (key ≤ k ∧ k < key + bs.length) → t.mem.read k = s.mem.read k)))
            ∧ (r = s.curRow → off < 32 → 8 ≤ off ∨ 8 < off + bs.length → Traps i s o .ill 0)
            ∧ (r = s.curRow → off + bs.length ≤ 8 →
                (∀ k code, s.controlRefusal s.me c r (word (natOfBytes bs)) wide = some (k, code) → Traps i s o k code)
                ∧ (s.controlRefusal s.me c r (word (natOfBytes bs)) wide = none → ∃ u, OnlyAdvances s u o ∧ Answers i s (fun t =>
                    t = u.applyControl s.me c r (word (natOfBytes bs))))))
        ∧ (ea.toNat < 2 ^ 20 → r ≠ s.curRow → control →
            (∀ k code, s.controlRefusal s.me c r w wide = some (k, code) → Traps i s o k code)
            ∧ (s.controlRefusal s.me c r w wide = none →
                (s.partlyPoisoned key bs.length = true → Traps i s o .memerr 0)
                ∧ (s.partlyPoisoned key bs.length = false → ¬ held → Answers i s (fun t =>
                    OnlyAdvances (s.applyRowStore s.me c r off bs).bump t o))))
        ∧ (ea.toNat < 2 ^ 20 → r ≠ s.curRow → held → s.partlyPoisoned key bs.length = false →
            (¬ control → s.rowRefusal s.me ea true = none) → (control → s.controlRefusal s.me c r w wide = none) →
            Answers i s (fun t => OnlyAdvances { s with rowReqs := s.rowReqs ++ [q], seq := s.seq + 1 } t o))
    (ea.toNat % n ≠ 0 → Traps (.sr o) s o .align 0)
      ∧ (o.fn.toNat % 8 < 4 → ea.toNat % n = 0 → store (.sr o) (bytesOfNat n (s.reg o.rb).toNat) (n == 8))
      ∧ (ea.toNat % align = 0 → o.fn.getLsbD 3 = false →
          store (.stm o) (bytesOfWords ((upto (o.fn.toNat % 8 + 1)).map (fun k => s.reg (o.rd + k)))) true))

/-- R157, R158, R80: pf brings its line, clean, into the slice of its grove, and PC goes on; a fence below system scope only goes
on, and at system scope W before it writes the dirty lines of REGIONs 01 and 11 in the slice back, R after it drops the clean ones.
R160 to R163: lock and gresize become pending, and lock asks another device with a READ of one byte (log 26); unlock writes 0 and
drops the pin of its line, or writes 1; wb writes the issuer's dirty lines in the range back to memory and leaves them clean, and
inv removes them, in the slices that the scope names. R72: an address with a bit of [63:57] set raises XLATE, also in wb and inv (log
76). A line enters a slice while a way of its set is left to it (R374). -/
def Obligations.FencesAndSliceControl : Prop :=
  (∀ (s : State) (o : Operands),
    let c := s.curCore
    let r := s.curRow
    let g := c / 4
    let p := s.partid c
    let next : BitVec 32 := s.pc + BitVec.ofNat 32 o.len.units
    let ea := s.reg o.ra + o.imm
    let line := s.canonVa ea.toNat / 64
    let sys := o.imm22.toNat % 8 = 5
    let w := o.fn.getLsbD 1
    let rd := o.fn.getLsbD 3
    let dirty := (s.grove g).lines.filter (fun l => l.far && l.dirty)
    let written := if w then (s.grove g).lines.map (fun l => if l.far then { l with dirty := false } else l) else (s.grove g).lines
    let kept := if rd then written.filter (fun l => l.dirty || !l.far) else written
    Answers (.pf o) s (fun t =>
        t = { s with mem := t.mem, poison := t.poison, tlb := t.tlb, groves := t.groves } ∧ t.pc = next ∧ LinesOnly s t
        ∧ LinesFrom s t (fun h l => h = g ∧ l.part = p ∧ l.line = line ∧ l.dirty = false)
        ∧ (∀ k, k < 2 ^ 28 → ¬ InSlot c r 0 4 k → t.mem.read k = s.mem.read k)
        ∧ ((∀ h, ∀ l ∈ (s.grove h).lines, l.dirty = false) →
            t = { s with mem := t.mem, groves := t.groves } ∧ ∀ k, ¬ InSlot c r 0 4 k → t.mem.read k = s.mem.read k)
        ∧ ∀ key, s.senderRefusal s.me ea 1 true false = none → vaRegion ea.toNat ≠ 2 → s.isLocal ea.toNat = true →
            s.peek p (line * 64) = some key → s.poisoned key 64 = false → ((s.grove g).fillWay p line).isSome = true →
              ∃ l ∈ (t.grove g).lines, l.part = p ∧ l.line = line)
      ∧ (¬ sys → Answers (.fence o) s (fun t => OnlyAdvances s t o))
      ∧ (sys → Answers (.fence o) s (fun t =>
          t = { s with mem := t.mem, poison := t.poison, tlb := t.tlb, groves := t.groves, cores := t.cores } ∧ t.pc = next
          ∧ LinesOnly s t ∧ LinesFrom s t (fun _ _ => False)
          ∧ (∀ k, k < 2 ^ 28 → ¬ InSlot c r 0 4 k → t.mem.read k = s.mem.read k)
          ∧ (w = true → ∀ l ∈ (t.grove g).lines, l.far = true → l.dirty = false)
          ∧ (rd = true → ∀ l ∈ (t.grove g).lines, l.far = true → l.dirty = true)
          ∧ (∀ d, d ≠ c → t.core d = s.core d)
          ∧ t.core c = { s.core c with fenced :=
              if w = true ∧ o.fn.getLsbD 5 = true ∧ r ∉ (s.core c).fenced then (s.core c).fenced ++ [r] else (s.core c).fenced }
          ∧ (w = false → ∀ k, ¬ InSlot c r 0 4 k → t.mem.read k = s.mem.read k)
          ∧ ∀ f, (w = true → Resident s dirty f) → (w = true → WritesLines s t dirty f)
              ∧ ∀ h, t.grove h = if h = g then { s.grove g with lines := kept } else s.grove h))) ∧
  (∀ (s : State) (o : Operands),
    let ea := s.reg o.ra + o.imm
    let g := s.curCore / 4
    let p := s.partid s.curCore
    let x := s.grove g
    let line := s.canonVa ea.toNat / 64
    let mine (q : Pin) : Bool := q.part == p && q.line == line
    let lo := s.canonVa (s.reg o.ra).toNat
    let n := (s.reg o.rb).toNat
    let hit (l : SliceLine) : Bool :=
      decide (n ≠ 0) && l.part == p && decide (l.line * 64 < lo + n) && decide (lo < l.line * 64 + 64)
    let scope := o.fn.toNat % 8
    let acting : List Nat := if scope ≤ 2 then [g]
      else (List.range 64).filter (fun h => s.owns p h && (scope != 3 || h / 16 == g / 16))
    let dirty := acting.flatMap (fun h => (s.grove h).lines.filter (fun l => hit l && l.dirty))
    let cleans (i : Instr) (f : List SliceLine → List SliceLine) (keep : Bool) : Prop := (s.reg o.ra).toNat < 2 ^ 57 → Answers i s (fun t =>
      t = { s with mem := t.mem, poison := t.poison, tlb := t.tlb, groves := t.groves }
        ∧ t.pc = s.pc + BitVec.ofNat 32 o.len.units ∧ LinesOnly s t ∧ LinesFrom s t (fun _ _ => False)
        ∧ (∀ k, k < 2 ^ 28 → ¬ InSlot s.curCore s.curRow 0 4 k → t.mem.read k = s.mem.read k)
        ∧ (∀ h ∈ acting, ∀ l ∈ (t.grove h).lines, hit l = true → keep = true ∧ l.dirty = false)
        ∧ ∀ fk, Resident s dirty fk → WritesLines s t dirty fk
            ∧ ∀ h, t.grove h = { s.grove h with lines := if h ∈ acting then f (s.grove h).lines else (s.grove h).lines })
    ((s.latch? s.curCore s.curRow).isSome = true →
        (s.senderRefusal s.me ea 1 true false = none → ∃ u, BecomesPending s u o (.lock o.rd ea.toNat) false
            ∧ Answers (.lock o) s (fun t => Requests s u t 2 0 ea.toNat [0]))
        ∧ Answers (.gresize o) s (fun t => BecomesPending s t o (.gresize o.rd (s.reg o.ra)) false))
      ∧ (∀ k, s.senderRefusal s.me ea 1 true false = some k → Traps (.lock o) s o k 0)
      ∧ (2 ^ 57 ≤ ea.toNat → Traps (.unlock o) s o .xlate 0)
      ∧ (2 ^ 57 ≤ (s.reg o.ra).toNat → Traps (.wb o) s o .xlate 0 ∧ Traps (.inv o) s o .xlate 0)
      ∧ (ea.toNat < 2 ^ 57 → x.pins.any mine = true → Answers (.unlock o) s (fun t =>
          WritesRegister (s.setGrove g { x with pins := x.pins.filter (fun q => !mine q) }) t o o.rd 0))
      ∧ (ea.toNat < 2 ^ 57 → x.pins.any mine = false → Answers (.unlock o) s (fun t => WritesRegister s t o o.rd 1))
      ∧ cleans (.wb o) (fun ls => ls.map (fun l => if hit l then { l with dirty := false } else l)) true
      ∧ cleans (.inv o) (fun ls => ls.filter (fun l => !hit l)) false)

/-- R42, R80, R153, R164, R308: an aligned atomic that its checks allow becomes pending with the values of its registers, and asks
another device with an ATOMIC message; a release at system scope writes the dirty lines of the grove back first. On a register of
its own row it acts at once, and its old value is pending; slots 1 to 3 raise ILL and slot 0 of a context row CWSTATE. -/
def Obligations.AtomicsIssue : Prop :=
  ∀ (s : State) (o : Operands), (s.latch? s.curCore s.curRow).isSome = true →
    let c := s.curCore
    let ea := s.reg o.ra + (match o.len with | .w64 => 0 | .w96 => o.imm | .w128 => o.imm)
    let wide := if o.fn.getLsbD 4 then 8 else 4
    let y := s.reg o.rb
    let z := s.reg o.rc
    let acq := o.fn.getLsbD 5
    let sys := o.imm22.toNat % 8 = 5
    let b := if o.fn.getLsbD 6 = true ∧ sys then s.sysRelease (c / 4) else s
    let row := ea.toNat / 256
    let off := ea.toNat % 256
    let issues (i : Instr) (size : Nat) (data : List Byte) : Prop :=
      (ea.toNat % size ≠ 0 → Traps i s o .align 0)
        ∧ (ea.toNat % size = 0 → o.fn.getLsbD 7 = false →
          (∀ k, s.senderRefusal s.me ea size true true = some k → Traps i s o k 0)
          ∧ (s.senderRefusal s.me ea size true true = none → ∃ u, BecomesPending b u o (.atomic i ea.toNat y z) acq
                ∧ Answers i s (fun t => Requests b u t 4 (o.fn.toNat % 128) ea.toNat data)))
        ∧ (ea.toNat % size = 0 → o.fn.getLsbD 7 = true → 2 ^ 20 ≤ ea.toNat → Traps i s o .prot 0)
        ∧ (ea.toNat % size = 0 → o.fn.getLsbD 7 = true → ea.toNat < 2 ^ 20 →
          s.rowDenied s.me c row true = true → Traps i s o .prot 0)
        ∧ (ea.toNat % size = 0 → o.fn.getLsbD 7 = true → ea.toNat < 2 ^ 20 →
          s.rowDenied s.me c row true = false →
            (row ≠ s.curRow → 8 ≤ off ∨ s.isContext c row = false →
              Answers i s (fun t => BecomesPending b t o (.atomic i ea.toNat y z) acq))
            ∧ (row ≠ s.curRow → off < 8 → s.isContext c row = true → Traps i s o .cwstate 1)
            ∧ (row = s.curRow → off < 8 → Traps i s o .cwstate 1)
            ∧ (row = s.curRow → 8 ≤ off → off < 32 → Traps i s o .ill 0)
            ∧ (row = s.curRow → 32 ≤ off → ∀ a, atomicOf i y z = some a →
                let m := b.atomicKey (rowKey c row off) a
                let u := if acq = true ∧ sys then m.2.sysAcquire (c / 4) else m.2
                Answers i s (fun t => BecomesPending u t o (.taken o.rd (a.result m.1) true) acq)))
    (∀ i ∈ [Instr.amoAdd o, .amoAnd o, .amoOr o, .amoXor o, .amoMin o, .amoMax o, .amoMinn o, .amoMaxn o, .amoSwap o],
        issues i wide (bytesOfNat wide y.toNat))
      ∧ issues (.acas o) wide (bytesOfNat wide y.toNat ++ bytesOfNat wide z.toNat)
      ∧ (∀ i ∈ [Instr.famoAdd o, .famoMin o, .famoMax o, .famoAdd2 o], issues i 4 (bytesOfNat 4 y.toNat))

/-! ### Completion of long-latency operations, and acceptance of stores -/

/-- R113, R122, R154, R156, R324: a pending result is written to its register; a pending load or ldm that no earlier access holds back
(R357, R363) writes the bytes that it finds, of the array, of a unit, of memory or from another device's answer, and one that meets an
error or is refused defers its cause to its row. R81, R82, R160, R162: a pending lock takes the faults of a load of a byte, then answers
DONE, QUOTA, SETFULL or NOTCACHE, and pins its line in a free way of its set unless it waits for a gresize; a pending gresize waits for
an earlier one, answers RANGE or LOCKED, or flushes the ways that change and answers DONE. Which way is taken is free (log 9); the answer
for another device's line and the order of QUOTA and SETFULL are the model's (logs 26, 76). R297: launch writes its word once it has one. -/
def Obligations.LoadsComplete : Prop :=
  ∀ (s : State) (c r k : Nat) (p : Pending), (s.pendingOf c r)[k]? = some p →
    let i : Instr := .longLatencyCompletion c r k
    let g := c / 4
    let part := s.partid c
    let value (sgn : Bool) (bs : List Byte) : Word :=
      if sgn then (BitVec.ofNat (8 * bs.length) (natOfBytes bs)).signExtend 64 else BitVec.ofNat 64 (natOfBytes bs)
    let takes (u : State) (d : Nat) (v : Word) (acq : Bool) : Prop := Answers i s (fun t => Retires u t c r k d v acq)
    let many (u : State) (d : Nat) (vs : List Word) : Prop := Answers i s (fun t =>
      CoresAndMemory u t ∧ t.pendingOf c r = (u.pendingOf c r).eraseIdx k
        ∧ (∀ e, e ≠ c → t.core e = u.core e) ∧ t.core c = { u.core c with latches := (t.core c).latches }
        ∧ (∀ j v, vs[j]? = some v → d + j ≠ 0 → t.regOf c r (d + j) = v)
        ∧ ∀ key, ¬ InSlot c r d (8 * vs.length) key → t.mem.read key = u.mem.read key)
    let fails (u : State) (x : Cause) : Prop := ∀ l, u.latch? c r = some l → l.intent = .run → Answers i s (fun t =>
      Defers u t c r { l with pending := l.pending.eraseIdx k }
        { cause := x, pc := p.pc, code := if x = .cwstate then 1 else 0, deferred := decide (0 < p.since), len := p.len })
    let answered (ea : Nat) (x : Acc (List Byte)) (u : State) : Prop := s.isLocal ea = false ∧ ∃ j m,
      s.msgs.findIdx? (fun m => m.remote && m.mkind == 3 && m.chan == 0 && m.id.isRow c r && m.addr == ea) = some j
        ∧ s.msgs[j]? = some m ∧ u = { s with msgs := s.msgs.eraseIdx j } ∧ x = (if m.aux = 0 then .ok m.data else .fault (causeOf m.aux))
    let found (ea n : Nat) (multi : Bool) (x : Acc (List Byte)) (u : State) : Prop := s.isLocal ea = true
      ∧ ((vaRegion ea ≠ 2 ∧ s.loadMem (some g) part ea n = (x, u)) ∨
          (vaRegion ea = 2 ∧ s.unitLoad (s.ident c r) ea n multi = x ∧ u = s.touchAt ea))
    let reads (glob : Bool) (ea n : Nat) (multi : Bool) (x : Acc (List Byte)) (u : State) : Prop :=
      (glob = false ∧ s.rowSpaceHeld c r p.seq (ea / 256) = false
        ∧ ((s.poisoned (c * 2 ^ 20 + ea) n = false ∧ u = s.touch c (ea / 256) ∧ x = .ok (s.shownBytes c ea n)) ∨
            (s.poisoned (c * 2 ^ 20 + ea) n = true ∧ u = s ∧ x = .fault .memerr)))
      ∨ (glob = true ∧ s.globalHeld c r p.seq ea n = false ∧ (found ea n multi x u ∨ answered ea x u))
    let early (w : Pending) : Bool := decide (w.seq < p.seq) && (match w.op with | .gresize _ _ => true | _ => false)
    (∀ d v, p.op = .value d v ∨ (∃ wr, p.op = .taken d v wr) ∨ p.op = .launch d (some v) → takes s d v false)
      ∧ (∀ d, p.op = .launch d none → Stalls i s)
      ∧ (∀ d n sgn glob ea scope x u, p.op = .load d n sgn glob ea scope → reads glob ea n false x u →
          (∀ bs, x = .ok bs → 1 ≤ bs.length → bs.length ≤ 8 → takes u d (value sgn bs) (p.acquire && scope == 5))
          ∧ ∀ y, x = .fault y → fails u y)
      ∧ (∀ d n glob ea x u, p.op = .loadMany d n glob ea → reads glob ea (8 * n) true x u →
          (∀ bs, x = .ok bs → many u d (wordsOf bs)) ∧ ∀ y, x = .fault y → fails u y)
      ∧ (∀ d ea x u, p.op = .lock d ea → found ea 1 false x u ∨ answered ea x u →
          (∀ y, x = .fault y → fails u y)
          ∧ (∀ bs, x = .ok bs → s.isLocal ea = false ∨ vaRegion ea = 2 → takes u d 3 false)
          ∧ (∀ bs, x = .ok bs → s.isLocal ea = true → vaRegion ea ≠ 2 →
            let y := u.grove g
            let line := s.canonVa ea / 64
            let set := line % 4096
            let pinned := ∃ q ∈ y.pins, q.part = part ∧ q.line = line
            let free := (List.range (16 - y.ways)).filter (fun w =>
              !(y.swapHeld && decide (w < 2)) && !y.pins.any (fun q => q.way == w && q.line % 4096 == set))
            let leaves := u.wayLeaves g (u.lockWayOf g set) = true
            let spent := (u.part part).lockquota ≤ (y.pins.filter (fun q => q.part == part)).length
            (pinned → takes u d 0 false)
              ∧ (¬ pinned → leaves → Stalls i s)
              ∧ (¬ pinned → ¬ leaves → spent → takes u d 1 false)
              ∧ (¬ pinned → ¬ leaves → ¬ spent → free.length ≤ 1 → takes u d 2 false)
              ∧ (¬ pinned → ¬ leaves → ¬ spent → 2 ≤ free.length → ∃ (w : Nat) (v : State), w ∈ free ∧ takes v d 0 false
                  ∧ v = { u with mem := v.mem, poison := v.poison, tlb := v.tlb, groves := v.groves, draws := u.draws + 1 }
                  ∧ (∀ h, h ≠ g → v.grove h = { u.grove h with lines := (v.grove h).lines })
                  ∧ v.grove g = { y with lines := (v.grove g).lines, pins := y.pins ++ [{ part := part, line := line, way := w }] }
                  ∧ (∀ l ∈ (v.grove g).lines, l.line % 4096 = set → l.way = w → l.part = part ∧ l.line = line)
                  ∧ (∀ l ∈ (v.grove g).lines, l.part = part → l.line = line → l.way = w)
                  ∧ (let out (l : SliceLine) : Bool := l.way == w && l.line % 4096 == set && !(l.part == part && l.line == line)
                    ∀ f, Resident u (y.lines.filter (fun l => out l && l.dirty)) f →
                      WritesLines u v (y.lines.filter (fun l => out l && l.dirty)) f
                        ∧ (v.grove g).lines = (y.lines.filter (fun l => !out l)).map (fun l =>
                            if l.part = part ∧ l.line = line then { l with way := w } else l)))))
      ∧ (∀ d (n : Word), p.op = .gresize d n →
          let y := s.grove g
          let n := n.toNat
          let first := ∀ q, q < 4 → ∀ l ∈ (s.core (4 * g + q)).latches, ∀ w ∈ l.pending, early w = false
          let locked := ∃ q ∈ y.pins, 16 - n ≤ q.way
          let out (l : SliceLine) : Bool := decide (16 - n ≤ l.way)
          (¬ first → Stalls i s)
            ∧ (first → 12 < n → takes s d 1 false)
            ∧ (first → n = y.ways → n ≤ 12 → takes s d 0 false)
            ∧ (first → n ≠ y.ways → n ≤ 12 → locked → takes s d 2 false)
            ∧ (first → n ≠ y.ways → n ≤ 12 → ¬ locked → ∃ v, takes v d 0 false
                ∧ v = { s with mem := v.mem, poison := v.poison, tlb := v.tlb, groves := v.groves }
                ∧ (∀ h, h ≠ g → v.grove h = { s.grove h with lines := (v.grove h).lines })
                ∧ v.grove g = { y with lines := (v.grove g).lines, ways := n, epochs := (v.grove g).epochs }
                ∧ (∀ w, (v.grove g).epochs.get 0 w = y.epochs.get 0 w + (if y.ways ≤ w ∧ w < n then 1 else 0))
                ∧ (∀ l ∈ (v.grove g).lines, out l = false)
                ∧ ∀ f, Resident s (y.lines.filter (fun l => out l && l.dirty)) f →
                    WritesLines s v (y.lines.filter (fun l => out l && l.dirty)) f
                      ∧ (v.grove g).lines = y.lines.filter (fun l => !out l)))

/-- R164 to R168, R98: a pending row-space atomic, which was checked when it issued, writes f(old, y) over the old value, and its
destination register takes the old value; acas writes nothing where the values differ, and nothing else changes. Of `bt` of a context
row, bits [63:33] read as zero and take no value. That an atomic may change `bt` of another row at all is the model's choice (log 74). A
global one that no earlier access holds back takes the old value that its unit, its memory or another device's answer gives, or defers
the cause of a refusal to its row; in memory it is made at the place that its address translates to, once slice copies of its line are
recalled (R79), and logged (R87); the host takes only amo.add, amo.swap and acas, and whether it completes them is free (log 56). -/
def Obligations.AtomicsComplete : Prop :=
  (∀ (s : State) (c r k : Nat) (p : Pending) (o : Operands) (ea : Nat) (y z : Word), (s.pendingOf c r)[k]? = some p →
    c < numCores → r < 4096 → ea < 2 ^ 20 → r ≠ ea / 256 → o.fn.getLsbD 7 = true → s.rowSpaceHeld c r p.seq (ea / 256) = false →
    (8 ≤ ea % 256 ∨ s.isContext c (ea / 256) = false) →
    let key := c * 2 ^ 20 + ea
    let ends (i : Instr) (size : Nat) (result : Word) (P : State → Prop) : Prop := ea % size = 0 → p.op = .atomic i ea y z →
      s.poisoned key size = false → Answers (.longLatencyCompletion c r k) s (fun t =>
        ∃ u : State, u = { s with mem := u.mem, poison := u.poison } ∧ P u
          ∧ Retires (u.touch c (ea / 256)) t c r k o.rd result (p.acquire && o.imm22.toNat % 8 == 5))
    AtomicForms o y z
      (fun n => natOfBytes ((List.range n).map (fun j =>
        trimmed (s.isContext c (ea / 256)) (ea % 256 + j) (s.mem.read (key + j)))))
      (fun i n new result => ends i n result (fun u => StoresBytes s u c (ea / 256) (ea % 256) (bytesOfNat n new) (fun _ => False)))
      (fun i n result => ends i n result (fun u => u = s))) ∧
  (∀ (s : State) (c r k : Nat) (p : Pending) (i : Instr) (o : Operands) (ea : Nat) (y z : Word), (s.pendingOf c r)[k]? = some p →
    p.op = .atomic i ea y z → i ∈ atomicForms o → o.fn.getLsbD 7 = false → ∃ a, atomicOf i y z = some a ∧
      let ends (u : State) (old : Nat) : Prop := Answers (.longLatencyCompletion c r k) s (fun t =>
        Retires u t c r k o.rd (a.result old) (p.acquire && o.imm22.toNat % 8 == 5))
      let fails (u : State) (x : Cause) : Prop := ∀ l, u.latch? c r = some l → l.intent = .run →
        Answers (.longLatencyCompletion c r k) s (fun t => Defers u t c r { l with pending := l.pending.eraseIdx k }
          { cause := x, pc := p.pc, code := if x = .cwstate then 1 else 0, deferred := decide (0 < p.since), len := p.len })
      s.globalHeld c r p.seq ea a.size = false →
        (s.isLocal ea = true →
          (∀ old u, s.anyAtomic (s.ident c r) ea a = (.ok old, u) → ends u old)
          ∧ ∀ x u, s.anyAtomic (s.ident c r) ea a = (.fault x, u) → fails u x)
        ∧ (s.isLocal ea = false → ∀ j m,
            s.msgs.findIdx? (fun m => m.remote && m.mkind == 3 && m.chan == 0 && m.id.isRow c r && m.addr == ea) = some j →
            s.msgs[j]? = some m →
              let u := { s with msgs := s.msgs.eraseIdx j }
              (m.aux = 0 → ends u (natOfBytes (m.data.take a.size))) ∧ (m.aux ≠ 0 → fails u (causeOf m.aux)))) ∧
  (∀ (o : Operands) (y z : Word) (old : Nat → Nat), (∀ n, old n < 2 ^ (8 * n)) →
    let form (i : Instr) (n : Nat) (new : Option Nat) (result : Word) : Prop :=
      ∃ a, atomicOf i y z = some a ∧ a.size = n ∧ a.new (old n) = new ∧ a.result (old n) = result
    AtomicForms o y z old (fun i n new result => form i n (some new) result) (fun i n result => form i n none result)) ∧
  (∀ (s : State) (id : Ident) (va0 : Nat) (a : AtomicOp) (i : Instr) (o : Operands) (y z : Word),
    i ∈ atomicForms o → atomicOf i y z = some a → vaRegion va0 ≠ 2 →
    let va := s.canonVa va0
    let rg := vaRegion va
    let u := if rg = 3 then { s with draws := s.draws + 1 } else s
    let c := s.logCore id
    let copy (key h : Nat) (l : SliceLine) : Bool := match id.slice with
      | some g => l.part == id.part && l.line == va / 64 && (if rg = 0 then l.home else h == g)
      | none => rg == 0 && l.home && l.key == key - key % 64
    let answers (x : Acc Nat) (t : State) : Prop := s.anyAtomic id va0 a = (x, t)
    (rg = 3 → i ∉ [Instr.amoAdd o, .amoSwap o, .acas o] → answers (.fault .prot) s)
      ∧ (rg = 3 → i ∈ [Instr.amoAdd o, .amoSwap o, .acas o] → ∀ key w, u.translate id.part va true = (some key, w) →
          Config.hostRefuses s.draws = true → answers (.fault .memerr) w)
      ∧ ((rg = 3 → i ∈ [Instr.amoAdd o, .amoSwap o, .acas o]) →
          (∀ w, u.translate id.part va true = (none, w) → answers (.fault (u.translateCause id.part va)) w)
          ∧ ∀ key w, u.translate id.part va true = (some key, w) →
              (w.poisoned key a.size = true → answers (.fault .memerr) w)
              ∧ (w.poisoned key a.size = false → (rg = 3 → Config.hostRefuses s.draws = false) →
                  let old := natOfBytes ((List.range a.size).map (fun j => w.mem.read (w.physKey (key + j))))
                  let made (t : State) : Prop := ∃ v, v = { w with mem := v.mem, poison := v.poison, groves := v.groves }
                    ∧ (∀ h, v.grove h = { w.grove h with lines := (w.grove h).lines.filter (fun l => !copy key h l) })
                    ∧ (∀ new, a.new old = some new →
                        (∀ j, j < a.size → v.mem.read (w.physKey (key + j)) = (bytesOfNat a.size new).getD j 0)
                        ∧ ∀ b, (∀ j, j < a.size → b ≠ w.physKey (key + j)) → v.mem.read b = w.mem.read b)
                    ∧ (a.new old = none → v.mem = w.mem)
                    ∧ (if rg < 2 then Logs v t c (va / 2 ^ 16) else t = v)
                  let full := rg < 2 ∧ (w.core c).filter.contains (va / 2 ^ 16) = false
                    ∧ (w.slot c (((w.core c).dlogbase + (w.core c).dlogPos / 32) % 4096) ((w.core c).dlogPos % 32)).getLsbD 0 = true
                  let dirty (h : Nat) (l : SliceLine) : Prop := l ∈ (w.grove h).lines ∧ copy key h l = true ∧ l.dirty = true
                  key % a.size = 0 → c < numCores →
                    (full → answers .hold s)
                    ∧ (¬ full → (∀ h l, ¬ dirty h l) → ∃ t, answers (.ok old) t ∧ made t)
                    ∧ (¬ full → rg = 0 → ∀ h l, dirty h l → (∀ h' l', dirty h' l' → l' = l) → l.key = key - key % 64 →
                        ∃ t, answers (.ok (natOfBytes (((bytesOfNat 64 l.data.toNat).drop (key % 64)).take a.size))) t))))

/-- R79, R87, R88, R154, R324: the receiver accepts an outstanding store: its bytes, and no others, are written in the array, or wait
at an open row (R105), or are written in the slice of the row's grove, or, for a party without a slice or where no way of the set is left
to the line (R374), at the bytes that its address translates to; a block that is not in the filter is logged, or the store waits while both halves of the log are full; a
refused store defers its cause to its row; a store to another device leaves as one WRITE, before what its core issued later (R326). -/
def Obligations.StoreAcceptance : Prop :=
  ∀ (s : State) (k : Nat) (q : StoreReq), s.stores[k]? = some q → s.mayAccept k q = true →
    let va := q.va
    let n := q.data.length
    let c := vaUnit va
    let o := vaOff va
    let row := o / 256
    let off := o % 256
    let rest := s.stores.eraseIdx k
    let i : Instr := .storeAcceptance k
    let lc := s.logCore q.id
    let x := s.core lc
    let lrow := (x.dlogbase + x.dlogPos / 32) % 4096
    let slot := x.dlogPos % 32
    let blk := va / 2 ^ 16
    let line := s.canonVa va / 64
    let refused (u : State) (cause : Cause) : Prop := q.id.host = false → ∀ l, s.latch? q.id.core q.id.row = some l →
      l.intent = .run → Answers i s (fun t => Defers { u with stores := rest } t q.id.core q.id.row l
        { cause := cause, pc := q.pc, code := 0, deferred := true, len := q.len })
    (s.classOf q = .plain → vaRegion va = 2 → c < 256 → o < 2 ^ 20 → 8 ≤ off ∨ s.isContext c row = false →
      (q.id.part ≠ s.partid c → refused s .prot)
      ∧ (q.id.part = s.partid c → (s.part (s.partid c)).shut q.seq = false → s.absent c = false → s.asleep (c / 4) = false →
          (s.rowDenied q.id c row true = true → refused s .prot)
          ∧ (s.rowDenied q.id c row true = false → s.partlyPoisoned (c * 2 ^ 20 + o) n = true → refused s .memerr)
          ∧ (s.rowDenied q.id c row true = false → s.partlyPoisoned (c * 2 ^ 20 + o) n = false →
              let req : RowReq := { core := c, row := row, off := off, data := q.data, ctl := false, id := q.id, rs := false, seq := q.seq }
              let held := s.rowBusy c row = true ∨ (q.seq ≠ 0 ∧ s.rowReqs.any (fun y => y.alongside req) = true)
              (¬ held → Answers i s (fun t =>
                t = { s with mem := t.mem, poison := t.poison, stores := rest }
                  ∧ StoresBytes s t c row off q.data (fun _ => False)))
              ∧ (held → Answers i s (fun t => t = { s with rowReqs := s.rowReqs ++ [req], stores := rest })))))
      ∧ (s.classOf q = .plain → vaRegion va = 0 →
          (∀ u, s.translate q.id.part (s.canonVa va) true = (none, u) → refused u (s.translateCause q.id.part (s.canonVa va)))
          ∧ (∀ key u, s.translate q.id.part (s.canonVa va) true = (some key, u) →
              (u.partlyPoisoned key n = true → refused u .memerr)
              ∧ (u.partlyPoisoned key n = false → va % 64 + n ≤ 64 →
                let stored (t : State) (p : Nat → Prop) : Prop := match q.id.slice with
                  | none =>
                    let w := u.recallKey key true
                    t.groves = w.groves ∧ t.tlb = u.tlb
                      ∧ ((∀ a b, a < n → b < n → u.physKey (key + a) = u.physKey (key + b) → a = b) →
                          ∀ j, j < n → t.mem.read (u.physKey (key + j)) = q.data.getD j 0)
                      ∧ ∀ b, ¬ p b → (∀ j, j < n → b ≠ u.physKey (key + j)) → t.mem.read b = w.mem.read b
                  | some g =>
                    let w := u.recallOthers g q.id.part line true
                    let cached := ((w.grove g).line? q.id.part line).isSome = true ∨ ((w.grove g).fillWay q.id.part line).isSome = true
                    LinesOnly s t ∧ LinesFrom w t (fun h l => h = g ∧ l.part = q.id.part ∧ l.line = line)
                      ∧ (¬ cached → t.groves = w.groves
                        ∧ ((∀ a b, a < n → b < n → u.physKey (key + a) = u.physKey (key + b) → a = b) →
                            ∀ j, j < n → t.mem.read (u.physKey (key + j)) = q.data.getD j 0)
                        ∧ ∀ b, ¬ p b → (∀ j, j < n → b ≠ u.physKey (key + j)) → t.mem.read b = w.mem.read b)
                      ∧ (cached → ∃ l ∈ (t.grove g).lines, l.part = q.id.part ∧ l.line = line ∧ l.dirty = true
                        ∧ ∀ j, j < 64 → l.data.extractLsb' (8 * j) 8 =
                            if va % 64 ≤ j ∧ j < va % 64 + n then q.data.getD (j - va % 64) 0
                            else (w.readSlice g q.id.part (line * 64) (key - va % 64) 64).1.getD j 0)
                      ∧ (∀ b, b < 2 ^ 28 → ¬ p b → (∀ j, j < n → b ≠ u.physKey (key + j)) → t.mem.read b = s.mem.read b)
                      ∧ (cached → (∀ h, ∀ l ∈ (w.grove h).lines, l.dirty = false) → ∀ b, ¬ p b → t.mem.read b = w.mem.read b)
                (x.filter.contains blk = true → Answers i s (fun t =>
                  t = { u with mem := t.mem, poison := t.poison, tlb := t.tlb, groves := t.groves, stores := rest }
                    ∧ stored t (fun _ => False)))
                ∧ (x.filter.contains blk = false → lc < numCores →
                    ((s.slot lc lrow slot).getLsbD 0 = true → Stalls i s)
                    ∧ ((s.slot lc lrow slot).getLsbD 0 = false → Answers i s (fun t =>
                        t = { u with
                          mem := t.mem
                          poison := t.poison
                          tlb := t.tlb
                          groves := t.groves
                          cores := t.cores
                          stores := rest }
                        ∧ stored t (InSlot lc lrow slot 8) ∧ t.slot lc lrow slot = word (blk * 2 ^ 16 + 1)
                        ∧ (∀ d, d ≠ lc → t.core d = s.core d)
                        ∧ t.core lc = { x with
                            filter := (if x.filter.length < 64 then x.filter else x.filter.drop 1) ++ [blk]
                            dlogPos := (x.dlogPos + 1) % 512 }))))))
      ∧ (s.classOf q = .remote → q.sent = false → Answers i s (fun t =>
          t = { s with
            stores := s.stores.set k { q with sent := true }
            msgs := s.msgs.takeWhile (fun m => !m.follows q) ++ [{
              mkind := 1, cls := if vaRegion va = 2 ∧ c = 0x1F0 then 0 else 1, chan := 0, via := 0, id := q.id, addr := va,
              aux := 0, data := q.data, count := none, ackreq := false, acktag := 0, remote := false, inCore := false, sys := false
              seq := q.seq }] ++ s.msgs.dropWhile (fun m => !m.follows q) }))

/-! ### Clasps, tags, guards, core registers and barriers -/

/-- R169, R171: clarm writes the arming fields of `cl` and evaluates the clasp at once; where it fires, EXPECT arrivals are consumed,
ARMED and TIMED cleared and GEN toggled, and a fire that consumes a system-scope arrival acquires at system scope (R80, R360). A timed
clasp holds one wait-table entry, and stalls while the table is full. -/
def Obligations.ClaspArm : Prop :=
  ∀ (s : State) (o : Operands),
    let c := s.curCore
    let r := s.curRow
    let cl := s.reg 1
    let timed := o.a != 0
    let expect := o.imm22.toNat % 2 ^ 16
    let dl := if timed then bitsAt (s.reg o.ra) 0 29 else bitsAt cl 35 29
    let mine (e : WaitEntry) : Bool := e.row == r && e.on == .timedClasp
    let has := (s.core c).waits.any mine
    let entry : WaitEntry := { row := r, on := .timedClasp, met := false }
    let base := if timed then (if has then s else s.setCore c { s.core c with waits := (s.core c).waits ++ [entry] })
      else s.setCore c { s.core c with waits := (s.core c).waits.filter (fun e => !mine e) }
    let fires := expect ≤ bitsAt cl 0 16 ∧ (timed = true → deadlinePassed s.time dl = true)
    let fields (v : Word) (count : Nat) (armed tm gen : Bool) : Prop :=
      bitsAt v 0 16 = count ∧ bitsAt v 16 16 = expect ∧ bitAt v 32 = armed ∧ bitAt v 33 = tm ∧ bitAt v 34 = gen ∧ bitsAt v 35 29 = dl
    (timed = true → has = false → 64 ≤ (s.core c).waits.length → Stalls (.clarm o) s)
      ∧ ((timed = true → has = true ∨ (s.core c).waits.length < 64) →
          (¬ fires → ∃ v, fields v (bitsAt cl 0 16) true timed (bitAt cl 34)
              ∧ Answers (.clarm o) s (fun t => WritesRegister base t o 1 v))
          ∧ (fires → s.rowState c r = 2 → Answers (.clarm o) s (fun t =>
              t = { s with mem := t.mem, cores := t.cores, groves := t.groves } ∧ t.pc = s.pc + BitVec.ofNat 32 o.len.units
              ∧ (∀ h, t.grove h = if r ∈ (s.core c).sysClasps ∧ h = c / 4
                  then { s.grove h with lines := afterAcquire (s.grove h).lines } else s.grove h)
              ∧ (∀ k, ¬ InSlot c r 0 4 k → ¬ InSlot c r 1 8 k → t.mem.read k = s.mem.read k)
              ∧ fields (t.reg 1) (bitsAt cl 0 16 - expect) false false (!bitAt cl 34)
              ∧ (∀ d, d ≠ c → t.core d = s.core d)
              ∧ t.core c = { s.core c with
                  waits := (s.core c).waits.filter (fun e => !mine e)
                  clipped := (s.core c).clipped.filter (fun x => x != r)
                  sysClasps := (s.core c).sysClasps.filter (fun x => x != r) })))

/-- R173, R180: tagclr clears the tags of its mask; tagffr takes the lowest tag of its mask that is set, acquiring at system scope where an
acknowledgement has set it (R80, R317, R360), or writes 64; gset writes TRUE or FALSE into its guard by wa, and its clear form PEND. -/
def Obligations.TagsAndGuards : Prop :=
  ∀ (s : State) (o : Operands),
    let c := s.curCore
    let x := s.core c
    let m := s.reg o.ra ||| o.imm
    let slot := o.imm22.toNat % 16
    let guards (i : Instr) (v : Nat) : Prop := ∃ w,
      (∀ k, k < 32 → bitsAt w (2 * k) 2 = if k = slot then v else bitsAt x.guards (2 * k) 2)
        ∧ Answers i s (fun t => OnlyAdvances (s.setCore c { x with guards := w }) t o)
    let tagsBecome (u : State) (v : Word) : State := u.setCore c { x with tags := v, sysTags := x.sysTags &&& v }
    let acquired (k : Nat) : State := if x.sysTags.getLsbD k = false then s
      else s.setGrove (c / 4) { s.grove (c / 4) with lines := afterAcquire (s.grove (c / 4)).lines }
    Answers (.tagclr o) s (fun t => OnlyAdvances (tagsBecome s (x.tags &&& ~~~m)) t o)
      ∧ (x.tags &&& m = 0 → Answers (.tagffr o) s (fun t => WritesRegister s t o o.rd 64))
      ∧ (∀ k, k < 64 → (x.tags &&& m).getLsbD k = true → (∀ j, j < k → (x.tags &&& m).getLsbD j = false) →
          Answers (.tagffr o) s (fun t =>
            WritesRegister (tagsBecome (acquired k) (x.tags &&& ~~~(1#64 <<< k))) t o o.rd (BitVec.ofNat 64 k)))
      ∧ guards (.gset o) (if s.reg o.ra ≠ 0 then 1 else 2)
      ∧ guards (.gsetClr o) 0

/-- R46, R47, R181: kget reads the register that its index names; a reserved index raises ILL, and a user's index from 0x100
on PRIV. R46, R47, R70, R101, R181, R319: kset writes a register that the mode may write with a value in its range, and
nothing else but PC; a value out of range, a read-only register and a reserved index raise ILL, and a supervisor's register in
user mode PRIV. -/
def Obligations.CoreRegisters : Prop :=
  (∀ (s : State) (o : Operands),
    let c := s.curCore
    let x := s.core c
    let k := o.imm22.toNat % 1024
    let user := ctlMode (s.ctl c s.curRow) = false
    let reads (j : Nat) (v : Word) : Prop := k = j → (user → j < 0x100) → Answers (.kget o) s (fun t => WritesRegister s t o o.rd v)
    ((0x010 ≤ k ∧ k < 0x100) ∨ 0x163 ≤ k → Traps (.kget o) s o .ill 0)
      ∧ (user → 0x100 ≤ k → k < 0x163 → Traps (.kget o) s o .priv 0)
      ∧ reads 0x000 (BitVec.ofNat 64 (c + s.fabric.nodeId * 2 ^ 8))
      ∧ reads 0x001 s.time
      ∧ reads 0x002 x.tags
      ∧ reads 0x003 x.guards
      ∧ reads 0x004 x.ctab0
      ∧ reads 0x005 x.ctab1
      ∧ reads 0x006 (BitVec.ofNat 64 (s.cadence c))
      ∧ reads 0x007 (BitVec.ofNat 64 x.latmax)
      ∧ reads 0x008 (BitVec.ofNat 64 x.quantum)
      ∧ reads 0x009 (BitVec.ofNat 64 x.agelim)
      ∧ reads 0x00A (s.power.shed.setWidth 64)
      ∧ (∀ j, j < 4 → reads (0x00B + j) (x.mbx.get 0 j))
      ∧ reads 0x00F (BitVec.ofNat 64 s.curRow)
      ∧ (∀ j, j < 64 → reads (0x100 + j) (x.ctxmap.get 0 j))
      ∧ (∀ j, j < 16 → reads (0x140 + j) (x.rangeA.get 0 j))
      ∧ (∀ j, j < 16 → reads (0x150 + j) (x.rangeB.get 0 j))
      ∧ reads 0x160 x.codebase
      ∧ reads 0x161 (BitVec.ofNat 64 (s.partid c))
      ∧ reads 0x162 (BitVec.ofNat 64 x.dlogbase)) ∧
  (∀ (s : State) (o : Operands),
    let c := s.curCore
    let x := s.core c
    let k := o.imm22.toNat % 1024
    let user := ctlMode (s.ctl c s.curRow) = false
    let v := s.reg o.ra
    let n := v.toNat
    let sup (j : Nat) : Prop := 0x100 ≤ j ∨ (7 ≤ j ∧ j ≤ 9) ∨ (0x00B ≤ j ∧ j ≤ 0x00E)
    let writes (j : Nat) (ok : Prop) (y : CoreSt) : Prop := k = j →
      (user → sup j → Traps (.kset o) s o .priv 0)
        ∧ ((user → ¬ sup j) → ok → Answers (.kset o) s (fun t => OnlyAdvances (s.setCore c y) t o))
        ∧ ((user → ¬ sup j) → ¬ ok → Traps (.kset o) s o .ill 0)
    let only (mask : Word) : Prop := v &&& ~~~mask = 0
    ((0x010 ≤ k ∧ k < 0x100) ∨ 0x163 ≤ k → Traps (.kset o) s o .ill 0)
      ∧ (∀ j ∈ [0, 1, 2, 3, 6, 0x00A, 0x00F], k = j → Traps (.kset o) s o .ill 0)
      ∧ (k = 0x161 → Traps (.kset o) s o (if ctlMode (s.ctl c s.curRow) then .ill else .priv) 0)
      ∧ writes 0x004 True { x with ctab0 := v }
      ∧ writes 0x005 True { x with ctab1 := v }
      ∧ writes 0x007 (1 ≤ n ∧ n ≤ 8) { x with latmax := n }
      ∧ writes 0x008 (1 ≤ n ∧ n ≤ 65535) { x with quantum := n }
      ∧ writes 0x009 (1 ≤ n ∧ n < 2 ^ 32) { x with agelim := n }
      ∧ (∀ j, j < 4 → writes (0x00B + j)
          (only 0x0FFF0FFF#64 ∧ bitsAt v 16 12 ≠ 1 ∧ bitsAt v 0 12 + bitsAt v 16 12 ≤ 4096) { x with mbx := x.mbx.set 0 j v })
      ∧ (∀ j, j < 64 → writes (0x100 + j) (∀ b, b < 64 → (x.ctxmap.get 0 j).getLsbD b = v.getLsbD b
            ∨ s.rowState c (64 * j + b) = 0 ∨ s.rowState c (64 * j + b) = 4
            ∨ ((x.ctxmap.get 0 j).getLsbD b = true ∧ s.rowState c (64 * j + b) = 5))
          { x with
            ctxmap := x.ctxmap.set 0 j v
            pool := x.pool.filter (fun q => q.lent || q.row / 64 != j || v.getLsbD (q.row % 64)) })
      ∧ (∀ j, j < 16 → writes (0x140 + j) (only 0x0FFF0FFF#64 ∧ bitsAt v 0 12 ≤ bitsAt v 16 12) { x with rangeA := x.rangeA.set 0 j v })
      ∧ (∀ j, j < 16 → writes (0x150 + j) (only 0x000FFF0F#64) { x with rangeB := x.rangeB.set 0 j v })
      ∧ writes 0x160 (only 0x01FFFFFFFFFFF000#64) { x with codebase := v }
      ∧ writes 0x162 (only 0xFFF#64) { x with dlogbase := n })

/-- R175 to R177: gbar and gbar.arrive count an arrival; gbar then stays OPEN and stalled while no READY row of a class not shed
could take its latch, else it closes into WAIT. gbar.wait completes where the episode of its entry has released, else it waits
so too. Without room in the wait table they stall. -/
def Obligations.BarrierArrivals : Prop :=
  ∀ (s : State) (o : Operands), RowExists s →
    let c := s.curCore
    let r := s.curRow
    let next : BitVec 32 := s.pc + BitVec.ofNat 32 o.len.units
    let mine (e : WaitEntry) : Bool := e.row == r && e.on.isBarrier
    let room := (s.core c).waits.any mine = true ∨ (s.core c).waits.length < 64
    let ready (u : State) : Bool := !(u.core c).fifo.all (fun e => u.isShed (ctlClass (u.ctl c e.row)))
    let g := ctlGang (s.ctl c r)
    let entry : WaitEntry := { row := r, on := .barrier g (s.gang (s.partid c) g).episode, met := false }
    (room → ∃ u, Arrives s u
        ∧ Answers (.gbarArrive o) s (fun t => OnlyAdvances u t o)
        ∧ (ready u = false → Answers (.gbar o) s (fun t => Turns u t .stalled next []))
        ∧ (ready u = true → Answers (.gbar o) s (fun t => Closes u t (.wait 4 next) s.pc [])))
      ∧ (¬ room → Stalls (.gbar o) s ∧ Stalls (.gbarArrive o) s ∧ Stalls (.gbarWait o) s)
      ∧ (∀ e, (s.core c).waits.find? mine = some e → e.met = true → Answers (.gbarWait o) s (fun t =>
          OnlyAdvances (s.setCore c { s.core c with waits := (s.core c).waits.filter (fun x => !mine x) }) t o))
      ∧ (∀ e, (s.core c).waits.find? mine = some e → e.met = false →
          (ready s = false → Answers (.gbarWait o) s (fun t => Turns s t .stalled next []))
          ∧ (ready s = true → Answers (.gbarWait o) s (fun t => Closes s t (.wait 4 next) s.pc [])))
      ∧ ((s.core c).waits.any mine = false → (s.core c).waits.length < 64 →
          (ready s = false → Answers (.gbarWait o) s (fun t => Turns s t .stalled next [entry]))
          ∧ (ready s = true → Answers (.gbarWait o) s (fun t => Closes s t (.wait 4 next) s.pc [entry])))

/-! ### Messages and the dispatcher -/

/-- R308, R315, R316, R318, R322: send, post and sig that the sender's checks allow leave as one message with their registers, their
count word and the tag of the acknowledgement, and nothing else changes but PC; the count of a sig or a post after a fence from W to E
at system scope is marked so (R359, R360); a header for another device's dispatch window writes the dirty lines of its grove back first
(R301, R360); a refused one traps with nothing sent. Which of two
broken rules a refused one shows is the model's reading (log 24). -/
def Obligations.MessagesIssue : Prop :=
  ∀ (s : State) (o : Operands),
    let off := match o.len with | .w64 => 0 | .w96 => o.imm | .w128 => o.imm
    let ea := s.reg o.rb + off
    let eaP := s.reg o.rb + o.imm
    let n := o.fn.toNat % 8 + 1
    let counts := o.fn.getLsbD 3
    let align := [8, 16, 32, 32, 64, 64, 64, 64].getD (o.fn.toNat % 8) 64
    let window := n == 8 && !counts && off == 0
    let cls (k : Nat) := k % 4
    let h := if vaRegion ea.toNat = 2 ∧ vaUnit ea.toNat = 0x1F0 ∧ s.isLocal ea.toNat = false then s.sysRelease (s.curCore / 4) else s
    let fenced := (s.core s.curCore).fenced.contains s.curRow
    let sends (u : State) (i : Instr) (mkind cl va : Nat) (data : List Byte) (count : Option Word) (ack : Bool) (tag : Nat)
        (sys : Bool) : Prop :=
      Answers i s (fun t => OnlyAdvances { u with seq := u.seq + 1, msgs := u.msgs ++ [{
        mkind := mkind, cls := cl, chan := 0, via := 0, id := s.me, addr := va, aux := 0, data := data, count := count,
        ackreq := ack, acktag := tag, remote := false, inCore := false, sys := sys, seq := u.seq }] } t o)
    let data := s.messageRefusal ea (sendTarget ea.toNat (8 * n) window) align (8 * n) true
    let clasp := if counts then s.messageRefusal (s.reg o.rc) (claspTarget (s.reg o.rc).toNat) 256 1 false else none
    let post := s.messageRefusal eaP (vaRegion eaP.toNat == 2 && vaUnit eaP.toNat < 0x100 && vaOff eaP.toNat < 256) 256 64 false
    let sig := s.messageRefusal ea (claspTarget ea.toNat) 256 1 false
    (data = none → clasp = none → sends h (.send o) 1 (s.messageClass ea.toNat (cls (o.fn.toNat / 32))) ea.toNat
        (bytesOfWords ((upto n).map (fun k => s.reg (o.ra + k))))
        (if counts then some (s.countWord (s.reg o.rc).toNat (o.imm22.toNat % 4096)) else none) (o.fn.getLsbD 4)
        (o.imm22.toNat / 4096 % 64) false)
      ∧ (∀ k, data = some k ∨ (data = none ∧ clasp = some k) → Traps (.send o) s o k 0)
      ∧ (post = none → sends s (.post o) 6 (cls o.fn.toNat) eaP.toNat (bytesOfWords ((upto 8).map (fun k => s.reg (o.ra + k))))
          none false 0 fenced)
      ∧ (∀ k, post = some k → Traps (.post o) s o k 0)
      ∧ (sig = none → sends s (.sig o) 5 (cls o.fn.toNat) ea.toNat [] (some (s.countWord ea.toNat (o.imm22.toNat % 4096))) false 0 fenced)
      ∧ (∀ k, sig = some k → Traps (.sig o) s o k 0)

/-- R290, R292: respub writes an entry of the residency table of its core or grove, with VALID, its rows, its range and the next
version; resdrop clears VALID; resq becomes pending with a word of an entry of a core of its partition. -/
def Obligations.ResidencyTables : Prop :=
  ∀ (s : State) (o : Operands),
    let c := s.curCore
    let e := o.imm22.toNat % 64
    let grove := o.imm22.getLsbD 6
    let base := s.reg o.ra
    let size := s.reg o.rb
    let rows := s.reg o.rc
    let stray := 32 ≤ e ∧ grove = false
    let bad := base.toNat % 4096 ≠ 0 ∨ 2 ^ 57 ≤ base.toNat ∨ size = 0 ∨ 16383 < size.toNat ∨ 2 ^ 24 ≤ rows.toNat
      ∨ (grove = true ∧ rows ≠ 0) ∨ 2 ^ 57 < base.toNat + 4096 * size.toNat
    let entryOf (k : Nat) : ResEntry := if grove then (s.grove (k / 4)).gres.get ⟨0, 0⟩ e else (s.core k).res.get ⟨0, 0⟩ e
    let old := entryOf c
    let puts (i : Instr) (x : ResEntry) : Prop := Answers i s (fun t => OnlyAdvances
      (if grove then s.setGrove (c / 4) { s.grove (c / 4) with gres := (s.grove (c / 4)).gres.set ⟨0, 0⟩ e x }
        else s.setCore c { s.core c with res := (s.core c).res.set ⟨0, 0⟩ e x }) t o)
    (stray ∨ bad → Traps (.respub o) s o .ill 0)
      ∧ (¬ stray → ¬ bad → ∃ x : ResEntry, bitsAt x.w0 0 1 = 1 ∧ bitsAt x.w0 8 12 = bitsAt rows 0 12
          ∧ bitsAt x.w0 20 12 = bitsAt rows 12 12 ∧ bitsAt x.w0 32 32 = (bitsAt old.w0 32 32 + 1) % 2 ^ 32
          ∧ x.w1.toNat = base.toNat / 4096 + size.toNat * 2 ^ 45 ∧ puts (.respub o) x)
      ∧ (stray → Traps (.resdrop o) s o .ill 0 ∧ Traps (.resq o) s o .ill 0)
      ∧ (¬ stray → ∃ x : ResEntry, bitsAt x.w0 0 1 = 0 ∧ bitsAt x.w0 8 24 = bitsAt old.w0 8 24
          ∧ bitsAt x.w0 32 32 = (bitsAt old.w0 32 32 + 1) % 2 ^ 32 ∧ x.w1 = old.w1 ∧ puts (.resdrop o) x)
      ∧ (256 ≤ base.toNat → Traps (.resq o) s o .ill 0)
      ∧ (¬ stray → base.toNat < 256 → s.inPart (s.partid c) base.toNat = false → Traps (.resq o) s o .prot 0)
      ∧ (¬ stray → base.toNat < 256 → s.inPart (s.partid c) base.toNat = true → (s.latch? c s.curRow).isSome = true →
          Answers (.resq o) s (fun t => BecomesPending s t o (.value o.rd
            (if o.imm22.getLsbD 7 then (entryOf base.toNat).w1 else (entryOf base.toNat).w0)) false))

/-- R294, R295, R297: rowpool adds IDLE context rows to the pool of a core and writes DONE with the numbers of free and of pool rows;
launch queues the 64-byte header at its address for its partition and stays pending, or stalls while the queue is full. -/
def Obligations.LaunchAndPools : Prop :=
  ∀ (s : State) (o : Operands),
    let a := s.reg o.ra
    let b := s.reg o.rb
    let first := bitsAt b 0 12
    let count := bitsAt b 12 9
    let k := a.toNat
    let x := s.core k
    let inRange (r : Nat) : Bool := decide (first ≤ r) && decide (r < first + count)
    let bad := 256 ≤ k ∨ bitsAt b 21 11 ≠ 0 ∨ bitsAt b 33 31 ≠ 0 ∨ count = 0 ∨ 256 < count
    let free (y : CoreSt) : Nat := (y.pool.filter (fun q => !q.lent)).length
    let answer (status : Nat) (y : CoreSt) : Word := BitVec.ofNat 64 (status + free y * 2 ^ 32 + y.pool.length * 2 ^ 48)
    let mine := s.inPart (s.partid s.curCore) k = true ∧ first + count ≤ 4096
    let fit := ∀ r, inRange r = true → s.isContext k r = true ∧ s.rowState k r = 0
    let fresh : List Nat := ((upto count).map (fun j => first + j)).filter (fun r => !x.pool.any (fun q => q.row == r))
    let grown : CoreSt := { x with pool := x.pool ++ fresh.map (fun r => { row := r, lent := false, leaving := false }) }
    let shrunk : CoreSt := { x with
      pool := (x.pool.filter (fun q => q.lent || !inRange q.row)).map (fun q => if inRange q.row then { q with leaving := true } else q) }
    let ea := s.reg o.ra + o.imm
    let p := s.partid s.curCore
    let key := s.curCore * 2 ^ 20 + ea.toNat
    let header : Hdr := { words := wordsOf (s.shownBytes s.curCore ea.toNat 64), id := s.me, path := .launch s.curCore s.curRow }
    (bad → Traps (.rowpool o) s o .ill 0)
      ∧ (¬ bad → ¬ mine → Answers (.rowpool o) s (fun t => WritesRegister s t o o.rd (answer 3 x)))
      ∧ (¬ bad → mine → b.getLsbD 32 = true → Answers (.rowpool o) s (fun t =>
          WritesRegister (s.setCore k shrunk) t o o.rd (answer 0 shrunk)))
      ∧ (¬ bad → mine → b.getLsbD 32 = false → ¬ fit → Answers (.rowpool o) s (fun t => WritesRegister s t o o.rd (answer 2 x)))
      ∧ (¬ bad → mine → b.getLsbD 32 = false → fit → 256 < grown.pool.length →
          Answers (.rowpool o) s (fun t => WritesRegister s t o o.rd (answer 1 x)))
      ∧ (¬ bad → mine → b.getLsbD 32 = false → fit → grown.pool.length ≤ 256 →
          Answers (.rowpool o) s (fun t => WritesRegister (s.setCore k grown) t o o.rd (answer 0 grown)))
      ∧ (ea.toNat % 64 ≠ 0 → Traps (.launch o) s o .align 0)
      ∧ (ea.toNat % 64 = 0 → ∀ cause, s.rowRefusal s.me ea false = some cause → Traps (.launch o) s o cause 0)
      ∧ (ea.toNat % 64 = 0 → s.rowRefusal s.me ea false = none →
          (s.poisoned key 64 = true → Traps (.launch o) s o .memerr 0)
          ∧ (s.poisoned key 64 = false → 64 ≤ (s.part p).hdrs.length → Stalls (.launch o) s)
          ∧ (s.poisoned key 64 = false → (s.part p).hdrs.length < 64 → (s.latch? s.curCore s.curRow).isSome = true →
              Answers (.launch o) s (fun t =>
                BecomesPending (s.setPart p { s.part p with hdrs := (s.part p).hdrs ++ [header] }) t o (.launch o.rd none) false)))

/-! ### The row ALU -/

/-- R189, R192: a row ALU form whose operand rows its row may use becomes pending with its registers as they stand; one that names a
row it may not read or write, or a context row, raises PROT. -/
def Obligations.RowAluIssue : Prop :=
  ∀ (s : State) (o : Operands), (s.latch? s.curCore s.curRow).isSome = true →
    ∀ i ∈ rowAluForms o,
      let barred (r : Nat) (write : Bool) : Prop := s.rowDenied s.me s.curCore r write = true ∨ s.isContext s.curCore r = true
      let stops := (∃ x ∈ (usesOf i s).rrows, barred x.1 false) ∨ (∃ x ∈ (usesOf i s).wrows, barred x.1 true)
      (stops → Traps i s o .prot 0)
        ∧ (¬ stops → Answers i s (fun t => BecomesPending s t o
            (.rowAlu i (s.reg o.rd) (s.reg o.ra) (s.reg o.rb) (s.reg o.rc) []) false))

/-- R188, R192 to R195, R202 to R205: an element-wise row ALU form writes lanes 0 to L − 1 of row D from those of its source
rows; the other lanes of D, every other row and all other memory are unchanged. R66, R67, R196 to R199, R205: reductions put
their root into bytes 3 to 0 of row D and keep the rest; rscan writes the prefixes; rcvt converts into or from one part of a row, rqnt
in blocks of 32 lanes with their scale bytes, and rdqnt back; rpack and runpk convert between one row and two; rget writes a register,
and rset one lane. Held back by an earlier access of the row to the same rows (R191, R357, R363), one stays pending. That an integer rdot
keeps its exact sum whole up to the one narrowing (log 69), and that rrcp of 2^-127 does not overflow (log 80), are the model's choices. -/
def Obligations.RowAluResults : Prop :=
  (∀ (s : State) (c r k : Nat) (p : Pending) (o : Operands) (vd va vb vc : Word), (s.pendingOf c r)[k]? = some p →
    s.aluHeld c r p.seq = false → (∀ x ∈ p.rrows, s.poisoned (c * 2 ^ 20 + x * 256) 256 = false) →
    let ty := o.fn.toNat % 16
    let rm := o.fn.toNat / 32
    let ovf := o.fn.getLsbD 4
    let n := [64, 128, 256, 256, 512, 256, 128].getD ty 64
    let w := 2048 / n
    let L := if o.imm22 = 0 then n else o.imm22.toNat
    let row (j : Nat) (v : Word) : Nat := (v.toNat % 4096 + (match o.len with | .w96 => o.ext.toNat / 2 ^ (8 * j) % 256 | _ => 0)) % 4096
    let code (j : Nat) (v : Word) (e : Nat) : Nat := (s.rowBits c (row j v)).toNat / 2 ^ (w * e) % 2 ^ w
    let A := code 1 va
    let B := code 2 vb
    let C := code 3 vc
    let val := decodeTy ty
    let scalar (v : Word) : Val := if ty < 5 then Fmt.fp32.decode (v.toNat % 2 ^ 32) else Val.ofInt v.toInt
    let D := row 0 vd
    let lanes (i : Instr) (f : Nat → Nat) : Prop := L ≤ n → p.op = .rowAlu i vd va vb vc [] →
      Answers (.longLatencyCompletion c r k) s (fun t =>
        t = { s with mem := t.mem, poison := t.poison, cores := t.cores }
          ∧ t.pendingOf c r = (s.pendingOf c r).eraseIdx k
          ∧ (∀ e, e < n → (t.rowBits c D).toNat / 2 ^ (w * e) % 2 ^ w = if e < L then f e % 2 ^ w else code 0 vd e)
          ∧ ∀ b, ¬ (c * 2 ^ 20 + D * 256 ≤ b ∧ b < c * 2 ^ 20 + D * 256 + 256) → t.mem.read b = s.mem.read b)
    let rounds (i : Instr) (f : Nat → Val) : Prop := lanes i (fun e => finTy ty rm ovf (f e))
    rounds (.radd o) (fun e => Val.add rm (val (A e)) (val (B e)))
      ∧ rounds (.rsub o) (fun e => Val.add rm (val (A e)) (val (B e)).neg)
      ∧ rounds (.rmul o) (fun e => (val (A e)).mul (val (B e)))
      ∧ rounds (.rfma o) (fun e => Val.add rm ((val (A e)).mul (val (B e))) (val (C e)))
      ∧ rounds (.rmax o) (fun e => (val (A e)).maxV (val (B e)))
      ∧ rounds (.rmin o) (fun e => (val (A e)).minV (val (B e)))
      ∧ rounds (.rabs o) (fun e => (val (A e)).abs)
      ∧ rounds (.rneg o) (fun e => (val (A e)).neg)
      ∧ rounds (.rscal o) (fun e => Val.add rm ((val (A e)).mul (scalar vb)) (scalar vc))
      ∧ lanes (.rcmpCc o) (fun e => if valCond rm (val (A e)) (val (B e)) then 2 ^ w - 1 else 0)
      ∧ lanes (.rsel o) (fun e => if C e ≠ 0 then A e else B e)
      ∧ lanes (.rexp2 o) (fun e => exp2Rnd ovf (val (A e)))
      ∧ lanes (.rlog2 o) (fun e => log2Rnd ovf (val (A e)))
      ∧ lanes (.rrcp o) (fun e => rcpRnd ovf (val (A e)))
      ∧ lanes (.rrsqrt o) (fun e => rsqrtRnd ovf (val (A e)))
      ∧ lanes (.rperm o) (fun e => A (B e % n))
      ∧ lanes (.rbcast o) (fun _ => A (vb.toNat % n))
      ∧ lanes (.rmov o) A
      ∧ lanes (.rclr o) (fun _ => 0)
      ∧ rounds (.riota o) (fun e => Val.ofInt (va.toInt + Int.ofNat e))
      ∧ lanes (.rbitAnd o) (fun e => A e &&& B e)
      ∧ lanes (.rbitOr o) (fun e => A e ||| B e)
      ∧ lanes (.rbitXor o) (fun e => A e ^^^ B e)
      ∧ lanes (.rbitAndn o) (fun e => (BitVec.ofNat w (A e) &&& ~~~BitVec.ofNat w (B e)).toNat)
      ∧ lanes (.rbitNot o) (fun e => (~~~BitVec.ofNat w (A e)).toNat)
      ∧ lanes (.rshShl o) (fun e => (BitVec.ofNat w (A e) <<< (vb.toNat % w)).toNat)
      ∧ lanes (.rshShr o) (fun e => A e >>> (vb.toNat % w))
      ∧ lanes (.rshSar o) (fun e => ((BitVec.ofNat w (A e)).sshiftRight (vb.toNat % w)).toNat)
      ∧ lanes (.rshRol o) (fun e => ((BitVec.ofNat w (A e)).rotateLeft (vb.toNat % w)).toNat)) ∧
  (∀ (s : State) (c r k : Nat) (p : Pending) (o : Operands) (vd va vb vc : Word), (s.pendingOf c r)[k]? = some p →
    s.aluHeld c r p.seq = false → (∀ x ∈ p.rrows, s.poisoned (c * 2 ^ 20 + x * 256) 256 = false) →
    let ty := o.fn.toNat % 16
    let src := o.c.toNat % 16
    let rm := o.fn.toNat / 32
    let ovf := o.fn.getLsbD 4
    let lanes (t : Nat) := [64, 128, 256, 256, 512, 256, 128].getD t 64
    let n := lanes ty
    let w := 2048 / n
    let L := if o.imm22 = 0 then n else o.imm22.toNat
    let row (j : Nat) (v : Word) : Nat := (v.toNat % 4096 + (match o.len with | .w96 => o.ext.toNat / 2 ^ (8 * j) % 256 | _ => 0)) % 4096
    let code (q e : Nat) (u : State) (x : Nat) : Nat := (u.rowBits c x).toNat / 2 ^ (q * e) % 2 ^ q
    let val (j : Nat) (v : Word) (e : Nat) : Val := decodeTy ty (code w e s (row j v))
    let from_ (j : Nat) (v : Word) (e : Nat) : Nat := finTy ty rm ovf (decodeTy src (code (2048 / lanes src) e s (row j v)))
    let D := row 0 vd
    let comb : Combine := if ty < 5 then .sum rm ovf else .exact
    let ends (i : Instr) (P : State → Prop) (rows : List Nat) : Prop := p.op = .rowAlu i vd va vb vc [] →
      Answers (.longLatencyCompletion c r k) s (fun t =>
        t = { s with mem := t.mem, poison := t.poison, cores := t.cores }
          ∧ t.pendingOf c r = (s.pendingOf c r).eraseIdx k ∧ P t
          ∧ ∀ b, (∀ x ∈ rows, ¬ (c * 2 ^ 20 + x * 256 ≤ b ∧ b < c * 2 ^ 20 + x * 256 + 256)) → t.mem.read b = s.mem.read b)
    let done (i : Instr) (P : State → Prop) (rows : List Nat) : Prop := L ≤ n → ends i P rows
    let few := Nat.min n (lanes src)
    let parts := Nat.max n (lanes src) / few
    let M := if o.imm22 = 0 then few else o.imm22.toNat
    let wide (e : Nat) : Val := decodeTy src (code (2048 / lanes src) e s (row 1 va))
    let cpart := if lanes src < n then vb.toNat % parts * few else 0
    let cfrom := if n < lanes src then vb.toNat % parts * few else 0
    let S := row 2 vb
    let base := bitsAt vb 16 3 % parts * few
    let block (b : Nat) (t : State) : Prop :=
      let v (j : Nat) : Val := wide (32 * b + j)
      let scale := code 8 ((base + 32 * b) / 32) t S
      let puts (f : Nat → Nat) : Prop := ∀ j, j < 32 → code w (base + 32 * b + j) t D = f j % 2 ^ w
      ((∃ j, j < 32 ∧ (v j).special = true) → scale = 255 ∧ puts (fun _ => if ty < 5 then (fmtOf ty).nanOut else 0))
        ∧ ((∀ j, j < 32 → (v j).special = false) → puts (fun j => finTy ty rm ovf ((v j).shift (127 - Int.ofNat scale)))
          ∧ ((∀ j, j < 32 → (v j).log2 = none) → scale = 127)
          ∧ ∀ x, (∃ j, j < 32 ∧ (v j).log2 = some x) → (∀ j y, j < 32 → (v j).log2 = some y → y ≤ x) →
              Int.ofNat scale = min (max (x - emaxOf ty + 127) 0) 254)
    let root (i : Instr) (v : Val) : Prop := done i (fun t =>
      code 32 0 t D = (if ty < 5 then rnd .fp32 rm ovf v else rndInt 32 true rm ovf v) % 2 ^ 32
        ∧ ∀ e, 1 ≤ e → e < 64 → code 32 e t D = code 32 e s D) [D]
    root (.rsum o) (comb.tree 10 ((List.range L).map (val 1 va)))
      ∧ root (.rmaxr o) (Combine.larger.tree 10 ((List.range L).map (val 1 va)))
      ∧ root (.rdot o) (comb.tree 10 ((List.range L).map (fun e => (val 1 va e).mul (val 2 vb e))))
      ∧ done (.rscan o) (fun t => ∀ e, e < n → code w e t D = if e < L
          then finTy ty rm ovf (comb.prefix_ 10 ((List.range (e + 1)).map (val 1 va)) none) % 2 ^ w else code w e s D) [D]
      ∧ (M ≤ few → ends (.rcvt o) (fun t => ∀ e, e < n → code w e t D = if cpart ≤ e ∧ e < cpart + M
          then finTy ty rm ovf (wide (cfrom + (e - cpart))) % 2 ^ w else code w e s D) [D])
      ∧ (lanes src ≤ n → M ≤ few → M % 32 = 0 → D ≠ S → ends (.rqnt o) (fun t => (∀ b, 32 * b < M → block b t)
          ∧ (∀ e, e < n → ¬ (base ≤ e ∧ e < base + M) → code w e t D = code w e s D)
          ∧ ∀ j, j < 256 → ¬ (base ≤ 32 * j ∧ 32 * j < base + M) → code 8 j t S = code 8 j s S) [D, S])
      ∧ (M ≤ few → ends (.rdqnt o) (fun t => ∀ e, e < n → code w e t D = if e < M
          then finTy ty rm ovf ((wide (base + e)).mul (e8m0 (code 8 ((base + e) / 32) s S))) % 2 ^ w else code w e s D) [D])
      ∧ (n = 2 * lanes src → done (.rpack o) (fun t => ∀ e, e < lanes src →
          code w e t D = from_ 1 va e % 2 ^ w ∧ code w (lanes src + e) t D = from_ 2 vb e % 2 ^ w) [D])
      ∧ (lanes src = 2 * n → done (.runpk o) (fun t => ∀ e, e < n →
          code w e t D = from_ 1 va e % 2 ^ w ∧ code w e t ((D + 1) % 4096) = from_ 1 va (n + e) % 2 ^ w) [D, (D + 1) % 4096])
      ∧ done (.rset o) (fun t => ∀ e, e < n →
          code w e t D = if e = vb.toNat % n then va.toNat % 2 ^ w else code w e s D) [D]
      ∧ (p.op = .rowAlu (.rget o) vd va vb vc [] → Answers (.longLatencyCompletion c r k) s (fun t =>
          Retires s t c r k o.rd (if ty < 5 then BitVec.ofNat 64 (code w (vb.toNat % n) s (row 1 va))
            else (BitVec.ofNat w (code w (vb.toNat % n) s (row 1 va))).signExtend 64) false)))

/-! ### Gang-stop, leases, translations and power, by a supervisor row -/

/-- R369 to R371, R373: gstop of another gang sets SUP, stalls until the gang that it named at its issue is at rest, and then writes the
number of rows that it changed: those READY or in WAIT at once, and those OPEN as they close into STOPPED; gresume clears SUP and writes 2 where another mark keeps the gang stopped. A row's own gang gives SELF, and a
gang number that does not exist raises ILL. gstop.p and gresume.p do the same for every other gang of the partition. R369,
R364: a gstop that completes leaves no dirty line of REGIONs 01 and 11 in the slices of the partition, and no clean one in its own.
R371, R107: a mark stops its gang: SUP is set, and a gang that no mark stopped has its READY and WAIT rows STOPPED; of its OPEN rows
one that runs is to close as stopped, and one stalled in gbar as a wait; a row of another gang stays as it is. -/
def Obligations.GangStopAndResume : Prop :=
  (∀ (s : State) (o : Operands), RowExists s →
    let c := s.curCore
    let r := s.curRow
    let p := s.partid c
    let g := (s.reg o.ra).toNat
    let own := ctlGang (s.ctl c r)
    let others := (upto 4096).filter (fun k => k != own)
    let waiting := (s.core c).gstops.find? (fun e => e.row == r)
    let settled (u : State) (gs : List Nat) : Prop := ∀ k ∈ gs, u.gangAtRest p k = true
    let found (k : Nat) (st : List Nat) : List (Nat × Nat) :=
      if (s.gang p k).stopped then [] else (s.members p k).filter (fun x => st.contains (s.rowState x.1 x.2))
    let completes (i : Instr) (u : State) (n : Nat) : Prop := Answers i s (fun t =>
      t = { u with mem := t.mem, poison := t.poison, tlb := t.tlb, groves := t.groves, cores := t.cores }
        ∧ (∀ k, k < 2 ^ 28 → ¬ InSlot c r 0 4 k → ¬ (o.rd ≠ 0 ∧ InSlot c r o.rd 8 k) → t.mem.read k = u.mem.read k)
        ∧ t.reg o.rd = (if o.rd = 0 then 0 else BitVec.ofNat 64 (n * 2 ^ 32)) ∧ t.pc = u.pc + BitVec.ofNat 32 o.len.units
        ∧ (∀ d, d ≠ c → t.core d = u.core d)
        ∧ t.core c = { u.core c with gstops := (u.core c).gstops.filter (fun e => e.row != r) }
        ∧ LinesOnly u t ∧ LinesFrom u t (fun _ _ => False)
        ∧ (∀ h, h < 64 → u.owns p h = true → ∀ l ∈ (t.grove h).lines, l.far = true → l.dirty = false)
        ∧ ∀ l ∈ (t.grove (c / 4)).lines, l.far = true → l.dirty = true)
    let stalls (i : Instr) (u : State) (only : Option Nat) (n : Nat) (todo : List (Nat × Nat)) : Prop := Answers i s (fun t =>
      t = { u with cores := t.cores } ∧ (∀ d, d ≠ c → t.core d = u.core d)
        ∧ t.core c = { u.core c with latches := (t.core c).latches, gstops := (u.core c).gstops ++ [{ row := r, rows := n, todo := todo, gang := only }] })
    let set (only : Option Nat) : List Nat := match only with
      | some k => [k]
      | none => others
    let stop (i : Instr) (only : Option Nat) : Prop :=
      let u := (set only).foldl (fun (t : State) k => t.setMark p k .sup) s
      let n := ((set only).map (fun k => (found k [1, 3]).length)).sum
      waiting = none → (settled u (set only) → completes i u n)
        ∧ (¬ settled u (set only) → stalls i u only n ((set only).flatMap (fun k => found k [2])))
    let waits (i : Instr) : Prop := ∀ e, waiting = some e →
      (settled s (set e.gang) → completes i s e.rows) ∧ (¬ settled s (set e.gang) → Stalls i s)
    let resume (i : Instr) (gs : List Nat) : Prop :=
      let u := gs.foldl (fun (t : State) k => t.clearMark p k .sup) (s.sysRelease (c / 4))
      let n := (gs.map (fun k => s.unmarkRows p k .sup)).sum
      Answers i s (fun t => WritesRegister u t o o.rd
        (BitVec.ofNat 64 ((if gs.any (fun k => (u.gang p k).stopped) then 2 else 0) + n * 2 ^ 32)))
    (4096 ≤ g → (waiting = none → Traps (.gstop o) s o .ill 0) ∧ Traps (.gresume o) s o .ill 0)
      ∧ (g < 4096 → g = own → (waiting = none → Answers (.gstop o) s (fun t => WritesRegister s t o o.rd 1))
          ∧ Answers (.gresume o) s (fun t => WritesRegister s t o o.rd 1))
      ∧ (g < 4096 → g ≠ own → stop (.gstop o) (some g) ∧ resume (.gresume o) [g])
      ∧ stop (.gstopP o) none ∧ resume (.gresumeP o) others ∧ waits (.gstop o) ∧ waits (.gstopP o)) ∧
  (∀ (s : State) (p g : Nat),
    let u := s.setMark p g .sup
    (u.gang p g).sup = true
      ∧ ((s.gang p g).stopped = true → u = s.setGang p g { s.gang p g with sup := true })
      ∧ ((s.gang p g).stopped = false →
          u = { s with mem := u.mem, cores := u.cores, gangs := u.gangs, stackSts := u.stackSts }
          ∧ (∀ x ∈ s.members p g,
            u.rowState x.1 x.2 = (if s.rowState x.1 x.2 = 1 ∨ s.rowState x.1 x.2 = 3 then 7 else s.rowState x.1 x.2)
              ∧ u.rowPc x.1 x.2 = s.rowPc x.1 x.2 ∧ ctlWait (u.ctl x.1 x.2) = ctlWait (s.ctl x.1 x.2)
              ∧ ∀ l, s.latch? x.1 x.2 = some l →
                  (s.rowState x.1 x.2 = 2 → l.intent = .run → u.latch? x.1 x.2 = some { l with intent := .close .stopped })
                  ∧ (s.rowState x.1 x.2 = 2 → l.intent = .stalled →
                      u.latch? x.1 x.2 = some { l with intent := .close (.wait 4 (s.rowPc x.1 x.2)) })
                  ∧ (s.rowState x.1 x.2 ≠ 2 ∨ (l.intent ≠ .run ∧ l.intent ≠ .stalled) → u.latch? x.1 x.2 = some l))
          ∧ (∀ d q, d < numCores → q < 4096 → (d, q) ∉ s.members p g → u.ctl d q = s.ctl d q ∧ u.latch? d q = s.latch? d q
              ∧ ∀ e ∈ (s.core d).fifo, e.row = q → e ∈ (u.core d).fifo)
          ∧ ∀ k, (∀ x ∈ s.members p g, ¬ InSlot x.1 x.2 0 8 k) → u.mem.read k = s.mem.read k))

/-- R89 to R91: lease writes BADREC, or BUSY while a revocation of the gang is in progress; a record that takes nothing away is the
gang's lease at once, and one that takes a right away grants both until the revocation ends and answers PENDING. A record of another
device is read over the fabric, and the row stalls until it has come (R72). A record outside REGION 00 as BADREC, and the fault of one
that cannot be read, are the model's reading (log 27). -/
def Obligations.LeaseInstruction : Prop :=
  ∀ (s : State) (o : Operands),
    let a := s.reg o.ra
    let b := s.reg o.rb
    let g := bitsAt a 0 12
    let p := s.partid s.curCore
    let covered (rs : List LRange) (wr : Bool) (k : Nat) : Prop := ∃ l ∈ rs, l.base ≤ k ∧ k < l.base + l.bytes ∧ (wr = true → l.wr = true)
    let ok := a.toNat < 4096 ∧ b.toNat % 8 = 0
    let puts (u : State) (v : Word) : Prop := Answers (.lease o) s (fun t => WritesRegister u t o o.rd v)
    (¬ ok → puts s 1)
      ∧ (ok → (s.gang p g).revoking.isSome = true → puts s 3)
      ∧ (ok → (s.gang p g).revoking.isSome = false → 2 ^ 57 ≤ b.toNat ∨ s.unreachable b.toNat = true → Traps (.lease o) s o .xlate 0)
      ∧ (ok → (s.gang p g).revoking.isSome = false → b.toNat < 2 ^ 57 → s.unreachable b.toNat = false → vaRegion b.toNat ≠ 0 → puts s 1)
      ∧ (ok → (s.gang p g).revoking.isSome = false → b.toNat < 2 ^ 57 → s.unreachable b.toNat = false → vaRegion b.toNat = 0 →
          (∀ u, s.readRecord b.toNat = (.hold, u) → Answers (.lease o) s (fun t => t = u))
          ∧ (∀ k u, s.readRecord b.toNat = (.fault k, u) → Answers (.lease o) s (fun t => t = u.trap o k 0))
          ∧ ∀ bs u, s.readRecord b.toNat = (.ok bs, u) →
            (leaseBad (wordsOf bs) = true → puts u 1)
            ∧ (leaseBad (wordsOf bs) = false → ∀ k w, u.setLeasePtr p g b = (.fault k, w) → Answers (.lease o) s (fun t => t = w.trap o k 0))
            ∧ (leaseBad (wordsOf bs) = false → ∀ w, u.setLeasePtr p g b = (.ok (), w) →
                let new := leaseRanges (wordsOf bs)
                let old := (w.gang p g).lease.getD []
                let keeps := ∀ wr k, covered old wr k → covered new wr k
                (keeps → puts (w.setGang p g { w.gang p g with lease := some new }) 0)
                ∧ (¬ keeps → Answers (.lease o) s (fun t =>
                    (t.gang p g).lease = some (new ++ old) ∧ ((t.gang p g).revoking.map (fun v => v.after)) = some new
                      ∧ t.reg o.rd = (if o.rd = 0 then 0 else 2) ∧ t.pc = w.pc + BitVec.ofNat 32 o.len.units
                      ∧ ∀ k, ¬ InSlot s.curCore s.curRow 0 4 k → ¬ (o.rd ≠ 0 ∧ InSlot s.curCore s.curRow o.rd 8 k) →
                          t.mem.read k = w.mem.read k))))

/-- R78, R92, R119: tlbinv leaves no older translation, slice line or code block of the partition in its range (all of them when wb is
0), advances the generation, and writes it; a translation in the range that it leaves was filled under the new generation, by a line that
it wrote back; a start address with a bit of [63:57] set raises XLATE (R72; that it does here is the model's reading, log 76). R347: preq
sets the core's request, recomputes its grove's operating point and writes GOP; that the point is the larger of the old one and the new
one while it changes, and that GOP shows it so, is the model's reading (log 20). R353: mcall writes an energy
counter for services 0 and 1, alerts the host for service 2, and answers all ones otherwise. R74 to R78, R85: an address outside
REGION 10 translates by the entry that its translation point holds, else by its region's root through three levels, where a valid leaf
with the frame of an aligned page gives the place of the byte, the walk sets A and the point keeps the entry under the generation; a
write needs W; an entry that is not so raises XLATE, and one in an atom with an error MEMERR. Tables that R75 forbids are followed
as they stand (log 52), by the places of log 14. -/
def Obligations.TranslationsAndPower : Prop :=
  (∀ (s : State) (p va : Nat) (w : Bool), vaRegion va ≠ 2 →
    let rg := vaRegion va
    let point := if rg = 0 then va / 256 % 8 else if rg = 1 then 8 + va / 4096 % 4 else 12
    let held (e : TlbEntry) : Bool := e.point == point && e.part == p && e.region == rg && e.page == va % 2 ^ 45 / e.size
    let place (f o : Nat) : Option Nat :=
      if rg = 0 then
        if f * 8192 + o / 2048 * 256 + o % 256 < 2 ^ 36 then some (dramKey (o / 256 % 8) (f * 8192 + o / 2048 * 256 + o % 256)) else none
      else if rg = 1 then
        let port := s.port (o / 4096 % 4)
        let l := f * 16384 + o / 16384 * 4096 + o % 4096
        if port.trained = true ∧ l < port.bytes ∧ l < 2 ^ 41 then some (cxlKey (o / 4096 % 4) l) else none
      else some (hostKey (f * 65536 + o))
    let x := s.part p
    let root := if rg = 0 then x.root00 else if rg = 1 then x.root01 else x.root11
    let slot (e : Word) (i : Nat) : Nat := dramKey (bitsAt e 45 3) (bitsAt e 12 33 * 4096 + 8 * i)
    let entry (k : Nat) : Word := word (natOfBytes (s.homeRead k 8))
    let k1 := slot root (va / 2 ^ 33 % 4096)
    let k2 := slot (entry k1) (va / 2 ^ 21 % 4096)
    let k3 := slot (entry k2) (va / 2 ^ 16 % 32)
    let good (k : Nat) : Prop := s.poisoned k 8 = false
    let valid (k : Nat) : Prop := bitAt (entry k) 0 = true ∧ bitsAt (entry k) 6 6 = 0 ∧ bitsAt (entry k) 48 16 = 0
    let leaf (k : Nat) : Prop := bitAt (entry k) 2 = true
    let table (k : Nat) : Prop := good k ∧ valid k ∧ ¬ leaf k
    let fails (k : Cause) : Prop := s.translate p va w = (none, s) ∧ s.translateCause p va = k
    let maps (k size : Nat) : Prop := ∃ t,
      s.translate p va w = (if w = true ∧ bitAt (entry k) 1 = false then none else place (bitsAt (entry k) 16 32) (va % size), t)
        ∧ t = { s with mem := t.mem, poison := t.poison, groves := t.groves, tlb := s.tlb ++ [{
            point := point, part := p, region := rg, page := va % 2 ^ 45 / size, size := size, frame := bitsAt (entry k) 16 32,
            w := bitAt (entry k) 1, gen := x.gen }] }
        ∧ word (natOfBytes (t.homeRead k 8)) = entry k ||| 8#64
        ∧ (bitAt (entry k) 3 = true → t = { s with tlb := t.tlb })
        ∧ ((∀ h, ∀ l ∈ (s.grove h).lines, l.dirty = false) →
            ∀ b, (∀ j, j < 8 → b ≠ s.physKey (k + j)) → t.mem.read b = s.mem.read b)
    (∀ e, s.tlb.find? held = some e → s.translate p va w = (if w = true ∧ e.w = false then none else place e.frame (va % e.size), s))
      ∧ ((∀ e ∈ s.tlb, held e = false) →
          (¬ good k1 → fails .memerr)
          ∧ (good k1 → ¬ valid k1 ∨ leaf k1 → fails .xlate)
          ∧ (table k1 → ¬ good k2 → fails .memerr)
          ∧ (table k1 → good k2 → ¬ valid k2 ∨ (leaf k2 ∧ bitsAt (entry k2) 12 9 ≠ 0) → fails .xlate)
          ∧ (table k1 → good k2 → valid k2 → leaf k2 → bitsAt (entry k2) 12 9 = 0 → maps k2 (2 ^ 21))
          ∧ (table k1 → table k2 → ¬ good k3 → fails .memerr)
          ∧ (table k1 → table k2 → good k3 → ¬ valid k3 ∨ ¬ leaf k3 ∨ bitsAt (entry k3) 12 4 ≠ 0 → fails .xlate)
          ∧ (table k1 → table k2 → good k3 → valid k3 → leaf k3 → bitsAt (entry k3) 12 4 = 0 → maps k3 (2 ^ 16)))) ∧
  (∀ (s : State) (o : Operands),
    let c := s.curCore
    let p := s.partid c
    let a := s.reg o.ra
    let b := s.reg o.rb
    let lo := bitsAt a 12 35 * 4096
    let hits (region off n : Nat) : Prop := b = 0 ∨ (region * 2 ^ 45 + off < lo + b.toNat * 4096 ∧ lo < region * 2 ^ 45 + off + n)
    let gen := ((s.part p).gen + 1) % 65536
    let arg := a + (match o.len with | .w64 => 0 | .w96 => o.imm | .w128 => o.imm)
    let service := o.imm22.toNat % 256
    (2 ^ 57 ≤ a.toNat → Traps (.tlbinv o) s o .xlate 0)
      ∧ (a.toNat < 2 ^ 57 → Answers (.tlbinv o) s (fun t =>
        t.part p = { s.part p with gen := gen } ∧ (∀ q, q ≠ p → t.part q = s.part q)
          ∧ t.reg o.rd = (if o.rd = 0 then 0 else BitVec.ofNat 64 gen) ∧ t.pc = s.pc + BitVec.ofNat 32 o.len.units
          ∧ (∀ e ∈ t.tlb, e.part = p → hits e.region (e.page * e.size) e.size → e.gen = gen)
          ∧ LinesFrom s t (fun _ _ => False)
          ∧ (∀ h, t.grove h = { s.grove h with lines := (t.grove h).lines, icache := (t.grove h).icache })
          ∧ (∀ k, k < 2 ^ 28 → ¬ InSlot c s.curRow 0 4 k → ¬ (o.rd ≠ 0 ∧ InSlot c s.curRow o.rd 8 k) → t.mem.read k = s.mem.read k)
          ∧ (∀ h, h < 64 → s.owns p h = true →
              (∀ l ∈ (t.grove h).lines, l.part = p → ¬ hits (vaRegion (l.line * 64)) (l.line * 64 % 2 ^ 45) 64)
              ∧ (∀ k ∈ (t.grove h).icache, k.part = p → ¬ hits (vaRegion k.va) (k.va % 2 ^ 45) 32))
          ∧ t = { s with mem := t.mem, poison := t.poison, tlb := t.tlb, groves := t.groves, parts := t.parts }))
      ∧ (8 ≤ a.toNat → Traps (.preq o) s o .ill 0)
      ∧ (a.toNat < 8 → Answers (.preq o) s (fun t => t.core c = { s.core c with point := a.toNat } ∧ (∀ d, d ≠ c → t.core d = s.core d)
          ∧ t.reg o.rd = (if o.rd = 0 then 0 else t.gop (c / 4)) ∧ t.pc = s.pc + BitVec.ofNat 32 o.len.units
          ∧ (∀ h, h ≠ c / 4 → t.grove h = s.grove h)
          ∧ t.grove (c / 4) = { s.grove (c / 4) with
              point := max (s.grove (c / 4)).point (t.targetPoint (c / 4))
              changing := (s.grove (c / 4)).point != t.targetPoint (c / 4) }
          ∧ (∀ k, ¬ InSlot c s.curRow 0 4 k → ¬ (o.rd ≠ 0 ∧ InSlot c s.curRow o.rd 8 k) → t.mem.read k = s.mem.read k)
          ∧ t = { s with mem := t.mem, cores := t.cores, groves := t.groves }))
      ∧ (service = 0 → Answers (.mcall o) s (fun t => WritesRegister s t o o.rd (s.energy.get 0 64)))
      ∧ (service = 1 → arg.toNat < 64 → Answers (.mcall o) s (fun t => WritesRegister s t o o.rd (s.energy.get 0 arg.toNat)))
      ∧ (service = 1 ∧ 64 ≤ arg.toNat ∨ 3 ≤ service → Answers (.mcall o) s (fun t =>
          WritesRegister s t o o.rd (BitVec.allOnes 64)))
      ∧ (service = 2 → Answers (.mcall o) s (fun t => WritesRegister
          { s with mgmt := { s.mgmt with alerts := s.mgmt.alerts ++ [bitsAt arg 0 16] } } t o o.rd 0)))

/-- R88, R93: dlharvest merges both halves of every dirty log of its partition: it writes the number of valid entries, sets D in the leaf
entry of each block that they name, clears VALID in each and empties the filters; the log agent merges a half that has filled, and no
other. That a block of another device is looked up in this device's own tables is the model's choice (log 85). Nothing else changes, but slice copies of the page tables are recalled (R79). -/
def Obligations.DirtyLogs : Prop :=
  ∀ (s : State),
    let c := s.curCore
    let r := s.curRow
    let p := s.partid c
    let logRow (k j : Nat) : Nat := ((s.core k).dlogbase + j / 32) % 4096
    let entry (u : State) (k j : Nat) : Word := u.slot k (logRow k j) (j % 32)
    let valid (k j : Nat) : Bool := (entry s k j).getLsbD 0
    let count (k : Nat) : Nat := ((List.range 512).filter (fun j => valid k j)).length
    let merges (t : State) (k j : Nat) : Prop := entry t k j = entry s k j &&& ~~~1#64
    let setsD (t : State) (k j : Nat) : Prop := (∀ h, ∀ l ∈ (s.grove h).lines, l.dirty = false) → valid k j = true →
      ∀ l, s.walk (s.partid k) (bitsAt (entry s k j) 16 41 * 2 ^ 16) = some l →
        bitAt (word (natOfBytes (t.homeRead (dramKey l.stack l.addr) 8))) 4 = true
    (∀ o : Operands, Answers (.dlharvest o) s (fun t =>
        t = { s with mem := t.mem, groves := t.groves, cores := t.cores } ∧ LinesOnly s t ∧ LinesFrom s t (fun _ _ => False)
          ∧ ∀ k, t.core k = if k ∈ s.coresOf p then { s.core k with filter := [] } else s.core k))
      ∧ (∀ o : Operands, (∀ k ∈ s.coresOf p, k = c → s.isLogRow c r = false) → r < 4096 → c < numCores →
        Answers (.dlharvest o) s (fun t =>
          t = { s with mem := t.mem, groves := t.groves, cores := t.cores } ∧ LinesOnly s t ∧ LinesFrom s t (fun _ _ => False)
            ∧ t.reg o.rd = (if o.rd = 0 then 0 else BitVec.ofNat 64 (((s.coresOf p).map count).sum))
            ∧ t.pc = s.pc + BitVec.ofNat 32 o.len.units
            ∧ (∀ k, t.core k = if k ∈ s.coresOf p then { s.core k with filter := [] } else s.core k)
            ∧ (∀ k ∈ s.coresOf p, ∀ j, j < 512 → merges t k j ∧ setsD t k j)
            ∧ ∀ b, b < 2 ^ 28 → ¬ InSlot c r 0 4 b → ¬ (o.rd ≠ 0 ∧ InSlot c r o.rd 8 b) →
                (∀ k ∈ s.coresOf p, ∀ j, j < 512 → ¬ InSlot k (logRow k j) (j % 32) 8 b) → t.mem.read b = s.mem.read b))
      ∧ ∀ k half, k < numCores → half < 2 →
          ((∀ j, j < 256 → valid k (256 * half + j) = true) → Answers (.dirtyLogMerge k half) s (fun t =>
            t = { s with mem := t.mem, groves := t.groves } ∧ LinesOnly s t ∧ LinesFrom s t (fun _ _ => False)
              ∧ (∀ j, j < 256 → merges t k (256 * half + j) ∧ setsD t k (256 * half + j))
              ∧ ∀ b, b < 2 ^ 28 → (∀ j, j < 256 → ¬ InSlot k (logRow k (256 * half + j)) (j % 32) 8 b) → t.mem.read b = s.mem.read b))
          ∧ (∀ j, j < 256 → valid k (256 * half + j) = false → Stalls (.dirtyLogMerge k half) s)

/-! ### The scheduler -/

/-- R109 to R112: a core with a free latch opens the READY row of the lowest class, an aged row counting as class 0 and of equals
the one that became READY first, unless its grove sleeps (R349); a row with an error in its atoms ends instead (R85, with the p and NEXT of
log 59); a row at its quantum closes for such a row, but not while it stalls without closing (R108) or before it has taken a pending
ENGINE trap (the model's choice, log 55); cycles age the READY rows whose class is not shed. -/
def Obligations.Scheduling : Prop :=
  ∀ (s : State) (c : Nat), c < numCores →
    let x := s.core c
    let shed (e : FifoEntry) : Bool := s.isShed (ctlClass (s.ctl c e.row))
    let eff (e : FifoEntry) : Nat := if x.agelim ≤ e.age then 0 else ctlClass (s.ctl c e.row)
    let first (e : FifoEntry) : Prop := ∃ pre post, x.fifo = pre ++ e :: post ∧ shed e = false
      ∧ (∀ f ∈ pre, shed f = false → eff e < eff f) ∧ (∀ f ∈ post, shed f = false → eff e ≤ eff f)
    (∀ e, first e → e.row < 4096 → x.latches.length < x.latmax → s.absent c = false → s.asleep (c / 4) = false →
        let row := rowKey c e.row 0
        (s.poisoned row 256 = false → Answers (.activation c) s (fun t =>
          CoresAndMemory s t ∧ t.rowState c e.row = 2 ∧ t.rowPc c e.row = s.rowPc c e.row
            ∧ (∀ k, ¬ InSlot c e.row 0 8 k → t.mem.read k =
                if row ≤ k ∧ k < row + 256 then trimmed (s.isContext c e.row) (k - row) (s.mem.read k) else s.mem.read k)
            ∧ (∀ d, d ≠ c → t.core d = s.core d)
            ∧ ∃ n, t.core c = { x with
                fifo := x.fifo.filter (fun f => f.row != e.row)
                latches := x.latches ++ [{
                  idx := n, row := e.row, count := 0, pending := [], intent := .run, block := none, hold := 0, gather := none }] }))
        ∧ (s.poisoned row 256 = true → RecordsDropped s c → Answers (.activation c) s (fun t =>
            let error : TrapInfo := { cause := .memerr, pc := s.rowPc c e.row, code := 0, deferred := false, len := 0 }
            Ends s t c e.row (s.rowPc c e.row) (trapValue s c e.row error ((s.slot c e.row 3).getLsbD 40)))))
      ∧ ((∀ e ∈ x.fifo, shed e = true) ∨ x.latmax ≤ x.latches.length ∨ s.absent c = true ∨ s.asleep (c / 4) = true →
          Stalls (.activation c) s)
      ∧ (∀ r, s.trapDue c r = true ∨ s.stallsNow c r = true → Stalls (.quantumExpiry c r) s)
      ∧ (∀ r l, s.latch? c r = some l → l.intent = .run → x.quantum ≤ l.count → s.trapDue c r = false → s.stallsNow c r = false →
          (∃ e ∈ x.fifo, shed e = false ∧ eff e ≤ ctlClass (s.ctl c r)) → Answers (.quantumExpiry c r) s (fun t =>
            t = { s with cores := t.cores } ∧ (∀ d, d ≠ c → t.core d = s.core d) ∧ t.core c = { x with latches := (t.core c).latches }
              ∧ ∀ q, t.latch? c q = if q = r then some { l with intent := .close .ready } else s.latch? c q))
      ∧ (∀ r l, s.latch? c r = some l → l.count < x.quantum → Stalls (.quantumExpiry c r) s)
      ∧ (∀ n, Answers (.aging c n) s (fun t => t = { s with cores := t.cores } ∧ (∀ d, d ≠ c → t.core d = s.core d)
          ∧ t.core c = { x with fifo := x.fifo.map (fun e => if shed e then e else { e with age := e.age + n }) }))

/-- R107, R109, R138: a drained row that closes frees its latch and is READY at the tail of its FIFO, WAIT with its WAITKIND, HALT or
STOPPED, as its close says; one whose wait was met meanwhile is READY, and one whose gang is stopped is STOPPED; a lent row of a pool
that halts is IDLE (R294). A row stalled in gbar closes into WAIT when a READY row could take its latch (R177). A `gstop` that waits
for an OPEN row counts it once it is STOPPED (R370). That a clasp whose ARMED
is clear counts as a wait that was met, also where an outside store cleared it, is the model's reading (log 60). -/
def Obligations.RowsClose : Prop :=
  ∀ (s : State) (c r : Nat) (l : Latch), c < numCores → r < 4096 → s.latch? c r = some l → Drained s c r →
    s.poisoned (rowKey c r 0) 256 = false →
    let x := s.core c
    let stopped := (s.gang (s.partid c) (ctlGang (s.ctl c r))).stopped
    let met (kind : Nat) : Bool := if kind = 1 then !(s.slot c r 1).getLsbD 32
      else x.waits.any (fun e => e.row == r && e.met && (if kind = 4 then e.on.isBarrier else e.on.isWait))
    let ends (st kind : Nat) (pc : BitVec 32) : Prop := Answers (.rowClose c r) s (fun t =>
      t.rowState c r = st ∧ ctlWait (t.ctl c r) = kind ∧ t.rowPc c r = pc ∧ t.latch? c r = none
        ∧ (∀ k, ¬ InSlot c r 0 8 k → t.mem.read k = s.mem.read k)
        ∧ (∀ q, q ≠ r → t.latch? c q = s.latch? c q)
        ∧ (t.core c).fifo = x.fifo ++ (if st = 1 then [{ row := r, age := 0 }] else [])
        ∧ (∀ d, (t.core d).gstops = (s.core d).gstops.map (fun e => if st = 7 ∧ (c, r) ∈ e.todo
            then { e with rows := e.rows + 1, todo := e.todo.filter (fun y => y != (c, r)) } else e))
        ∧ t = { s with mem := t.mem, cores := t.cores, gangs := t.gangs })
    let ready (pc : BitVec 32) : Prop := if stopped then ends 7 0 pc else ends 1 0 pc
    let waits (kind : Nat) (pc : BitVec 32) : Prop :=
      (met kind = true → ready pc) ∧ (met kind = false → if stopped then ends 7 kind pc else ends 3 kind pc)
    let quiet := ∀ e ∈ x.engTraps, e.1 ≠ r
    (l.intent = .close .ready ∨ l.intent = .close .stopped → ready (s.rowPc c r))
      ∧ (∀ kind pc, kind < 16 → l.intent = .close (.wait kind pc) → waits kind pc)
      ∧ (∀ pc, l.intent = .close (.halt pc) → quiet →
          ((∀ q ∈ x.pool, q.row ≠ r) → ends 4 0 pc)
          ∧ (∀ q, x.pool.find? (fun q => q.row == r) = some q → ends (if q.lent = true then 0 else 4) 0 pc))
      ∧ (l.intent = .stalled → (s.stallEnds c r = true → waits 4 (s.rowPc c r)) ∧ (s.stallEnds c r = false → Stalls (.rowClose c r) s))
      ∧ (l.intent = .run → Stalls (.rowClose c r) s)

/-- R103 to R105: a request that has arrived, before which none has arrived at its row or comes by its path, is applied at its row's
boundary: a row in HALT becomes READY with the request's PC, a READY row HALT, an OPEN row closes into HALT or takes the PC, after the
entry where it drains to enter a trap, which is the model's reading (log 73); a user's request to a row in FAULT is discarded. A store into a row writes its bytes and nothing else. Any other request waits. The core may hold
the issue of an OPEN row after it (R110, log 50). -/
def Obligations.RequestsAndStores : Prop :=
  ∀ (s : State) (k c r off : Nat) (bs : List Byte) (ctl : Bool) (id : Ident) (rs : Bool) (sq : Nat), c < numCores → r < 4096 →
    let q : RowReq := { core := c, row := r, off := off, data := bs, ctl := ctl, id := id, rs := rs, seq := sq }
    s.rowReqs[k]? = some q →
    let rest := s.rowReqs.eraseIdx k
    let w := word (natOfBytes bs)
    let first := s.arrived q = true
      ∧ ∀ x ∈ s.rowReqs.take k, (x.core = c → x.row = r → s.arrived x = false) ∧ x.alongside q = false
    let control (P : State → Prop) : Prop := ctl = true → off = 0 → first → ctlClass w = ctlClass (s.ctl c r) →
      ctlMode w = ctlMode (s.ctl c r) → ctlGang w = ctlGang (s.ctl c r) → (∀ e ∈ (s.core c).engTraps, e.1 ≠ r) →
        Answers (.controlRequest k) s (fun t => t.rowReqs = rest ∧ (∀ j, ¬ InSlot c r 0 8 j → t.mem.read j = s.mem.read j) ∧ P t)
    (s.latch? c r = none → s.rowState c r = 4 → ctlState w = 1 → control (fun t =>
        t.rowState c r = 1 ∧ t.rowPc c r = ctlPc w ∧ (t.core c).fifo = (s.core c).fifo ++ [{ row := r, age := 0 }]))
      ∧ (s.latch? c r = none → s.rowState c r = 1 → ctlState w = 4 → (∀ x ∈ (s.core c).pool, x.row ≠ r) → control (fun t =>
          t.rowState c r = 4 ∧ t.rowPc c r = ctlPc w ∧ (t.core c).fifo = (s.core c).fifo.filter (fun e => e.row != r)))
      ∧ (∀ l, s.latch? c r = some l → l.intent = .run → s.rowState c r = 2 →
          (ctlState w = 1 → control (fun t =>
            t.rowState c r = 2 ∧ t.rowPc c r = ctlPc w ∧ t.latch? c r = some { l with hold := 2 }))
          ∧ (ctlState w = 4 → control (fun t => t.rowState c r = 2 ∧ t.rowPc c r = s.rowPc c r
              ∧ t.latch? c r = some { l with intent := .close (.halt (ctlPc w)), hold := 2 })))
      ∧ (∀ l x, s.latch? c r = some l → l.intent = .trap x → s.rowState c r = 2 → ctlState w = 1 ∨ ctlState w = 4 → control (fun t =>
          t.rowState c r = 2 ∧ t.rowPc c r = s.rowPc c r
            ∧ t.latch? c r = some { l with intent := .trap { x with redirect := some (ctlPc w, ctlState w == 4) }, hold := 2 }))
      ∧ (s.latch? c r = none → s.rowState c r = 5 → id.mode = false → RecordsDropped s c → control (fun t =>
          t = { s with rowReqs := rest, mgmt := { s.mgmt with dropped := s.mgmt.dropped + 1 } }))
      ∧ (ctl = false → first → 8 ≤ off ∨ s.isContext c r = false → Answers (.outsideAccess k) s (fun t =>
          t = { s.touch c r with mem := t.mem, poison := t.poison, rowReqs := rest } ∧ StoresBytes s t c r off bs (fun _ => False)))
      ∧ (¬ first → Stalls (.controlRequest k) s ∧ Stalls (.outsideAccess k) s)

/-- R23, R138, R170, R171: an arrival that may be delivered adds to COUNT, which stays at 65535 at most; an armed clasp whose COUNT is
enough, and whose deadline has passed if it is timed, fires, and a row that waits for it is READY; a fire that consumes a system-scope
arrival acquires at system scope (R80, R360). One that may not be delivered is recorded. A row wakes when the timebase has reached its
time, and where a tag is set that meets the condition of its wait: READY, or without a WAITKIND while it is STOPPED; while it still
drains, its entry records the event (R137). A row whose grove sleeps waits for its wake (R349). -/
def Obligations.ClaspsAndWakes : Prop :=
  ∀ (s : State) (c r : Nat), c < numCores → r < 4096 →
    let cl := s.slot c r 1
    let x := s.core c
    let awake := s.asleep (c / 4) = false
    let passed := bitAt cl 33 = false ∨ deadlinePassed s.time (bitsAt cl 35 29) = true
    let woken (t : State) : Prop := t.rowState c r = 1 ∧ ctlWait (t.ctl c r) = 0 ∧ t.rowPc c r = s.rowPc c r
      ∧ (t.core c).fifo = x.fifo ++ [{ row := r, age := 0 }]
    let fired (t : State) (count : Nat) : Prop := bitsAt (t.slot c r 1) 0 16 = count - bitsAt cl 16 16
      ∧ bitsAt (t.slot c r 1) 16 16 = bitsAt cl 16 16 ∧ bitAt (t.slot c r 1) 32 = false ∧ bitAt (t.slot c r 1) 33 = false
      ∧ bitAt (t.slot c r 1) 34 = !bitAt cl 34
    (∀ k n id sys, s.arrivals[k]? = some { core := c, row := r, n := n, id := id, sys := sys } →
        (∀ a ∈ s.arrivals.take k, a.core = c → a.row ≠ r) →
        let sum := bitsAt cl 0 16 + n
        let fires := bitAt cl 32 = true ∧ bitsAt cl 16 16 ≤ sum ∧ passed
        let rest := s.arrivals.eraseIdx k
        (s.asleep (c / 4) = true → Stalls (.claspArrival k) s)
        ∧ (∀ cause, awake → s.undeliverable id c r = some cause → PartDrops s id.part → Answers (.claspArrival k) s (fun t =>
            t = { s with arrivals := rest, mgmt := { s.mgmt with dropped := s.mgmt.dropped + 1 } }))
        ∧ (awake → s.undeliverable id c r = none → sum ≤ 65535 → ¬ fires → Answers (.claspArrival k) s (fun t =>
            t = { s with mem := t.mem, cores := t.cores, arrivals := rest } ∧ (∀ d, d ≠ c → t.core d = s.core d)
              ∧ t.core c = { x with sysClasps := if sys = true ∧ r ∉ x.sysClasps then x.sysClasps ++ [r] else x.sysClasps }
              ∧ bitsAt (t.slot c r 1) 0 16 = sum ∧ bitsAt (t.slot c r 1) 16 48 = bitsAt cl 16 48
              ∧ ∀ j, ¬ InSlot c r 1 8 j → t.mem.read j = s.mem.read j))
        ∧ (awake → s.undeliverable id c r = none → sum ≤ 65535 → fires → Answers (.claspArrival k) s (fun t =>
            t.arrivals = rest ∧ fired t sum ∧ (s.rowState c r = 3 → ctlWait (s.ctl c r) = 1 → woken t) ∧ r ∉ (t.core c).sysClasps
              ∧ (∀ h, t.grove h = if (sys = true ∨ r ∈ x.sysClasps) ∧ h = c / 4
                  then { s.grove h with lines := afterAcquire (s.grove h).lines } else s.grove h)
              ∧ ∀ j, ¬ InSlot c r 0 8 j → ¬ InSlot c r 1 8 j → t.mem.read j = s.mem.read j))
        ∧ (awake → s.undeliverable id c r = none → 65535 < sum → bitAt cl 32 = false → RecordsDropped s c →
            Answers (.claspArrival k) s (fun t => bitsAt (t.slot c r 1) 0 16 = 65535 ∧ r ∈ (t.core c).clipped
              ∧ t.mgmt.dropped = s.mgmt.dropped + (if r ∈ x.clipped then 0 else 1))))
      ∧ (awake → s.isContext c r = true → s.swappedOut c = false → s.absent c = false →
          bitAt cl 32 = true → bitAt cl 33 = true → bitsAt cl 16 16 ≤ bitsAt cl 0 16 →
          deadlinePassed s.time (bitsAt cl 35 29) = true → Answers (.claspDeadline c r) s (fun t => fired t (bitsAt cl 0 16)
            ∧ (s.rowState c r = 3 → ctlWait (s.ctl c r) = 1 → woken t)
            ∧ ∀ e ∈ (t.core c).waits, e.row = r → e.on ≠ .timedClasp))
      ∧ (deadlinePassed s.time (bitsAt cl 35 29) = false ∨ ¬ awake → Stalls (.claspDeadline c r) s)
      ∧ (∀ T, x.waits = [{ row := r, on := .time T, met := false }] →
          (awake → T ≤ s.time → s.rowState c r = 3 → Answers (.timeWake c r) s (fun t => woken t ∧ (t.core c).waits = []))
          ∧ (¬ T ≤ s.time ∨ ¬ awake → Stalls (.timeWake c r) s))
      ∧ (∀ (k : Nat) (m : Word) (entry : WaitEntry), k < 64 → entry.row = r → entry.met = false →
          let tags := x.tags ||| 1#64 <<< k
          let t := s.setTag c k
          let all := entry.on = .tagsAll m
          let any := entry.on = .tagsAny m
          let meets := (all ∧ tags &&& m = m) ∨ (any ∧ tags &&& m ≠ 0)
          x.waits = [entry] → all ∨ any →
            (t.core c).tags = tags
            ∧ (∀ h, t.grove h = if meets ∧ x.sysTags &&& m ≠ 0 ∧ h = c / 4
                then { s.grove h with lines := afterAcquire (s.grove h).lines } else s.grove h)
            ∧ (¬ meets → t = s.setCore c { x with tags := tags })
            ∧ (meets → s.rowState c r = 3 → woken t ∧ (t.core c).waits = [])
            ∧ (meets → s.rowState c r = 7 → t.rowState c r = 7 ∧ ctlWait (t.ctl c r) = 0 ∧ (t.core c).waits = [])
            ∧ (meets → s.rowState c r ≠ 3 → s.rowState c r ≠ 7 → (t.core c).waits = [{ entry with met := true }]
                ∧ t.ctl c r = s.ctl c r))

/-- R91, R175, R176, R178, R380: at its instant an episode releases: no entry of the partition's cores waits for it, and WDCNT is 0;
while the gang's class is shed it is held, and while the descriptor breaks R121 or the partition is swapped out (R377) none is released.
A gang held or stopped by shedding whose class has left SHED while its descriptor broke R121 is released once the descriptor can be read
(R121, log 77). A held descriptor is read again; a release that waits for one is the model's reading (log 53). A revocation ends when every
member is quiet and no record that began under the old lease is at work, which is the model's reading (log 32): the lease is the one that
remains, its target is signalled, and the calls of the gang that touch what was revoked are to end with LEASE (R283). -/
def Obligations.ReleasesAndRevocations : Prop :=
  ∀ (s : State) (p g : Nat),
    let x := s.gang p g
    let due (e : Episode) : Bool := !e.held && decide (e.t ≤ s.time.toNat)
    let here := (s.part p).saved = none ∧ s.leftShed p g = false
    let late (k : Nat) (q : Call) : Bool :=
      q.id.inGang p g && !q.abort && q.run == CallRun.start && q.ended.isNone && s.callTouches k q
    (∀ e k, x.due.find? due = some e → here → s.gangClass p g = some k → s.isShed k = false →
        Answers (.barrierRelease p g) s (fun t => (t.gang p g).wdcnt = 0
          ∧ (t.gang p g).due = x.due.filter (fun d => d.number != e.number)
          ∧ ∀ c ∈ s.coresOf p, ∀ w ∈ (t.core c).waits, w.on = .barrier g e.number → w.met = true))
      ∧ (∀ e k, x.due.find? due = some e → here → s.gangClass p g = some k → s.isShed k = true →
          Answers (.barrierRelease p g) s (fun t =>
            t = s.setGang p g { x with due := x.due.map (fun d => if d.number == e.number then { d with held := true } else d) }))
      ∧ (s.leftShed p g = false → x.due.find? due = none ∨ ¬ here ∨ s.gangClass p g = none → Stalls (.barrierRelease p g) s)
      ∧ (∀ d, s.leftShed p g = true → (s.descriptor p g).1 = some d → ∃ T, ReleaseInstant d s.time.toNat T
          ∧ Answers (.barrierRelease p g) s (fun t => (t.gang p g).shed = false
            ∧ (t.gang p g).due = x.due.map (fun e => if e.held then { e with t := T, held := false } else e)))
      ∧ (x.heldDesc = false → Stalls (.barrierReread p g) s)
      ∧ (∀ u, x.heldDesc = true → s.descriptor p g = (none, u) → Answers (.barrierReread p g) s (fun t => t = u))
      ∧ (∀ d u, x.heldDesc = true → s.descriptor p g = (some d, u) →
          (x.arrivals ≤ d.members → Answers (.barrierReread p g) s (fun t => (t.gang p g).episode = x.episode ∧ (t.gang p g).due = x.due))
          ∧ (d.members < x.arrivals → ∃ T, ReleaseInstant d s.time.toNat T ∧ Answers (.barrierReread p g) s (fun t =>
              t = u.setGang p g { x with
                due := x.due ++ [{ number := x.episode, t := T, held := false }]
                episode := x.episode + 1
                arrivals := 0
                heldDesc := false })))
      ∧ (∀ v, x.revoking = some v → s.membersQuiet p g = true → s.oldWork p g = false →
          (v.target = .none → Answers (.revocationComplete p g) s (fun t =>
            t = { s.setGang p g { x with lease := some v.after, revoking := none } with stackSts := t.stackSts }
              ∧ ∀ k, k < 8 → t.stack k = { s.stack k with calls := (s.stack k).calls.map (fun q => if late k q then { q with late := true } else q) }))
          ∧ (∀ c n, v.target = .tag c n → s.tagOpen v.id c = true → n < 64 → Answers (.revocationComplete p g) s (fun t =>
              (t.core c).tags.getLsbD n = true
                ∧ ((t.gang p g).lease = some v.after ∧ (t.gang p g).revoking = none))))
      ∧ (x.revoking = none ∨ s.membersQuiet p g = false ∨ s.oldWork p g = true → Stalls (.revocationComplete p g) s)

/-! ### The matrix unit -/

/-- R211, R212, R221, R230, R232, R371: the one 64-byte store to the command window enters the queue, under the identity of its party, and
freezes the unit where the gang of its row is stopped; while the queue holds 32 commands, or a control command that a frozen unit held has
still to act, it waits; a control MNOP does not enter it, but acts at once: RESUME clears HALT, FLUSH discards, counts and signals; a frozen
unit holds it. Another store of a row to the window raises QUEUE. A command of a row that the watchdog has ended is
discarded (R381). -/
def Obligations.MatrixCommandStores : Prop :=
  ∀ (s : State),
    let w0 (ws : List Word) : Word := ws.getD 0 0
    let control (ws : List Word) : Prop := bitsAt (w0 ws) 0 8 = 6 ∧ (bitsAt (w0 ws) 20 2 = 1 ∨ bitsAt (w0 ws) 20 2 = 2)
    let unit (c : Nat) (y : MatrixSt) : State := s.setCore c { s.core c with mx := y }
    let queued (c : Nat) (id : Ident) (ws : List Word) : State :=
      let m := (s.core c).mx
      unit c { m with
        queue := m.queue ++ [{
          words := ws, id := id, begun := false, started := false, injFrom := 0, idx := 0, run := 0, fault := none }]
        headFrom := if m.queue = [] then (s.grove (c / 4)).cc + 1 else m.headFrom
        frozen := m.frozen || s.idStopped id }
    let out (c : Nat) : List MxCmd := (s.core c).mx.queue.filter (fun d => (s.core c).mx.halt || !d.begun)
    let asked (c : Nat) (ws : List Word) : State :=
      let m := (s.core c).mx
      if m.frozen = true ∨ m.controls ≠ [] then unit c { m with controls := m.controls ++ [bitsAt (w0 ws) 20 2] }
      else if bitsAt (w0 ws) 20 2 = 1 then unit c { m with halt := false }
      else unit c { m with
        queue := m.queue.filter (fun d => !m.halt && d.begun)
        halt := false
        discards := (m.discards + (out c).length) % 65536 }
    let signals (c : Nat) (u : State) (d : MxCmd) : State :=
      let v := d.words.getD 0 0
      if bitsAt v 12 2 = 0 then u
      else if bitsAt v 12 2 = 1 ∧ s.tagOpen d.id c = true then (u.rouse (c / 4)).setTag c (bitsAt v 14 6)
      else u.signalIf d.id (mxTarget c d.words)
    let acted (c : Nat) (ws : List Word) : State :=
      if bitsAt (w0 ws) 20 2 = 2 ∧ (s.core c).mx.frozen = false ∧ (s.core c).mx.controls = []
        then (out c).foldl (signals c) (asked c ws) else asked c ws
    let discarded (c : Nat) : State := unit c { (s.core c).mx with discards := ((s.core c).mx.discards + 1) % 65536 }
    let plain (ws : List Word) : Prop := w0 ws = BitVec.ofNat 64 (6 + bitsAt (w0 ws) 20 2 * 2 ^ 20) ∧ ∀ w ∈ ws.drop 1, w = 0
    let held (c : Nat) : Prop := 32 ≤ (s.core c).mx.queue.length ∨ ((s.core c).mx.frozen = false ∧ (s.core c).mx.controls ≠ [])
    (∀ o : Operands, o.fn.toNat % 16 = 7 → (s.reg o.ra + o.imm).toNat = 0x100000 →
        let c := s.curCore
        let ws := (List.range 8).map (fun k => s.reg (o.rd + k))
        (¬ control ws → s.idEnded s.me = false → ¬ held c → Answers (.stm o) s (fun t => OnlyAdvances (queued c s.me ws) t o))
          ∧ (¬ control ws → s.idEnded s.me = false → held c → Stalls (.stm o) s)
          ∧ (¬ control ws → s.idEnded s.me = true → bitsAt (w0 ws) 12 2 = 0 → Answers (.stm o) s (fun t => OnlyAdvances (discarded c) t o))
          ∧ (control ws → plain ws → Answers (.stm o) s (fun t => OnlyAdvances (acted c ws) t o))
          ∧ (control ws → ¬ plain ws → Traps (.stm o) s o .queue 0))
      ∧ (∀ o : Operands, o.fn.toNat % 8 ≤ 3 → (s.reg o.ra + o.imm).toNat % 2 ^ (o.fn.toNat % 8) = 0 →
          0x100000 ≤ (s.reg o.ra + o.imm).toNat → (s.reg o.ra + o.imm).toNat < 0x100040 → Traps (.sr o) s o .queue 0)
      ∧ (∀ (k : Nat) (q : StoreReq), s.stores[k]? = some q → s.mayAccept k q = true → s.classOf q = .matrix →
          let c := vaUnit q.va
          let ws := wordsOf q.data
          let rest := s.stores.eraseIdx k
          vaOff q.va = 0x100000 → q.data.length = 64 → q.whole = true → q.id.part = s.partid c → (s.part (s.partid c)).shut q.seq = false →
          s.absent c = false → s.asleep (c / 4) = false → (q.id.host = true ∨ q.id.node = 0x3FF) →
          (¬ control ws → s.idEnded q.id = false → ¬ held c →
              Answers (.matrixCommandStore k) s (fun t => t = { queued c q.id ws with stores := rest }))
            ∧ (¬ control ws → s.idEnded q.id = false → held c → Stalls (.matrixCommandStore k) s)
            ∧ (control ws → plain ws → Answers (.matrixCommandStore k) s (fun t => t = { acted c ws with stores := rest })))

/-- R22, R24, R25, R213, R220 to R224, R232: the head of the queue, from the cycle in which it may begin on and with no control command
before it, completes when its guard is TRUE (MNOP; MSYNC once no C write is on its way), leaves the queue and signals; it waits on PEND;
an MSYNC whose guard is TRUE has begun while it waits for C writes; on FALSE a command that names a valid target is discarded, counted and
signals, and another faults and signals nothing; a stray bit faults it with RSVD, sets HALT and raises ENGINE. RESUME and FLUSH that a frozen
unit held act once it is not: RESUME clears HALT; FLUSH empties the queue of a halted unit, and of another what has not begun. A frozen unit
does nothing. -/
def Obligations.MatrixQueueSteps : Prop :=
  ∀ (s : State) (c : Nat) (q : MxCmd) (rest : List MxCmd),
    let m := (s.core c).mx
    let cc := (s.grove (c / 4)).cc
    let w0 := q.words.getD 0 0
    let cmd := bitsAt w0 0 8
    let slot := bitsAt w0 8 4
    let guard := if slot = 0 then 1 else bitsAt (s.core c).guards (2 * slot) 2
    let put (y : MatrixSt) : State := s.setCore c { s.core c with mx := y }
    let gone : MatrixSt := { m with queue := rest, headFrom := cc + 1 }
    let signals (u t : State) : Prop := (bitsAt w0 12 2 = 0 → t = u)
      ∧ (bitsAt w0 12 2 = 1 → s.tagOpen q.id c = true → t = (u.rouse (c / 4)).setTag c (bitsAt w0 14 6))
    let faults (i : Instr) : Prop := q.id.host = false → s.isContext q.id.core q.id.row = true →
      s.rowState q.id.core q.id.row = 2 → Answers i s (fun t =>
        (t.core c).mx = { gone with halt := true, fcode := 1, fcmd := cmd, fidx := 0 }
          ∧ (∃ e ∈ (t.core q.id.core).engTraps, e.1 = q.id.row) ∧ t = { s with cores := t.cores })
    let kind (i : Instr) : Prop := ((cmd = 0 ∨ 6 ≤ cmd) ∧ i = .mnop c) ∨ (cmd = 4 ∧ i = .msync c)
    let may := m.frozen = false ∧ m.halt = false ∧ m.controls = [] ∧ m.headFrom ≤ cc
    (m.queue = q :: rest → q.begun = false → may → ∀ i, kind i →
        (guard = 1 → mxRsvd q.words = false → (cmd = 4 → m.pipe = []) → Answers i s (fun t => signals (put gone) t))
          ∧ (guard = 1 → mxRsvd q.words = false → cmd = 4 → m.pipe ≠ [] → Answers i s (fun t =>
              t = put { m with queue := { q with begun := true } :: rest }))
          ∧ (guard = 0 → Stalls i s)
          ∧ (guard = 2 → (mxTarget c q.words).isSome = true → Answers i s (fun t =>
              signals (put { gone with discards := (m.discards + 1) % 65536 }) t))
          ∧ (guard = 2 → (mxTarget c q.words).isNone = true → faults i)
          ∧ (guard = 1 → mxRsvd q.words = true → bitsAt w0 12 2 = 0 ∨ (mxTarget c q.words).isNone = true → faults i))
      ∧ (m.queue = q :: rest → q.begun = true → Stalls (.mnop c) s
          ∧ (cmd = 4 → m.frozen = false → m.controls = [] → m.pipe = [] → Answers (.msync c) s (fun t => signals (put gone) t))
          ∧ (cmd ≠ 4 ∨ m.frozen = true ∨ m.controls ≠ [] ∨ m.pipe ≠ [] → Stalls (.msync c) s))
      ∧ (m.queue = [] ∨ (m.queue = q :: rest ∧ q.begun = false ∧ ¬ may) → Stalls (.mnop c) s ∧ Stalls (.msync c) s)
      ∧ (m.frozen = false → m.controls.head? = some 1 → Answers (.resume c) s (fun t =>
          t = put { m with controls := m.controls.drop 1, halt := false }))
      ∧ (let out := m.queue.filter (fun d => m.halt || !d.begun)
        let sent (u : State) (d : MxCmd) : State :=
          let v := d.words.getD 0 0
          if bitsAt v 12 2 = 0 then u
          else if bitsAt v 12 2 = 1 ∧ s.tagOpen d.id c = true then (u.rouse (c / 4)).setTag c (bitsAt v 14 6)
          else u.signalIf d.id (mxTarget c d.words)
        m.frozen = false → m.controls.head? = some 2 →
          Answers (.flush c) s (fun t => t = out.foldl sent (put { m with
            controls := m.controls.drop 1
            queue := m.queue.filter (fun d => !m.halt && d.begun)
            halt := false
            discards := (m.discards + out.length) % 65536 })))
      ∧ (m.frozen = true ∨ m.controls = [] → Stalls (.resume c) s ∧ Stalls (.flush c) s)

/-- R215 to R217, R220, R224: a WLOAD whose set exists and whose rows it may read latches them; an MZERO writes zero over its rows in
order, up to one that it may not write; each leaves the queue, and nothing else changes. A set that does not exist, a count out of range
and a row that an MZERO may not write are reported: FCODE, FCMD, FIDX, HALT, and an ENGINE trap of the issuing row. -/
def Obligations.MatrixWholeCommands : Prop :=
  ∀ (s : State) (c : Nat) (q : MxCmd) (rest : List MxCmd),
    let m := (s.core c).mx
    let cc := (s.grove (c / 4)).cc
    let w0 := q.words.getD 0 0
    let w1 := q.words.getD 1 0
    let n := bitsAt (q.words.getD 2 0) 0 13
    m.queue = q :: rest → q.begun = false → m.frozen = false → m.halt = false → m.controls = [] → m.headFrom ≤ cc →
    bitsAt w0 8 4 = 0 → mxRsvd q.words = false → bitsAt w0 12 2 = 0 →
    let fmt := bitsAt w0 20 4
    let sparse := bitAt w0 26
    let k := 128 * 2 ^ bitsAt w0 24 2
    let p := if sparse then k / 2 else k
    let width := if fmt = 1 then 16 else if fmt = 4 ∨ fmt = 8 then 4 else 8
    let rows (first stride n : Nat) : List Nat := (List.range n).map (fun i => (first + i * stride) % 4096)
    let ws := rows (bitsAt w1 0 12) (bitsAt w1 12 12) (p * width / 32)
    let ms := if sparse then rows (bitsAt w1 24 12) 1 (k / 32) else []
    let ss := if bitAt w0 27 then rows (bitsAt w1 36 12) 1 (k / 128) else []
    let bits (r : Nat) := s.rowBits c r
    let readable (r : Nat) : Prop := s.isContext c r = false ∧ s.rowDenied q.id c r false = false ∧ s.poisoned (rowKey c r 0) 256 = false
    let writable (r : Nat) : Prop := s.isContext c r = false ∧ s.rowDenied q.id c r true = false
    let zeros := rows (bitsAt w1 0 12) (bitsAt w1 12 12) n
    let gone : MatrixSt := { m with queue := rest, headFrom := cc + 1 }
    let becomes (t : State) (y : MatrixSt) : Prop := (∀ d, d ≠ c → t.core d = s.core d) ∧ t.core c = { s.core c with mx := y }
    let zeroed (t : State) (rs : List Nat) : Prop := (∀ r ∈ rs, t.rowBits c r = 0)
      ∧ ∀ b, (∀ r ∈ rs, b < rowKey c r 0 ∨ rowKey c r 0 + 256 ≤ b) → t.mem.read b = s.mem.read b
    let faults (i : Instr) (code idx : Nat) (rs : List Nat) : Prop := q.id.host = false → s.isContext q.id.core q.id.row = true →
      s.rowState q.id.core q.id.row = 2 → (∀ e ∈ (s.core q.id.core).engTraps, e.1 ≠ q.id.row) → Answers i s (fun t =>
        t = { s with mem := t.mem, poison := t.poison, cores := t.cores } ∧ zeroed t rs
          ∧ ∀ d, t.core d = { s.core d with
              mx := if d = c then { gone with halt := true, fcode := code, fcmd := bitsAt w0 0 8, fidx := idx } else (s.core d).mx
              engTraps := if d = q.id.core then (s.core d).engTraps ++ [(q.id.row, 0)] else (s.core d).engTraps })
    (bitsAt w0 0 8 = 1 → mxSetOk fmt sparse k = true → (∀ r ∈ ws ++ ms ++ ss, readable r ∧ ∀ w ∈ m.pipe, w.row ≠ r) →
        (∀ i, i < 512 * ms.length → nibbleBad (ms.map bits) i = false) →
        Answers (.wload c) s (fun t => t = { s with cores := t.cores } ∧ becomes t { gone with
              wvalid := true, wfmt := fmt, ksel := bitsAt w0 24 2, sparse := sparse, weights := ws.map bits
              metas := ms.map bits
              scales := ss.map bits
              hasScale := bitAt w0 27
              wctab0 := if fmt = 8 then (s.core c).ctab0 else m.wctab0
              wctab1 := if fmt = 8 then (s.core c).ctab1 else m.wctab1 }))
      ∧ (bitsAt w0 0 8 = 1 → mxSetOk fmt sparse k = false → faults (.wload c) 2 0 [])
      ∧ (bitsAt w0 0 8 = 3 → 1 ≤ n → n ≤ 4096 → (∀ r ∈ zeros, ∀ w ∈ m.pipe, w.row ≠ r) →
          ((∀ r ∈ zeros, writable r) → Answers (.mzero c) s (fun t =>
            t = { s with mem := t.mem, poison := t.poison, cores := t.cores } ∧ becomes t gone ∧ zeroed t zeros))
          ∧ (∀ i r, zeros[i]? = some r → (∀ x ∈ zeros.take i, writable x) → ¬ writable r → faults (.mzero c) 6 i (zeros.take i)))
      ∧ (bitsAt w0 0 8 = 3 → n = 0 ∨ 4096 < n → faults (.mzero c) 5 0 [])

/-- R17, R218 to R220, R228, R232: an MRUN with a valid set of its depth begins, and injects from the next cycle on, from START on when
it is TIMED; an MFILL begins so too; a granted injection takes one of the allowance, moves LAST and advances its command, and one of an
MRUN sends one C write, of 64 columns: of each group of 16 positions the exact sum of its products, times both scales, rounded once
(R63, R64, R207 to R210); of a sparse set the metadata picks the activations. That a granted injection spends its grant and moves LAST also where it faults is the model's reading (log 28). -/
def Obligations.MatrixRuns : Prop :=
  ∀ (s : State) (c : Nat) (q : MxCmd) (rest : List MxCmd),
    let m := (s.core c).mx
    let w0 := q.words.getD 0 0
    let w2 := q.words.getD 2 0
    let n := bitsAt w2 0 13
    let x := s.grove (c / 4)
    m.queue = q :: rest → m.frozen = false → q.fault = none →
    let fmt := bitsAt w0 20 4
    let depth := if fmt = 1 then some 128 else if fmt = 2 ∨ fmt = 3 ∨ fmt = 5 then some 256
      else if fmt = 4 ∨ fmt = 8 then some 512 else none
    let late := bitAt w0 26 = false ∨ q.words.getD 3 0 ≤ s.time
    let fresh := q.begun = false ∧ q.started = false ∧ m.halt = false ∧ m.controls = [] ∧ m.headFrom ≤ x.cc ∧ bitsAt w0 8 4 = 0
      ∧ mxRsvd q.words = false
    let begins (i : Instr) (cmd : Nat) (P : State → Prop) : Prop := fresh → bitsAt w0 0 8 = cmd →
      Answers i s (fun t => t = { s with cores := t.cores, seq := t.seq } ∧ (∀ d, d ≠ c → t.core d = s.core d) ∧ P t)
    let head (t : State) (started : Bool) (from_ : Nat) : Prop := ∃ d, (t.core c).mx.queue = d :: rest ∧ d.words = q.words ∧ d.id = q.id
      ∧ d.begun = true ∧ d.started = started ∧ d.injFrom = from_ ∧ d.idx = q.idx
    let goes (t : State) : Prop := t.grove (c / 4) = { x with allowance := x.allowance - 1, slewLast := c % 4, busy := x.busy ++ [c % 4] }
      ∧ (q.idx + 1 = n → (t.core c).mx.queue = rest)
      ∧ (q.idx + 1 ≠ n → (t.core c).mx.queue = { q with idx := q.idx + 1 } :: rest)
      ∧ (t.core c).mx.lastInj = some x.cc ∧ t = { s with cores := t.cores, groves := t.groves }
      ∧ (∀ d, d ≠ c → t.core d = s.core d) ∧ ∀ h, h ≠ c / 4 → t.grove h = s.grove h
    let ready := q.begun = true ∧ q.started = true ∧ q.idx < n ∧ s.granted c = true
    let w1 := q.words.getD 1 0
    let a := (bitsAt w1 0 12 + q.idx * bitsAt w1 12 12) % 4096
    let acts := if m.sparse then [s.rowBits c a, s.rowBits c ((a + 1) % 4096)] else [s.rowBits c a]
    let width (f : Nat) : Nat := if f = 1 then 16 else if f = 4 ∨ f = 8 then 4 else 8
    let flat (w : Nat) (rows : List (BitVec 2048)) (i : Nat) : Nat :=
      ((rows.getD (i / (2048 / w)) 0).extractLsb' (w * (i % (2048 / w))) w).toNat
    let val (f : Nat) (c0 c1 : Word) (code : Nat) : Val :=
      if f = 1 then Fmt.bf16.decode code else if f = 2 then Fmt.e4m3.decode code else if f = 3 then Fmt.e5m2.decode code
      else if f = 4 then Fmt.e2m1.decode code else if f = 5 then Val.ofInt (signedNat 8 code)
      else if f = 8 then t4 c0 c1 code else ts8 code
    let act (j : Nat) : Val := val fmt m.actab0 m.actab1 (flat (width fmt) acts j)
    let weight (col j : Nat) : Val := val m.wfmt m.wctab0 m.wctab1 (flat (width m.wfmt) m.weights (col * m.depthP + j))
    let products (col g : Nat) : List Val :=
      if m.sparse then (List.range 4).flatMap (fun i =>
        let f := 4 * g + i
        let nib := flat 4 m.metas (col * (m.depthK / 4) + f)
        [(act (4 * f + nib % 4)).mul (weight col (2 * f)), (act (4 * f + nib / 4)).mul (weight col (2 * f + 1))])
      else (List.range 16).map (fun i => (act (16 * g + i)).mul (weight col (16 * g + i)))
    let one : Val := .fin false 1 0
    let actScale (b : Nat) : Val := if bitAt w0 25 = false then one
      else e8m0 (rowByte (s.rowBits c ((bitsAt w1 48 12 + q.idx * (m.depthK / 32) / 256) % 4096)) ((q.idx * (m.depthK / 32) + b) % 256))
    let weightScale (col g : Nat) : Val := if m.hasScale then e8m0 (flat 8 m.scales (col * (m.depthK / 32) + g / 2)) else one
    (1 ≤ n → n ≤ 4096 → m.wvalid = true → depth = some m.depthP →
        (late → begins (.mrun c) 2 (fun t => head t true (x.cc + 1))) ∧ (¬ late → begins (.mrun c) 2 (fun t => head t false (x.cc + 1))))
      ∧ (fresh → bitsAt w0 0 8 = 2 → 1 ≤ n → n ≤ 4096 → m.wvalid = false → Answers (.mrun c) s (fun t =>
            (t.core c).mx.fcode = 4 ∧ (t.core c).mx.halt = true ∧ (t.core c).mx.queue = rest))
      ∧ (q.begun = true → q.started = false → late → Answers (.mrunTimedStart c) s (fun t =>
          t = { s with cores := t.cores } ∧ (∀ d, d ≠ c → t.core d = s.core d) ∧ head t true q.injFrom))
      ∧ (q.begun = true → q.started = false → ¬ late → Stalls (.mrunTimedStart c) s)
      ∧ (1 ≤ n → n ≤ 4096 → begins (.mfill c) 5 (fun t => head t true (x.cc + 1)))
      ∧ (ready → bitsAt w0 0 8 = 5 → bitsAt w0 12 2 = 0 → Answers (.mfill c) s (fun t => goes t ∧ (t.core c).mx.pipe = m.pipe))
      ∧ (ready → bitsAt w0 0 8 = 2 → (mxTarget c q.words).isSome = true → s.injFault c q (m.injRows q) = none → Answers (.injection c) s (fun t => goes t
          ∧ ∃ w, (t.core c).mx.pipe = m.pipe ++ [w] ∧ w.m = q.idx ∧ w.cc = x.cc ∧ w.id = q.id ∧ w.run = q.run
              ∧ w.row = (bitsAt (q.words.getD 1 0) 24 12 + q.idx * bitsAt (q.words.getD 1 0) 36 12) % 4096
              ∧ w.acc = bitAt w0 24 ∧ w.last = decide (q.idx + 1 = n) ∧ mxTarget c q.words = some w.target
              ∧ w.sums.length = 64 ∧ ∀ col, col < 64 → ∃ gs, w.sums[col]? = some gs ∧ gs.length = m.depthK / 16
                  ∧ ∀ g, g < m.depthK / 16 → gs[g]? = some (BitVec.ofNat 32 (groupCode
                      (((exactSum (products col g)).mul (actScale (g / 2))).mul (weightScale col g))))))
      ∧ (s.granted c = false → q.begun = true → Stalls (.injection c) s)

/-- R63, R219, R228: 160 cc after its injection, the oldest C write puts its 64 columns into its row, each its group sums added in order
to the prior lane or to +0, and changes no other row; the last of a run sets the tag that it names (R22). At a step boundary the limiter sets the allowance to
the smaller of Up(V) and the demand D, which was taken at the start of the boundary cycle, and fills up to Down(V). -/
def Obligations.MatrixResultsAndSlew : Prop :=
  ∀ (s : State),
    (∀ (c : Nat) (w : CWrite) (rest : List CWrite), (s.core c).mx.pipe = w :: rest → (s.core c).mx.frozen = false →
        (s.core c).mx.controls = [] → w.cc + 160 ≤ (s.grove (c / 4)).cc →
        (w.acc = true → s.poisoned (rowKey c w.row 0) 256 = false) →
        (w.last = false → ∀ d ∈ (s.core c).mx.queue, d.fault = none) → w.row < 4096 →
        Answers (.cRowWrite c) s (fun t => ∃ u : State,
          u = { s with mem := u.mem, poison := u.poison, cores := u.cores } ∧ (∀ d, d ≠ c → u.core d = s.core d)
            ∧ u.core c = { s.core c with mx := { (s.core c).mx with pipe := rest } }
            ∧ (∀ n, n < 64 → (u.rowBits c w.row).extractLsb' (32 * n) 32 = BitVec.ofNat 32 ((w.sums.getD n []).foldl
                (fun (a : Nat) (g : BitVec 32) => accGroup a g.toNat)
                (if w.acc then ((s.rowBits c w.row).extractLsb' (32 * n) 32).toNat else 0)))
            ∧ (∀ b, (b < rowKey c w.row 0 ∨ rowKey c w.row 0 + 256 ≤ b) → u.mem.read b = s.mem.read b)
            ∧ (w.last = false ∨ w.target = .none → t = u)
            ∧ ∀ k, w.last = true → w.target = .tag c k → s.tagOpen w.id c = true → t = (u.rouse (c / 4)).setTag c k))
      ∧ (∀ c, (s.core c).mx.pipe = [] → Stalls (.cRowWrite c) s)
      ∧ (∀ g,
          let x := s.grove g
          let e (i : Nat) : Nat := bitsAt (s.power.reg (0x0400 + 8 * g)) (5 * i) 5
          let es := (List.range 8).map e
          let up := ((es.filter (fun y => decide (x.slewV < y))).head?).getD (e 7)
          let down := (es.filter (fun y => decide (y < x.slewV))).foldl Nat.max 0
          let a := Nat.min up x.slewD
          (x.cc % 4 = 0 → x.slewAt ≠ some x.cc → Answers (.slewStep g) s (fun t => t = s.setGrove g { x with
              slewAt := some x.cc, allowance := a, fillers := down - a, slewV := Nat.max a down }))
            ∧ (x.cc % 4 ≠ 0 → Stalls (.slewStep g) s))
      ∧ (∀ g,
          let x := s.grove g
          let demands (k : Nat) : Nat := if ((s.core (4 * g + k)).mx.injecting (x.cc + 1)).isSome = true
            then (4 + s.cadence (4 * g + k) - 1) / s.cadence (4 * g + k) else 0
          (x.cc % 4 ≠ 0 ∨ x.slewAt = some x.cc) → ((s.clockGrove g).grove g).cc = x.cc + 1
            ∧ ((s.clockGrove g).grove g).slewD =
                if (x.cc + 1) % 4 = 0 then demands 0 + demands 1 + demands 2 + demands 3 else x.slewD)

/-! ### Copy channels and stacks -/

/-- R236, R253, R262, R263, R265, R288, R289, R371, R381: a store to HEAD starts a chain of an IDLE channel, clears its error with 0, or
stops it with STOP, and is refused with QUEUE while a chain runs; one of a stopped gang is to stop before its first record, and one of a
row that the watchdog has ended is stopped at once. A call enters its stack's queue, to be aborted when its gang is stopped or its row
has ended, and a header its partition's, each of at most 256 and 64; a broadcast write reaches the operand buffers of its stack. A full
queue holds the store. -/
def Obligations.UnitStores : Prop :=
  ∀ (s : State) (k : Nat) (q : StoreReq), s.stores[k]? = some q → s.mayAccept k q = true → vaNode q.va = 0x3FF → vaRegion q.va = 2 →
    q.id.host = true ∨ q.id.node = 0x3FF →
    let rest := s.stores.eraseIdx k
    let u := vaUnit q.va
    let o := vaOff q.va
    let v := word (natOfBytes q.data)
    let y := s.stack (u - 0x180)
    let call : Call := {
      words := wordsOf q.data, id := q.id, abort := s.idStopped q.id || s.idEnded q.id, late := false, run := CallRun.start, ended := none }
    let works (h : Call) : Prop := y.pendswap = true ∨ h.abort = true ∨ h.ended.isSome = true ∨ (callBad h.words = false
      ∧ s.entryStart (u - 0x180) (bitsAt (wordAt h.words 0) 0 8) ≠ 0xFF)
    let p := o / 0x1000
    (∀ ch, ch < 4 → u < 256 → o = 0x100100 + 0x40 * ch → q.id.part = s.partid u → (s.part (s.partid u)).shut q.seq = false → s.absent u = false →
        s.asleep (u / 4) = false → q.data.length = 8 → q.whole = false →
        let x := (s.core u).chan ch
        let becomes (i : Instr) (z : Chan) : Prop := Answers i s (fun t =>
          t = { s.setCore u { s.core u with chans := (s.core u).chans.set Chan.reset ch z } with stores := rest })
        let chain := v ≠ 0 ∧ v ≠ 0x4000000000000000#64 ∧ copyMalformed v = false ∧ v.toNat % 64 = 0
        (v = 0 → x.st = 0 → becomes (.head k) { x with head := 0, err := false, fcode := 0, reason := 0, current := 0 })
          ∧ (chain → x.st = 0 →
              let z : Chan := { x with
                head := v, err := false, fcode := 0, current := v, st := 1, record := [], begun := false, done := 0, ahead := []
                ended := none, id := q.id, stopReq := false, gangStop := s.idStopped q.id, revoked := false }
              becomes (.head k) (if s.idEnded q.id = true then { z with st := 0, reason := 4, gangStop := false } else z))
          ∧ (chain → x.st ≠ 0 → ∀ l, q.id.host = false → s.latch? q.id.core q.id.row = some l → l.intent = .run →
              Answers (.head k) s (fun t => Defers { s with stores := rest } t q.id.core q.id.row l
                { cause := .queue, pc := q.pc, code := 0, deferred := true, len := q.len }))
          ∧ (v = 0x4000000000000000#64 →
              (x.st = 1 → becomes (.stop k) { x with head := v, stopReq := true })
              ∧ (x.st = 2 → becomes (.stop k) { x with
                  head := v, st := 0, reason := 4, record := [], begun := false, done := 0, ahead := [], ended := none })
              ∧ (x.st = 0 ∨ x.st = 3 → becomes (.stop k) { x with head := v })))
      ∧ (0x180 ≤ u → u ≤ 0x187 → o = 0 → q.data.length = 64 → q.whole = true →
          (∀ h, (y.calls ++ [call]).head? = some h → works h) →
          (y.calls.length < 256 → Answers (.callRecordStore k) s (fun t =>
              t = { s.setStack (u - 0x180) { y with calls := y.calls ++ [call] } with stores := rest }))
          ∧ (256 ≤ y.calls.length → Stalls (.callRecordStore k) s))
      ∧ (0x180 ≤ u → u ≤ 0x187 → 0x10000 ≤ o → o < 0x20000 → o + q.data.length ≤ 0x20000 → o % 8 = 0 → q.data.length = 8 ∨ q.whole = true →
          Answers (.broadcastWrite k) s (fun t => t = { s with mem := t.mem, stores := rest }
            ∧ (∀ j, j < q.data.length → t.mem.read (bufferKey (u - 0x180) (o - 0x10000 + j)) = q.data.getD j 0)
            ∧ ∀ j, ¬ (bufferKey (u - 0x180) (o - 0x10000) ≤ j ∧ j < bufferKey (u - 0x180) (o - 0x10000) + q.data.length) →
                t.mem.read j = s.mem.read j))
      ∧ (u = 0x1F0 → p < 16 → o % 0x1000 = 0 → q.data.length = 64 → q.whole = true → q.id.part = p → (s.part p).shut q.seq = false →
          ((s.part p).hdrs.length < 64 → Answers (.taskHeaderStore k) s (fun t =>
              t = { s.setPart p { s.part p with
                hdrs := (s.part p).hdrs ++ [{ words := wordsOf q.data, id := q.id, path := .window }] } with stores := rest }))
          ∧ (64 ≤ (s.part p).hdrs.length → Stalls (.taskHeaderStore k) s))

/-- R235, R237, R238, R241, R253, R254: a channel takes the record at CURRENT: while its guard is PEND it is HELD, with a FALSE guard
the record is discarded and counted, whatever its fields other than CKIND, CTAG, CLASP and NEXT hold; a record without OWN stops the
channel, one without a defined KIND is written back with RSVD and raises ENGINE, and one that cannot be read stops it with RECORD. A
pending stop, gang-stop or revocation takes effect before the next record, and no answer of another device is kept for it then. Which of two broken rules a status shows is the model's
reading (log 34). -/
def Obligations.CopyRecords : Prop :=
  ∀ (s : State) (c ch off : Nat), c < numCores → ch < 4 →
    let x := (s.core c).chan ch
    let ws := wordsOf (s.mem.loadBytes 64 (arrayKey c off))
    let w0 := wordAt ws 0
    let next := wordAt ws 1
    let slot := bitsAt w0 6 4
    let guard := if slot = 0 then 1 else bitsAt (s.core c).guards (2 * slot) 2
    let becomes (i : Instr) (y : Chan) : Prop := Answers i s (fun t =>
      t = s.setCore c { s.core c with chans := (s.core c).chans.set Chan.reset ch y })
    let leaves (i : Instr) (y : Chan) : Prop := Answers i s (fun t =>
      let u := s.dropAnswers (s.chanWork c ch false)
      t = u.setCore c { s.core c with chans := (s.core c).chans.set Chan.reset ch y }
        ∧ ∀ m ∈ u.msgs, m.chan = 16 + 4 * c + ch → m.id ≠ x.id)
    let goesOn (y : Chan) : Chan := if next = 0 then { y with current := 0, st := 0, reason := 1 } else { y with current := next }
    let kinds : List (Nat × Instr) := [(1, .linear c ch), (2, .tensor c ch), (3, .gather c ch), (4, .scatter c ch), (6, .expand c ch),
      (7, .repl c ch)]
    let fresh := x.record = [] ∧ x.begun = false ∧ x.done = 0 ∧ x.ahead = [] ∧ x.ended = none
    let ready := x.st = 1 ∧ fresh ∧ x.stopReq = false ∧ x.gangStop = false ∧ x.revoked = false
    let there := NamesRowByte x.current off ∧ off % 64 = 0 ∧ ∀ wr, RowOpen s x.id c (off / 256) wr
    (∀ e ∈ kinds,
      (ready → there → bitAt w0 4 = true → bitsAt w0 0 4 = e.1 →
          (guard = 0 → becomes e.2 { x with st := 2, record := ws })
          ∧ (guard = 2 → recEndsBad ws = false → bitsAt w0 10 2 = 0 → Answers e.2 s (fun t =>
              WritesBack s t c off 2 0 ∧ ChannelBecomes s t c ch (goesOn { x with discards := (x.discards + 1) % 65536 })
                ∧ ∀ j, ¬ (arrayKey c off ≤ j ∧ j < arrayKey c off + 8) → t.mem.read j = s.mem.read j)))
        ∧ (x.st = 1 ∨ x.st = 2 → fresh → x.stopReq = true →
            leaves e.2 { x with st := 0, reason := 4, stopReq := false, gangStop := false, revoked := false })
        ∧ (x.st = 1 ∨ x.st = 2 → fresh → x.stopReq = false → x.gangStop = true →
            leaves e.2 { x with st := 3, gangStop := false })
        ∧ (x.st = 1 ∨ x.st = 2 → fresh → x.stopReq = false → x.gangStop = false → x.revoked = true →
            leaves e.2 { x with st := 0, reason := 5, revoked := false })
        ∧ (x.st = 0 ∨ x.st = 3 → Stalls e.2 s))
      ∧ (ready → there → bitAt w0 4 = false → becomes (.linear c ch) { x with st := 0, reason := 2 })
      ∧ (ready → there → bitAt w0 4 = true → bitsAt w0 0 4 ∉ [1, 2, 3, 4, 6, 7] → guard = 1 → bitsAt w0 10 2 = 0 →
          x.id.host = false → x.id.row < 4096 → s.isContext x.id.core x.id.row = true → s.rowState x.id.core x.id.row = 2 →
          Answers (.linear c ch) s (fun t => WritesBack s t c off 3 0
            ∧ (t.core c).chan ch = { x with st := 0, err := true, fcode := 3, reason := 3 }
            ∧ (∃ e ∈ (t.core x.id.core).engTraps, e.1 = x.id.row)
            ∧ ∀ j, ¬ (arrayKey c off ≤ j ∧ j < arrayKey c off + 8) → t.mem.read j = s.mem.read j))
      ∧ (ready → NamesRowByte x.current off → off % 64 = 0 → off + 64 ≤ 2 ^ 20 → s.isContext c (off / 256) = false →
          s.rowDenied x.id.supIf c (off / 256) false = false → s.absent c = false → s.poisoned (arrayKey c off) 64 = true →
          x.id.host = false → s.isContext x.id.core x.id.row = true → s.rowState x.id.core x.id.row = 2 →
          Answers (.linear c ch) s (fun t => t.mem = s.mem
            ∧ (t.core c).chan ch = { x with st := 0, err := true, fcode := 12, reason := 3 }
            ∧ ∃ e ∈ (t.core x.id.core).engTraps, e.1 = x.id.row))

/-- R238, R242 to R251: a record whose guard is TRUE does its work, is written back with DONE and its units, and the channel goes on to
NEXT: LINEAR moves its bytes; a TENSOR line takes the codes of its elements, or FILL; GATHER and SCATTER move items by their indices,
and a combining SCATTER combines them; EXPAND writes the codes of its stream; REPL fills operand buffers. Beside the destination and the
word written back, nothing else changes. This is the step of spec/95, which does the whole of the work (log 63); what becomes of the
groups of a bad EC4 block is the model's reading (log 33). -/
def Obligations.CopyEffects : Prop :=
  ∀ (s : State) (c ch off : Nat), c < numCores → ch < 4 →
    let x := (s.core c).chan ch
    let ws := wordsOf (s.mem.loadBytes 64 (arrayKey c off))
    let w3 := wordAt ws 3
    let w4 := wordAt ws 4
    let next := wordAt ws 1
    let party := s.chanWork c ch false
    let byte (k : Nat) : Byte := s.mem.read (arrayKey c k)
    let goesOn : Chan := if next = 0 then { x with current := 0, st := 0, reason := 1 } else { x with current := next }
    let doneIn (u : State) (i : Instr) (n : Nat) (P : Nat → Prop) (Q : State → Prop) : Prop := Answers i s (fun t =>
      WritesBack u t c off 1 n ∧ ChannelBecomes u t c ch goesOn ∧ Q t
        ∧ ∀ j, ¬ (arrayKey c off ≤ j ∧ j < arrayKey c off + 8) → ¬ P j → t.mem.read j = u.mem.read j)
    let done := doneIn s
    let within (a n : Nat) (j : Nat) : Prop := arrayKey c a ≤ j ∧ j < arrayKey c a + n
    let record (k : Nat) : Prop := bitsAt (wordAt ws 0) 0 24 = k + 16 ∧ wordAt ws 6 = 0 ∧ wordAt ws 7 = 0
      ∧ copyMalformed next = false ∧ next.toNat % 64 = 0
    s.pause = none → x.st = 1 → x.record = [] → x.begun = false → x.done = 0 → x.ahead = [] → x.ended = none →
    x.stopReq = false → x.gangStop = false → x.revoked = false →
    NamesRowByte x.current off → off % 64 = 0 → (∀ wr, RowOpen s x.id c (off / 256) wr) →
    (∀ src dst n, record 1 → NamesRowByte (wordAt ws 2) src → NamesRowByte w3 dst → w4 = BitVec.ofNat 64 n → wordAt ws 5 = 0 →
        0 < n → n < 2 ^ 32 → n % 8 = 0 → src % 8 = 0 → dst % 8 = 0 → Apart src n dst n → Apart dst n off 64 →
        BytesOpen s x.id c src n false → BytesOpen s x.id c dst n true →
        done (.linear c ch) n (within dst n) (fun t => ∀ j, j < n → t.mem.read (arrayKey c (dst + j)) = byte (src + j)))
      ∧ (∀ la l (code : Nat → Nat) (st : Nat → State), record 2 → NamesRowByte (wordAt ws 2) la → la % 32 = 0 → w3 = 0 → w4 = 0 → wordAt ws 5 = 0 →
          BytesOpen s x.id c la 96 false → layoutOf (wordsOf (s.mem.loadBytes 96 (arrayKey c la))) = .ok l → l.lines = 1 →
          let row := (l.drow + l.rowOff 0) % 4096
          let n := l.sizeAt 0
          st 0 = s → (∀ i, i < n → if l.inBounds (l.coords 0 i) = true ∨ l.fill = 2
            then (st i).elemRead party l (l.clamp (l.coords 0 i)) = (.ok (code i), st (i + 1))
            else code i = (if l.fill = 1 then l.value else 0) ∧ st (i + 1) = st i) →
          let u := st n
          row ≠ off / 256 → RowOpen u x.id c row true → (∀ wr, RowOpen u x.id c (off / 256) wr) →
          doneIn u (.tensor c ch) 1 (within (256 * row) 256) (fun t =>
            (∀ i, i < n → (t.rowBits c row).extractLsb' (l.width * (l.lane + i)) l.width = BitVec.ofNat l.width (code i))
              ∧ ∀ b, b < 2048 → b < l.width * l.lane ∨ l.width * (l.lane + n) ≤ b →
                  (t.rowBits c row).getLsbD b = (s.rowBits c row).getLsbD b))
      ∧ (let q := itemsOf ws
        let v (i : Nat) : Nat := s.mem.loadNat 4 (arrayKey c (256 * q.irow + 4 * i))
        let oob (i : Nat) : Prop := q.bound ≠ 0 ∧ q.bound ≤ v i
        let place (i : Nat) : Nat := q.base.off + v i * q.pitch
        let item (i : Nat) : Nat := 256 * q.arow + i * q.isize
        let listed := q.base.rs = true ∧ BytesOpen s x.id c (256 * q.irow) (4 * q.n) false
          ∧ ∀ i, i < q.n → oob i → q.oobz = true
        (record 3 → itemsCheck ws false = none → listed → BytesOpen s x.id c (item 0) (q.n * q.isize) true →
            Apart (item 0) (q.n * q.isize) off 64 →
            (∀ i, i < q.n → ¬ oob i → BytesOpen s x.id c (place i) q.isize false ∧ Apart (place i) q.isize (item 0) (q.n * q.isize)) →
            done (.gather c ch) q.n (within (item 0) (q.n * q.isize)) (fun t => ∀ i j, i < q.n → j < q.isize →
              (oob i → t.mem.read (arrayKey c (item i + j)) = 0)
                ∧ (¬ oob i → t.mem.read (arrayKey c (item i + j)) = byte (place i + j))))
          ∧ (record 4 → itemsCheck ws true = none → listed → q.mode = false → BytesOpen s x.id c (item 0) (q.n * q.isize) false →
              (∀ i, i < q.n → ¬ oob i → BytesOpen s x.id c (place i) q.isize true ∧ Apart (place i) q.isize (item 0) (q.n * q.isize)
                ∧ Apart (place i) q.isize off 64
                ∧ ∀ k, k < q.n → k ≠ i → ¬ oob k → Apart (place i) q.isize (place k) q.isize) →
              done (.scatter c ch) q.n (fun j => ∃ i, i < q.n ∧ ¬ oob i ∧ within (place i) q.isize j) (fun t =>
                ∀ i j, i < q.n → j < q.isize → ¬ oob i → t.mem.read (arrayKey c (place i + j)) = byte (item i + j)))
          ∧ (record 4 → itemsCheck ws true = none → listed → q.mode = true → q.n = 1 → ¬ oob 0 →
              BytesOpen s x.id c (item 0) q.isize false → BytesOpen s x.id c (place 0) q.isize true →
              Apart (place 0) q.isize (item 0) q.isize → Apart (place 0) q.isize off 64 →
              let w := if q.cop = 3 then 8 else 4
              let kind := if q.cop = 0 ∨ q.cop = 1 ∨ q.cop = 4 then 2 else 0
              let op := if q.cop = 1 then 3 else if q.cop = 4 then 2 else if q.cop = 5 then 5 else 0
              let old (e : Nat) : Nat := s.mem.loadNat w (arrayKey c (place 0 + w * e))
              let y (e : Nat) : Nat := s.mem.loadNat w (arrayKey c (item 0 + w * e))
              place 0 % w = 0 →
              done (.scatter c ch) 1 (within (place 0) q.isize) (fun t => ∀ e, w * e < q.isize →
                t.mem.loadNat w (arrayKey c (place 0 + w * e))
                  = if kind = 2 then famoNew op (old e) (y e) else amoNew op (8 * w) (old e) (y e))))
      ∧ (∀ g u, record 6 → bitsAt w3 12 52 = 0 → bitsAt w4 4 4 = 0 → wordAt ws 5 = 0 → (wordAt ws 2).toNat < 2 ^ 57 →
          let a := (wordAt ws 2).toNat
          let fmt := bitsAt w4 0 4
          let size := if fmt = 4 ∨ fmt = 5 ∨ fmt = 6 then 1 else 2
          let drow := bitsAt w3 0 12
          1 ≤ fmt → fmt ≤ 6 → vaRegion a = 0 → s.isLocal a = true → a % 32 = 0 → bitsAt w4 8 24 = 64 → bitsAt w4 32 32 ≠ 0 →
          decodeStream (fun d n (v : State) => v.workLoad party ((globalAddr a).plus d) n) fmt (bitsAt w4 32 32) 1 0 1 s
            = { groups := [g], stop := none, state := u } → g.length = 64 →
          drow ≠ off / 256 → RowOpen u x.id c drow true → (∀ wr, RowOpen u x.id c (off / 256) wr) →
          doneIn u (.expand c ch) 1 (within (256 * drow) 256) (fun t => ∀ i, i < 64 →
            t.mem.loadNat size (arrayKey c (256 * drow + size * i)) = g.getD i 0 % 256 ^ size))
      ∧ (∀ src, record 7 → NamesRowByte (wordAt ws 2) src → bitsAt w3 4 12 = 0 → bitsAt w3 32 32 = 0 → bitsAt w4 17 47 = 0 →
          wordAt ws 5 = 0 →
          let boff := bitsAt w3 16 16
          let n := bitsAt w4 0 17
          let named (k : Nat) : Prop := k < 8 ∧ (bitAt w3 3 = false → k = bitsAt w3 0 3)
          (bitAt w3 3 = true → bitsAt w3 0 3 = 0) → 0 < n → n % 8 = 0 → boff % 8 = 0 → boff + n ≤ 65536 → src % 8 = 0 →
          BytesOpen s x.id c src n false →
          done (.repl c ch) n (fun j => ∃ k, named k ∧ bufferKey k boff ≤ j ∧ j < bufferKey k boff + n) (fun t =>
            ∀ k j, named k → j < n → t.mem.read (bufferKey k (boff + j)) = byte (src + j)))

/-- R265 to R267, R273 to R279, R283 to R285: the head call of a stack does the work of its entry and leaves the queue: GEMV adds the
group sums of weights and operands to 0, or to the prior output; AXPY adds the product; GATHER-ROWS moves table rows; EXPAND writes
decoded elements; REDUCE-MAX writes the first largest element and its index, or the first NaN. A call without a start ends at once, one
under a revocation with LEASE before any access, one that was stopped with ABORTED and the units it has done; one of another entry, and
every one under a bank that was loaded in service, ends as its micro-words say: a reserved value gives RSVD, a word with SEQ 3 its ERRCODE;
a swap takes effect between calls. This is the step of spec/95, which does the whole of the work (log 63); that entries 0 to 6 do this under
bank A as bring-up loads it is the model's reading (log 21). -/
def Obligations.BankEntries : Prop :=
  ∀ (s : State) (k : Nat) (q : Call), k < 8 → (s.stack k).calls = [q] →
    let y := s.stack k
    let ws := q.words
    let entry := bitsAt (wordAt ws 0) 0 8
    let party := callWork k q.id false
    let silent := callBad ws = false ∧ bitsAt (wordAt ws 0) 8 2 = 0
    let fresh := q.run = CallRun.start ∧ q.ended = none
    let begins := s.entryStart k entry ≠ 0xFF ∧ y.pendswap = false ∧ q.abort = false ∧ fresh ∧ s.pause = none
    let runs (e : Nat) : Prop := silent ∧ wordAt ws 6 = 0 ∧ entry = e ∧ begins ∧ y.loaded = false ∧ q.late = false ∧ s.callTouches k q = false
    let states (u v : State) (status units : Nat) : Prop :=
      u.workWrite party (globalAddr (bitsAt (wordAt ws 6) 0 57)) (bytesOfNat 8 (status + entry * 2 ^ 8 + units * 2 ^ 32)) = (.ok (), v)
    let ends (i : Instr) (u : State) : Prop := Answers i s (fun t => t = u.setStack k { u.stack k with calls := [] })
    let writes (i : Instr) (d r n : Nat) (P : State → Prop) : Prop := Answers i s (fun t =>
      t = { s.setStack k { y with calls := [] } with mem := t.mem, poison := t.poison } ∧ P t
        ∧ ∀ j, ¬ (rowKey d r 0 ≤ j ∧ j < rowKey d r 0 + n) → t.mem.read j = s.mem.read j)
    let d := bitsAt (wordAt ws 5) 0 8
    let r := bitsAt (wordAt ws 5) 8 12
    let x (off : Nat) : Val := Fmt.bf16.decode (s.mem.loadNat 2 (bufferKey k off))
    let entries : List (Nat × Instr) := [(0, .gemv k), (1, .gemvAccumulate k), (2, .gemvBatch k), (3, .axpy k), (4, .gatherRows k),
      (5, .expandEntry k), (6, .reduceMax k)]
    (∀ e ∈ entries, e.1 ≤ 2 → runs e.1 → s.gemvCheck ws = none → RowServes s q.id d r →
        let a := gemvArgs ws
        ∀ gs, a.n = 1 → a.nv = 1 →
          decodeStream (fun off n (u : State) => State.streamRead party a.wva k [] (n + 1) off n u) a.fmt (2 ^ 60) (a.ks / 64) 0 (a.ks / 64) s
            = { groups := gs, stop := none, state := s } →
          let term (i : Nat) : Val := (x (a.boff + 2 * (a.koff + i))).mul (elemVal a.fmt (gs.flatten.getD i 0))
          writes e.2 d r 4 (fun t => t.mem.loadNat 4 (rowKey d r 0) = (List.range (a.ks / 16)).foldl
            (fun (z : Nat) g => accGroup z (groupCode (signedSum ((List.range 16).map (fun i => term (16 * g + i))))))
            (if e.1 = 1 then s.mem.loadNat 4 (rowKey d r 0) else 0)))
      ∧ (runs 3 → bitsAt (wordAt ws 1) 57 7 = 0 → wordAt ws 3 = 0 → bitsAt (wordAt ws 4) 16 48 = 0 → wordAt ws 5 = 0 →
          let a := bitsAt (wordAt ws 1) 0 57
          let boff := bitsAt (wordAt ws 4) 0 16
          vaRegion a = 0 → s.isLocal a = true → a % 4 = 0 → a / 256 % 8 = k → bitsAt (wordAt ws 2) 0 32 = 1 → boff + 2 ≤ 65536 →
          ∀ bs v u, s.workRead party (globalAddr a) 4 = (.ok bs, v) → v.pause = none →
            v.workWrite party (globalAddr a) (bytesOfNat 4 (rnd .fp32 0 true (Val.add 0
              ((Fmt.fp32.decode (bitsAt (wordAt ws 2) 32 32)).mul (Fmt.bf16.decode (v.mem.loadNat 2 (bufferKey k boff))))
              (Fmt.fp32.decode (natOfBytes bs))))) = (.ok (), u) →
            u.pause = none → ends (.axpy k) u)
      ∧ (runs 4 → bitsAt (wordAt ws 1) 57 7 = 0 → bitsAt (wordAt ws 3) 45 19 = 0 → bitsAt (wordAt ws 4) 16 48 = 0 →
          bitsAt (wordAt ws 5) 20 44 = 0 → RowServes s q.id d r →
          let tva := bitsAt (wordAt ws 1) 0 57
          let pitch := bitsAt (wordAt ws 2) 32 32
          let boff := bitsAt (wordAt ws 4) 0 16
          let index := s.mem.loadNat 4 (bufferKey k boff)
          vaRegion (tva + index * pitch) = 0 → s.isLocal (tva + index * pitch) = true → tva % 256 = 0 → pitch % 256 = 0 → boff % 4 = 0 → boff + 4 ≤ 65536 →
          bitsAt (wordAt ws 3) 0 32 = 256 → bitsAt (wordAt ws 3) 32 13 = 1 → index < bitsAt (wordAt ws 2) 0 32 →
          (tva + index * pitch) / 256 % 8 = k →
          ∀ bs, s.workLoad party (globalAddr (tva + index * pitch)) 256 = (.ok bs, s) → bs.length = 256 →
            writes (.gatherRows k) d r 256 (fun t => ∀ j, j < 256 → t.mem.read (rowKey d r j) = bs.getD j 0))
      ∧ (runs 5 → bitsAt (wordAt ws 1) 61 3 = 0 → bitsAt (wordAt ws 3) 57 7 = 0 → wordAt ws 4 = 0 → wordAt ws 5 = 0 →
          let wva := bitsAt (wordAt ws 1) 0 57
          let fmt := bitsAt (wordAt ws 1) 57 4
          let dva := bitsAt (wordAt ws 3) 0 57
          1 ≤ fmt → fmt ≤ 7 → wva % 2048 = 0 → vaRegion wva = 0 → s.isLocal wva = true → vaRegion dva = 0 → s.isLocal dva = true →
          dva % elemBytes fmt = 0 → bitsAt (wordAt ws 2) 0 32 = 64 →
          ∀ g v u, decodeStream (fun off n (v : State) => State.streamRead party wva k [] (n + 1) off n v) fmt (bitsAt (wordAt ws 2) 32 32) 1 0 1 s
              = { groups := [g], stop := none, state := v } → v.pause = none →
            v.workStore party (globalAddr dva) (g.flatMap (fun c => bytesOfNat (elemBytes fmt) c)) = (.ok (), u) → u.pause = none →
            ends (.expandEntry k) u)
      ∧ (runs 6 → bitsAt (wordAt ws 1) 57 7 = 0 → bitsAt (wordAt ws 2) 32 32 = 0 → wordAt ws 3 = 0 → wordAt ws 4 = 0 →
          bitsAt (wordAt ws 5) 20 44 = 0 → RowServes s q.id d r →
          let va := bitsAt (wordAt ws 1) 0 57
          let n := bitsAt (wordAt ws 2) 0 32
          let here (i : Nat) : Prop := i < n ∧ vaRegion (va + 4 * i) = 0 ∧ s.isLocal (va + 4 * i) = true ∧ (va + 4 * i) / 256 % 8 = k
          vaRegion va = 0 → s.isLocal va = true → va % 4 = 0 →
          ∀ code : Nat → BitVec 32,
            (∀ i, here i → s.workRead party (globalAddr (va + 4 * i)) 4 = (.ok (bytesOfNat 4 (code i).toNat), s)) →
            let puts (v : BitVec 32) (i : Word) : Prop := writes (.reduceMax k) d r 16 (fun t =>
              t.mem.loadNat 8 (rowKey d r 0) = v.toNat ∧ t.mem.loadNat 8 (rowKey d r 8) = i.toNat)
            ((∀ i, ¬ here i) → puts 0xFF800000#32 (BitVec.allOnes 64))
              ∧ (∀ i, here i → fpNan (code i) = true → (∀ j, here j → j < i → fpNan (code j) = false) →
                  puts fpCanonical (BitVec.ofNat 64 i))
              ∧ (∀ i, here i → (∀ j, here j → fpNan (code j) = false) → (∀ j, here j → fpBelow (code i) (code j) = false) →
                  (∀ j, here j → j < i → fpBelow (code j) (code i) = true) → puts (code i) (BitVec.ofNat 64 i)))
      ∧ (∀ e ∈ entries, silent → wordAt ws 6 = 0 → s.entryStart k entry = 0xFF → y.pendswap = false → q.abort = false → fresh → ends e.2 s)
      ∧ (∀ e ∈ entries, silent → wordAt ws 6 ≠ 0 → begins → 6 < entry ∨ entry = e.1 →
          (q.late = true ∨ s.callTouches k q = true → ∀ u, states s u 8 0 → ends e.2 u)
          ∧ (q.late = false → s.callTouches k q = false → 6 < entry ∨ y.loaded = true →
            let w := s.microWord k (s.entryStart k entry)
            let drawn : State := { s with draws := s.draws + 1 }
            (microBad w = true → ∀ u, states drawn u 3 0 → ends e.2 u)
              ∧ (microBad w = false → w / 2 ^ 8 % 4 = 3 → w / 2 ^ 14 % 16 ∉ [2, 3] → w / 2 ^ 31 % 16 ≠ 4 → w / 2 ^ 39 % 16 ≤ 1 →
                ∀ u, states drawn u (w / 2 ^ 67 % 64) (w / 2 ^ 73 % 2) → ends e.2 u)))
      ∧ (∀ e ∈ entries, y.pendswap = true → fresh → Stalls e.2 s)
      ∧ (q.abort = true → q.ended = none → silent → wordAt ws 6 = 0 → ends (.callAbort k) s)
      ∧ (q.abort = true → q.ended = none → silent → wordAt ws 6 ≠ 0 → ∀ u, states s u 14 (q.run.units % 2 ^ 32) → ends (.callAbort k) u)
      ∧ (q.abort = false → Stalls (.callAbort k) s)
      ∧ (y.pendswap = true → q.abort = true → fresh → Answers (.heartwoodSwap k) s (fun t =>
          t = s.setStack k { y with actbank := !y.actbank, pendswap := false }))
      ∧ (q.run ≠ CallRun.start → Stalls (.heartwoodSwap k) s)
      ∧ (y.pendswap = false → Stalls (.heartwoodSwap k) s)

/-! ### The fabric -/

/-- R309, R313, R316 to R318, R320, R322 to R324: a message at its destination is performed under the identity that ADMIT gives it and
is answered: a WRITE stores its data and counts, a READ and an ATOMIC answer with what they read, a COUNT arrives at its clasp, and a
POST enters the ring of its class as room comes, advances TAILIDX and counts for OWNER under the posting row. A message that counts is
done, and answered, once its count has reached its clasp (R317, R318, R327). A `send` over slot 0 of a context row that R71 forbids is
refused whole, with a record and its cause (R323; which message is a `send` is the model's choice, log 86). An engine's READ or ATOMIC reaches no context row (R239). One that is not admitted answers PROT. The fields of an
answer are the model's reading (log 31), which of `amo` and `famo` an operation asks for is a free value (log 30), and that every count
of another device is consumed at system scope is the model's choice (log 62). -/
def Obligations.FabricMessages : Prop :=
  ∀ (s : State) (k : Nat) (m : Msg), s.msgs[k]? = some m → m.remote = false → s.msgTurn k m = true → s.isLocal m.addr = true →
    let n := m.data.length
    let serves (i : Instr) (u : State) (P : State → State → Prop) : Prop := Answers i s (fun t => ∃ w, Leaves u w k m ∧ P w t)
    let c := vaUnit m.addr
    let r := vaOff m.addr / 256
    let head := (s.ring c m.cls).1
    let tail := bitsAt (s.slot c head 1) 0 32
    let at_ := tail % (4 * ((s.ring c m.cls).2 - 1))
    let key := rowKey c (head + 1 + at_ / 4) (64 * (at_ % 4))
    let owner := bitsAt (s.slot c head 2) 0 12
    let posts (i : Instr) : Prop := i = .postMessage k ∨ (i = .ringAppend c m.cls ∧ ∀ a ∈ s.msgs.take k,
      ¬ (a.mkind = 6 ∧ a.remote = false ∧ s.isLocal a.addr = true ∧ vaUnit a.addr = c ∧ a.cls = m.cls))
    (∀ id, Admits s m id → s.gone id m.addr m.seq = false →
      (∀ u, m.mkind = 1 → m.aux = 0 → s.unitOff m.addr = false → s.headerBarred m = false → m.addr % 64 + n ≤ 64 →
          s.sendDenied id m = none → s.anyStore id m.addr m.data (decide (8 < n)) m.seq = (.ok (), u) → u.dataWaits id m.addr = false → vaRegion m.addr % 2 = 0 →
          (m.count = none → serves (.write k) u (fun w t => Replies w t m 7 0 []))
            ∧ (∀ v, m.count = some v → bitsAt v 0 10 = 0x3FF → u.undeliverable id (bitsAt v 10 8) (bitsAt v 18 12) = none →
                let arrival : Arrival := {
                  core := bitsAt v 10 8, row := bitsAt v 18 12, n := bitsAt v 30 12, id := id, sys := true }
                Answers (.write k) s (fun t =>
                  t = { u with arrivals := u.arrivals ++ [arrival], msgs := u.msgs.set k { m with aux := 2 } })))
        ∧ (m.mkind = 1 → m.aux = 0 → s.unitOff m.addr = false → m.addr % 64 + n ≤ 64 → vaRegion m.addr = 2 → c < 256 →
            vaOff m.addr < 2 ^ 20 → s.asleep (c / 4) = false →
            m.id.host = true ∨ m.id.node = 0x3FF ∨ m.count.isSome = true ∨ m.ackreq = true ∨ m.cls ≠ 1 →
            let slot0 := vaOff m.addr % 256 < 8 ∧ s.isContext c r = true
            (¬ slot0 → s.sendDenied id m = none)
              ∧ (slot0 → id.part ≠ s.partid c ∨ s.rowDenied id c r true = true → PartDrops s (s.partid c) →
                  Answers (.write k) s (fun t => ∃ w, Leaves s w k m
                    ∧ Replies { w with mgmt := { w.mgmt with dropped := w.mgmt.dropped + 1 } } t m 7 Cause.prot.code []))
              ∧ (slot0 → id.part = s.partid c → s.rowDenied id c r true = false →
                  s.partlyPoisoned (c * 2 ^ 20 + vaOff m.addr) n = false → s.sendDenied id m = none))
        ∧ (∀ v, m.mkind = 1 → m.aux = 2 → m.count = some v →
            (s.countOnWay id (countVa v) = true → Stalls (.write k) s)
              ∧ (s.countOnWay id (countVa v) = false → serves (.write k) s (fun w t => Replies w t m 7 0 [])))
        ∧ (∀ cause u, m.mkind = 2 → s.unitOff m.addr = false → s.engineBarred m = false → m.addr % 64 + n ≤ 64 → s.anyLoad id m.addr n (decide (8 < n)) = (.fault cause, u) →
            serves (.read k) u (fun w t => Replies w t m 3 cause.code (List.replicate n 0)))
        ∧ (∀ bs u, m.mkind = 2 → s.unitOff m.addr = false → s.engineBarred m = false → m.addr % 64 + n ≤ 64 → s.anyLoad id m.addr n (decide (8 < n)) = (.ok bs, u) →
            serves (.read k) u (fun w t => Replies w t m 3 0 bs))
        ∧ (m.mkind = 2 → s.unitOff m.addr = false → s.engineBarred m = true →
            serves (.read k) s (fun w t => Replies w t m 3 6 (List.replicate n 0)))
        ∧ (∀ a old u, m.mkind = 4 → s.unitOff m.addr = false → s.engineBarred m = false → messageOp m.aux m.data (Config.famoMessage s.draws) = some a → m.addr % a.size = 0 →
            State.anyAtomic { s with draws := s.draws + 1 } id m.addr a = (.ok old, u) →
            serves (.atomic k) u (fun w t => Replies w t m 3 0 (bytesOfNat a.size old)))
        ∧ (∀ a, m.mkind = 4 → s.unitOff m.addr = false → s.engineBarred m = true →
            messageOp m.aux m.data (Config.famoMessage s.draws) = some a →
            serves (.atomic k) { s with draws := s.draws + 1 } (fun w t => Replies w t m 3 6 (List.replicate a.size 0)))
        ∧ (m.mkind = 5 → m.aux ≠ 2 → vaRegion m.addr = 2 → c < 256 → vaOff m.addr < 2 ^ 20 → s.undeliverable id c r = none →
            let arrival : Arrival := {
              core := c, row := r, n := bitsAt (m.count.getD 0) 30 12, id := id, sys := m.sys || id.node != 0x3FF }
            Answers (.count k) s (fun t =>
              t = { s with arrivals := s.arrivals ++ [arrival], msgs := s.msgs.set k { m with aux := 2 } }))
        ∧ (m.mkind = 5 → m.aux = 2 →
            (s.countOnWay id m.addr = true → Stalls (.count k) s)
              ∧ (s.countOnWay id m.addr = false → serves (.count k) s (fun w t => Replies w t m 7 0 [])))
        ∧ (m.mkind = 6 → m.aux ≠ 2 → vaRegion m.addr = 2 → c < 256 → vaOff m.addr < 256 → id.part = s.partid c →
            (s.ring c m.cls).2 ≠ 0 → s.absent c = false → (s.part (s.partid c)).shut m.seq = false → s.asleep (c / 4) = false →
            s.poisoned (rowKey c head 0) 32 = false → ∀ i, posts i →
            (s.ringRoom c m.cls = false → Stalls i s)
              ∧ (s.ringRoom c m.cls = true → n = 64 → s.undeliverable id c owner = none →
                  let counts := bitAt (s.slot c head 2) 12
                  let entered (v : State) : Prop := v = { s with mem := v.mem, poison := v.poison, arrivals := v.arrivals }
                    ∧ (∀ j, j < 64 → v.mem.read (key + j) = m.data.getD j 0)
                    ∧ bitsAt (v.slot c head 1) 0 32 = (tail + 1) % 2 ^ 32
                    ∧ (∀ j, ¬ (key ≤ j ∧ j < key + 64) → ¬ InSlot c head 1 8 j → v.mem.read j = s.mem.read j)
                    ∧ v.arrivals = s.arrivals ++ (if counts
                        then [{ core := c, row := owner, n := 1, id := id, sys := m.sys || id.node != 0x3FF }] else [])
                  let owed : Word := word (0x3FF + c * 2 ^ 10 + owner * 2 ^ 18 + 2 ^ 30)
                  ∃ v, entered v
                    ∧ (counts = true ∨ s.countOnWay id (countVa owed) = true → Answers i s (fun t =>
                        t = { v with msgs := s.msgs.set k { m with aux := 2, count := some owed } }))
                    ∧ (counts = false → s.countOnWay id (countVa owed) = false → serves i v (fun w t => Replies w t m 7 0 []))))
        ∧ (m.mkind = 6 → m.aux = 2 → ∀ i, posts i →
            (s.countOnWay id (countVa (m.count.getD 0)) = true → Stalls i s)
              ∧ (s.countOnWay id (countVa (m.count.getD 0)) = false → serves i s (fun w t => Replies w t m 7 0 []))))
      ∧ (Refuses s m → m.mkind = 2 → serves (.read k) s (fun w t => Replies w t m 3 6 (List.replicate n 0)))

/-- R309, R317, R324, R327: a RESP gives its data and status to the oldest request of its row, class, device and address; an ACK ends a
message of a row, sets the tag ACKTAG when it carries ACKREQ, and settles its store, which a status refuses; an engine's request keeps
its answer until it is taken, or drops it where its work has ended (R241). An answer without a request is dropped. Which request an answer belongs to is the model's reading (log
31). -/
def Obligations.FabricAnswers : Prop :=
  ∀ (s : State) (k : Nat) (m : Msg), s.msgs[k]? = some m → m.remote = false → s.msgTurn k m = true → s.isLocal m.addr = true →
    let requests (kinds : List Nat) (q : Msg) : Bool := q.remote && kinds.contains q.mkind && q.cls == m.cls
      && vaNode q.addr == m.id.node && (if q.id.host then 0xFF else q.id.core) == m.id.core && q.id.row == m.id.row
      && q.addr % 2 ^ 47 == m.addr % 2 ^ 47
    let held (i : Instr) (j : Nat) (q : Msg) : Prop := Answers i s (fun t => Leaves { s with msgs := s.msgs.set j q } t k m)
    let gone (i : Instr) (j : Nat) (q : Msg) (P : State → State → Prop) : Prop := Answers i s (fun t => ∃ w,
      Leaves { s with msgs := s.msgs.set j { q with mkind := 0 } } w k m
        ∧ P { w with msgs := w.msgs.filter (fun x => x.mkind != 0) } t)
    (m.mkind = 3 → s.msgs.findIdx? (requests [2, 4]) = none → Answers (.resp k) s (fun t => Leaves s t k m))
      ∧ (m.mkind = 7 → s.msgs.findIdx? (requests [1, 5, 6]) = none → Answers (.ack k) s (fun t => Leaves s t k m))
      ∧ (∀ j q, m.mkind = 3 → s.msgs.findIdx? (requests [2, 4]) = some j → s.msgs[j]? = some q →
          (q.chan ≠ 15 → held (.resp k) j { q with
              mkind := 3, aux := m.aux, data := if q.mkind = 2 then (m.data ++ q.data).take q.data.length else m.data })
            ∧ (q.chan = 15 → gone (.resp k) j q (fun w t => t = w)))
      ∧ (∀ j q, m.mkind = 7 → s.msgs.findIdx? (requests [1, 5, 6]) = some j → s.msgs[j]? = some q →
          (q.chan ∉ [0, 14, 15] → held (.ack k) j { q with mkind := 7, aux := m.aux })
            ∧ (q.chan ∈ [0, 14, 15] →
                let ended := gone (.ack k) j q
                (q.mkind ≠ 1 → m.ackreq = false → ended (fun w t => t = w))
                  ∧ (q.mkind ≠ 1 → m.ackreq = true → ended (fun w t =>
                      (t.core q.id.core).tags = (w.core q.id.core).tags ||| BitVec.ofNat 64 (2 ^ m.acktag) ∧ t.msgs = w.msgs))
                  ∧ (q.mkind = 1 → m.ackreq = false → s.stores.findIdx? (fun x => x.sent && x.seq == q.seq) = none → ended (fun w t => t = w))
                  ∧ (∀ i p, q.mkind = 1 → m.ackreq = false → s.stores.findIdx? (fun x => x.sent && x.seq == q.seq) = some i →
                      s.stores[i]? = some p →
                      (m.aux = 0 → ended (fun w t => t = { w with stores := s.stores.eraseIdx i }))
                        ∧ (∀ l cause, m.aux ≠ 0 → p.id.host = false → s.latch? p.id.core p.id.row = some l → l.intent = .run →
                            Cause.code cause = m.aux → ended (fun w t => Defers { w with stores := s.stores.eraseIdx i } t
                              p.id.core p.id.row l { cause := cause, pc := p.pc, code := 0, deferred := true, len := p.len })))))

/-- R304 to R309, R312, R328 to R330: the 80 bytes of a flit give its fields back; a flit that is damaged or out of order is answered
with one NAK, and one in order is taken, with the credits and the acknowledgement that it carries; a NAK resends what is not
acknowledged, and retraining loses nothing. A message for another device leaves on its link when it has credits. Beacons move the offset
of a device, and without them its timebase is stale. The words of a beacon and its delay are the model's reading (log 35), and so is
when a message waits for a route that changes (log 36); the first SEQ and ACK are the model's choice (log 61). A write that leaves is
logged first (R87). -/
def Obligations.LinksAndBeacons : Prop :=
  ∀ (s : State) (n : Nat), n < 18 →
    let l := s.link n
    let becomes (i : Instr) (y : LinkSt) : Prop := Answers i s (fun t => t = s.setLink n y)
    let nak : Flit := {
      payload := [], seq := l.txSeq, ack := l.rxSeq, vl := 0, fkind := 4, last := false, cred := 0, credvl := 0 }
    let refused : LinkSt := if l.naked then l else { l with naked := true, sent := l.sent ++ [nak.encode] }
    let due := l.retrain = false ∧ l.replay.length < 512
    let signed (w : Word) : Int := w.toInt
    (∀ f : Flit, f.payload.length = 64 → f.seq < 4096 → f.ack < 4096 → f.vl < 4 → f.fkind ≤ 4 → f.cred < 256 → f.credvl < 4 →
        flitOf (bytesOfNat 80 f.encode.toNat) = some f)
      ∧ (∀ bs, l.retrain = true → Stalls (.flit n bs) s)
      ∧ (∀ bs, l.retrain = false → flitOf bs = none → becomes (.flit n bs) refused)
      ∧ (∀ bs f, l.retrain = false → flitOf bs = some f → f.fkind = 1 ∨ f.fkind = 2 ∨ f.fkind = 3 → f.seq ≠ (l.rxSeq + 1) % 4096 →
          becomes (.flit n bs) refused)
      ∧ (∀ bs f m, l.retrain = false → flitOf bs = some f → f.fkind = 1 → f.last = true → f.seq = (l.rxSeq + 1) % 4096 →
          messageOf n f.vl s.seq f.payload = some m → s.fabric.nextRoute = [] →
          (∀ a ∈ s.msgs, a.cls = m.cls → s.bufferOf m ≠ none → s.bufferOf a ≠ s.bufferOf m) → Answers (.flit n bs) s (fun t =>
            t = { s with msgs := s.msgs ++ [{ m with inCore := (s.bufferOf m).isSome }], links := t.links, seq := s.seq + 1 }
              ∧ (∀ h, h ≠ n → t.link h = s.link h)
              ∧ (∀ v, (t.link n).owed.get 0 v
                  = l.owed.get 0 v + (if v = m.cls ∧ s.bufferOf m ≠ none then (s.flitsOf m).length else 0))
              ∧ (t.link n).rxSeq = f.seq ∧ (t.link n).naked = false
              ∧ (t.link n).credits.get 128 f.credvl = l.credits.get 128 f.credvl + f.cred
              ∧ (∀ v, v ≠ f.credvl → (t.link n).credits.get 128 v = l.credits.get 128 v)
              ∧ match l.replay.findIdx? (fun g => flitSeq g == f.ack) with
                | none => (t.link n).replay = l.replay
                | some i => (t.link n).replay = l.replay.drop (i + 1)))
      ∧ (∀ bs f, l.retrain = false → flitOf bs = some f → f.fkind = 3 → f.seq = (l.rxSeq + 1) % 4096 → s.fabric.nextRoute = [] →
          Answers (.flit n bs) s (fun t => t = { s with links := t.links } ∧ (∀ h, h ≠ n → t.link h = s.link h)
            ∧ (t.link n).rxSeq = f.seq
            ∧ (t.link n).beacon = some ((wordsOf f.payload).take 3 ++ [s.time,
                match (l.beacons.filter (fun b => !(t.link n).replay.any (fun g => flitSeq g == b.1))).getLast? with
                | none => 0
                | some b => b.2])))
      ∧ (l.resend = false → Stalls (.nak n) s)
      ∧ (l.resend = true → becomes (.nak n) { l with
          resend := false, sent := l.sent ++ l.replay, resends := l.resends.map (fun k => k + 1)
          retrain := l.retrain || l.resends.any (fun k => decide (15 ≤ k)) })
      ∧ becomes (.linkRetrain n) { l with
          retrain := false, resends := l.resends.map (fun _ => 0), naked := false, resend := !l.replay.isEmpty }
      ∧ (due → Answers (.beaconSend n) s (fun t => ∃ f : Flit, f.fkind = 3 ∧ f.payload = bytesOfWords [s.time, l.echoTx, l.echoRx]
          ∧ f.seq = (l.txSeq + 1) % 4096 ∧ f.ack = l.rxSeq ∧ f.last = true ∧ t = { s with links := t.links } ∧ (∀ h, h ≠ n → t.link h = s.link h)
          ∧ (t.link n).sent = l.sent ++ [f.encode] ∧ (t.link n).replay = l.replay ++ [f.encode]
          ∧ (t.link n).txSeq = f.seq ∧ (t.link n).beacons = l.beacons ++ [(f.seq, s.time)]))
      ∧ (¬ due → Stalls (.beaconSend n) s)
      ∧ (l.beacon = none → Stalls (.beacon n) s)
      ∧ (∀ ws, l.beacon = some ws →
          let tB := ws.getD 0 0
          let rx := ws.getD 3 0
          let echo := ws.getD 4 0
          let d := signed ((rx - echo) - (tB - ws.getD 2 0)) / 2
          let off := signed tB + d - signed rx
          let u := s.setLink n { l with beacon := none, echoTx := echo, echoRx := rx }
          let runs := ∃ x ∈ s.allRows, running (s.rowState x.1 x.2) = true
          (s.fabric.tparent ≠ n → Answers (.beacon n) s (fun t => t = u))
            ∧ (s.fabric.tparent = n → s.fabric.step = false ∨ runs → Answers (.beacon n) s (fun t => t = { u with
                fabric := { u.fabric with offset := off, stale := false, step := false, lastBeacon := s.time } }))
            ∧ (s.fabric.tparent = n → s.fabric.step = true → ¬ runs → Answers (.beacon n) s (fun t => t = { u with
                time := BitVec.ofInt 64 (signed s.time + off)
                fabric := { u.fabric with
                  offset := 0, stale := false, step := false, lastBeacon := BitVec.ofInt 64 (signed s.time + off) } })))
      ∧ (let stale := s.fabric.tparent ≠ 31 ∧ s.fabric.stale = false ∧ 100000 ≤ (s.time - s.fabric.lastBeacon).toNat
        (stale → Answers .timebaseStale s (fun t => t = { s with
          fabric := { s.fabric with stale := true }
          mgmt := { s.mgmt with alerts := s.mgmt.alerts ++ [65538] } }))
          ∧ (¬ stale → Stalls .timebaseStale s))
      ∧ (∀ (k : Nat) (m : Msg), s.msgs[k]? = some m → m.remote = false → s.msgTurn k m = true → s.isLocal m.addr = false → m.via = 0 →
          m.mkind ∈ [1, 2, 4, 5, 6] → m.id.host = true ∨ m.id.node = 0x3FF → s.fabric.route.get 31 (vaNode m.addr) = n → l.retrain = false →
          (∀ e ∈ s.fabric.nextRoute, e.1 ≠ vaNode m.addr) → l.replay.length + (s.flitsOf m).length ≤ 512 →
          let size := (s.flitsOf m).length
          (∀ u, size ≤ l.credits.get 128 m.cls → s.logLeaving m = some u → Answers (messageStep k m) s (fun t =>
            t = { u with msgs := s.msgs.set k { m with remote := true }, links := t.links } ∧ (∀ h, h ≠ n → t.link h = s.link h)
              ∧ (t.link n).credits.get 128 m.cls = l.credits.get 128 m.cls - size
              ∧ (t.link n).sent.length = l.sent.length + size ∧ (t.link n).replay.length = l.replay.length + size))
            ∧ (vaRegion m.addr = 2 ∨ vaRegion m.addr = 3 ∨ m.mkind ∈ [2, 5, 6] → s.logLeaving m = some s)
            ∧ (s.logLeaving m = none → Stalls (messageStep k m) s)
            ∧ (l.credits.get 128 m.cls < size → Stalls (messageStep k m) s))

/-! ### Registers that the host writes -/

/-- R312, R314, R332, R397 to R400: a route takes a new link once the old one has drained; values out of range change nothing but a
count and an alert; a device register takes a value that its rule allows; GROVES is refused while another partition has a grove, a grove
is disabled or one that leaves has context rows or holds leases of the partition; a write through a window becomes a store of the host at its unit. When a route has
drained (log 36), what a refused host store leaves (log 38, 46) and a NODEID above 0x3FF (log 38) are the model's reading. -/
def Obligations.DeviceRegisters : Prop :=
  ∀ (s : State),
    let wrong : State := { s with mgmt := { s.mgmt with cfgErrors := s.mgmt.cfgErrors + 1, alerts := s.mgmt.alerts ++ [65540] } }
    let isLink (v : Word) : Prop := v.toNat < 18 ∨ v.toNat = 31
    let gives (i : Instr) (u : State) : Prop := Answers i s (fun t => t = u)
    let runs := ∃ x ∈ s.allRows, running (s.rowState x.1 x.2) = true
    let drained (old node : Nat) : Prop := 18 ≤ old ∨ ((∀ f ∈ (s.link old).replay, flitKind f ≠ 1 ∧ flitKind f ≠ 2)
      ∧ ∀ m ∈ s.msgs, m.remote = false → s.isLocal m.addr = false → vaNode m.addr = node → s.seq ≤ m.seq)
    (∀ node v, node < 0x3FF → s.fabric.nextRoute = [] →
        let old := s.fabric.route.get 31 node
        (¬ isLink v → gives (.routeWrite node v) wrong)
          ∧ (isLink v → drained old node → Answers (.routeWrite node v) s (fun t =>
              t = { s with fabric := { s.fabric with route := t.fabric.route }, seq := s.seq + 1 } ∧ t.fabric.route.get 31 node = v.toNat
                ∧ ∀ m, m ≠ node → t.fabric.route.get 31 m = s.fabric.route.get 31 m))
          ∧ (isLink v → ¬ drained old node → gives (.routeWrite node v)
              { s with fabric := { s.fabric with nextRoute := [(node, v.toNat, s.seq)] }, seq := s.seq + 1 }))
      ∧ (∀ v, (¬ isLink v → gives (.tparentWrite v) wrong)
          ∧ (isLink v → Answers (.tparentWrite v) s (fun t => t = { s with fabric := { s.fabric with
              tparent := v.toNat, step := t.fabric.step, lastBeacon := s.time } }
            ∧ (t.fabric.step = true ↔ v.toNat ≠ 31 ∧ ¬ runs))))
      ∧ (∀ v, (v.toNat < 0x3FF → gives (.registerWrite (.nodeId v)) { s with fabric := { s.fabric with nodeId := v.toNat } })
          ∧ (0x3FF ≤ v.toNat → gives (.registerWrite (.nodeId v)) wrong))
      ∧ (∀ n v, (v.toNat < 0x80 ∧ n < 0x3FF → gives (.registerWrite (.admission n v))
              { s with fabric := { s.fabric with admission := s.fabric.admission.set 0 n v.toNat } })
          ∧ (¬ (v.toNat < 0x80 ∧ n < 0x3FF) → gives (.registerWrite (.admission n v)) wrong))
      ∧ (∀ p v, p < 16 →
          let x := s.part p
          let free := x.saved.isSome = true ∨ ∀ y ∈ s.allRows, s.inPart p y.1 = true → s.rowState y.1 y.2 ∈ [0, 4, 5]
          let root := v.toNat % 4096 = 0 ∧ v.toNat < 2 ^ 57
          let puts (k : Nat) (ok : Prop) (y : PartSt) : Prop := (ok → gives (.registerWrite (.partition p k v)) (s.setPart p y))
            ∧ (¬ ok → Stalls (.registerWrite (.partition p k v)) s)
          puts 1 (root ∧ free) { x with root00 := v } ∧ puts 2 (root ∧ free) { x with root01 := v }
            ∧ puts 3 (root ∧ free) { x with root11 := v }
            ∧ puts 4 (v.toNat % 64 = 0 ∧ v.toNat < 2 ^ 57 ∧ free) { x with gangbase := v }
            ∧ puts 5 (v.toNat ≤ 16384) { x with lockquota := v.toNat }
            ∧ puts 6 (v.toNat < 3 ∧ x.swapop = 0) { x with swapop := v.toNat })
      ∧ (∀ p v, p < 16 →
          let x := s.part p
          (v = 0 ∨ (v.toNat < 2 ^ 57 ∧ v.toNat % 8 = 0 ∧ vaRegion v.toNat = 3) →
              gives (.registerWrite (.mailbox p 0 v)) (s.setPart p { x with tailva := v }))
            ∧ (v.toNat < 2 ^ 11 → gives (.registerWrite (.mailbox p 8 v)) (s.setPart p { x with vector := v.toNat })))
      ∧ (∀ off v, off < 2 ^ 21 → off ≠ 0 → off ≠ 0x68 → off ≠ 0x808 → ∀ i, i = .registerWrite (.power off v)
            ∨ i = .hostUnitWrite none (0x1F1 * 2 ^ 21 + off) (bytesOfNat 8 v.toNat) ∧ off % 8 = 0 →
          (blockStoreOk off v = true → Answers i s (fun t => t = { s with power := { s.power with regs := t.power.regs } }
              ∧ t.power.reg off = v ∧ ∀ o, o ≠ off → t.power.reg o = s.power.reg o))
            ∧ (blockStoreOk off v = false → gives i { s with mgmt := { s.mgmt with dropped := s.mgmt.dropped + 1 } }))
      ∧ (∀ p v, p < 16 →
          let refused := (∃ q, q < 16 ∧ q ≠ p ∧ (s.part q).groves &&& v ≠ 0) ∨ (∃ g, g < 64 ∧ bitAt v g = true ∧ (s.grove g).disabled = true)
            ∨ ((s.part p).saved = none ∧ ∃ g, g < 64 ∧ s.owns p g = true ∧ bitAt v g = false ∧ ((∃ c, c / 4 = g ∧ s.contextRows c ≠ [])
              ∨ ∃ e ∈ s.gangs.items, e.1 / 4096 = p ∧ e.2.lease.getD [] ≠ []))
          (refused → Stalls (.groves p v) s) ∧ (¬ refused → gives (.groves p v) (s.setPart p { s.part p with groves := v })))
      ∧ (∀ p off bs, p < 16 →
          let u := off / 2 ^ 21
          u < 512 → u ≠ 0x1F1 → (s.part p).saved = none → (off % 64 = 0 ∧ bs.length = 64) ∨ (off % 8 = 0 ∧ bs.length = 8) →
          gives (.hostUnitWrite (some p) off bs) { s with seq := s.seq + 1, stores := s.stores ++ [{
            id := Ident.supervisor p, va := 0x3FF * 2 ^ 47 + 2 * 2 ^ 45 + u * 2 ^ 36 + off % 2 ^ 21, data := bs
            whole := bs.length == 64, release := false, scope := 0, pc := 0, len := 0, seq := s.seq, age := 0, sent := false }] })
      ∧ (∀ off bs, off / 2 ^ 21 ≠ 0x1F1 → Stalls (.hostUnitWrite none off bs) s)

/-! ### Power, telemetry and temperature -/

/-- R334 to R338, R340: a frame is ignored at the port while REPLAY is set, and enters through REPLAY alone then; one whose checks fail
counts in BADFR; one that is good is recorded, and unless it is a test frame it is usable: STALE clears, a committed set takes effect,
ALLOWED is its fraction and every class whose threshold lies above it is in SHED. TCTL and COMMIT take what their rules allow; 200 µs
without a usable frame set STALE. That a frame acts on the whole device at once is the model's choice (log 19); measured powers are free
values (log 10). -/
def Obligations.Telemetry : Prop :=
  ∀ (s : State),
    let x := s.power
    let replaying := bitAt (x.reg 0) 0 = true
    let frames (i : Instr) (bs : List Byte) (rest : List StoreReq) : Prop :=
      bs.length = 32 → frameSync bs = true →
      (frameGood x.lastseq bs = false → Answers i s (fun t =>
          t = { s with stores := rest, power := { x with badfr := (x.badfr + 1) % 256 } }))
        ∧ (frameGood x.lastseq bs = true →
            let flags := frameNat bs 16 1
            let recorded (t : State) : Prop := t.power.lastseq = frameNat bs 2 2 ∧ t.power.goodfr = (x.goodfr + 1) % 2 ^ 32
              ∧ t.power.tlast = bs ∧ t.stores = rest ∧ (t.power.islanded = true ↔ flags % 2 = 1)
              ∧ (t.power.alarm = true ↔ flags / 4 % 2 = 1)
            (flags / 2 % 2 = 1 → Answers i s (fun t => recorded t ∧ t.power.lastUsable = x.lastUsable ∧ t.power.stale = x.stale
                ∧ t.power.allowed = x.allowed ∧ t.power.shed = x.shed ∧ t.power.pending = x.pending))
              ∧ (flags / 2 % 2 = 0 → Answers i s (fun t =>
                  let set := x.pending.getD x.eff
                  recorded t ∧ t.power.stale = false ∧ t.power.lastUsable = s.time.toNat ∧ t.power.eff = set ∧ t.power.pending = none
                    ∧ t.power.allowed = PowerSt.fraction { x with eff := set } bs
                    ∧ t.power.cad ∈ [1, 2, 3, 4, 6, 8, 12, 16]
                    ∧ ∀ k, 1 ≤ k → k ≤ 7 → t.power.allowed < PowerSt.thr { x with eff := set } k → t.power.sheds k = true)))
    (∀ bs, ¬ replaying → frames (.telemetryFrame bs) bs s.stores)
      ∧ (∀ bs, replaying ∨ bs.length ≠ 32 ∨ frameSync bs = false → Stalls (.telemetryFrame bs) s)
      ∧ (∀ (k : Nat) (q : StoreReq), s.stores[k]? = some q → s.mayAccept k q = true → vaNode q.va = 0x3FF → vaRegion q.va = 2 →
          vaUnit q.va = 0x1F1 → q.id.mode = true →
          let rest := s.stores.eraseIdx k
          let v := word (natOfBytes q.data)
          (vaOff q.va = 0x40 → q.whole = true → replaying → frames (.replay k) q.data rest)
            ∧ (vaOff q.va = 0 → q.whole = false → q.data.length = 8 → v.toNat ≤ 3 → Answers (.tctl k) s (fun t =>
                t = { s with stores := rest, power := { x with
                    regs := t.power.regs, lastUsable := if bitAt v 0 then s.time.toNat else x.lastUsable } }
                  ∧ t.power.reg 0 = v ∧ ∀ o, o ≠ 0 → t.power.reg o = x.reg o))
            ∧ (vaOff q.va = 0x68 → q.whole = false → q.data.length = 8 →
                (v = 0 → Answers (.commit k) s (fun t => t = { s with stores := rest }))
                ∧ (v = 1 → x.stagedOk = true → Answers (.commit k) s (fun t => ∃ set,
                    t = { s with stores := rest, power := { x with pending := some set } }
                      ∧ ∀ o, isStaged o = true → set.get (blockReset o) o = x.reg o))
                ∧ (v = 1 → x.stagedOk = false → ∀ l, q.id.host = false → s.latch? q.id.core q.id.row = some l → l.intent = .run →
                    Answers (.commit k) s (fun t => Defers { s with stores := rest } t q.id.core q.id.row l
                      { cause := .prot, pc := q.pc, code := 0, deferred := true, len := q.len }))))
      ∧ (let stale := x.stale = false ∧ x.lastUsable + 200000 ≤ s.time.toNat
        (stale → Answers .telemetryStale s (fun t => t = { s with
            power := { x with stale := true }
            mgmt := { s.mgmt with alerts := s.mgmt.alerts ++ [65536] } }))
          ∧ (¬ stale → Stalls .telemetryStale s))

/-- R341, R345, R346, R348 to R352: SHEDDL after its mark a class still in SHED has its gangs stopped; a grove reaches the slower of the
point that its cores ask for and its cap; a reading moves LEVEL up to the highest threshold reached, or down by one below the
hysteresis; a grove at HOT sheds class 7 and one at CRIT removes power; a quiescent grove enters the deepest of G1, G2 and G3 whose wake
fits LATTOL and its time deadlines, G3 only without context rows, scratch ways and locked lines, and wakes for an access
that it holds, a READY row of a class that runs, or a timed event that comes no later than its wake. POINT while it changes (log 20), the
mark of a CRIT stop (log 18), class 7 under two rules (log 44), the times of idle states (log 37) and what else wakes a grove (log 39)
are the model's reading. -/
def Obligations.PowerActions : Prop :=
  ∀ (s : State),
    let x := s.power
    (∀ k, k < 8 →
        (∀ t0, x.mark.get none k = some t0 → x.sheds k = true → t0 + bitsAt (x.now 0x0248) 0 32 ≤ s.time.toNat →
            Answers (.shedDeadline k) s (fun t => t.power.mark.get none k = none ∧ t.power.shed = x.shed
              ∧ ∀ key ∈ s.gangKeys, s.gangClass (key / 4096) (key % 4096) = some k →
                  s.membersQuiet (key / 4096) (key % 4096) = false → (t.gang (key / 4096) (key % 4096)).shed = true))
          ∧ (x.mark.get none k = none → Stalls (.shedDeadline k) s)
          ∧ (∀ t0, x.mark.get none k = some t0 → s.time.toNat < t0 + bitsAt (x.now 0x0248) 0 32 → Stalls (.shedDeadline k) s))
      ∧ (∀ g, g < 64 →
          let y := s.grove g
          let asked := (List.range 4).foldl (fun (m : Nat) k => Nat.min m (s.core (4 * g + k)).point) 7
          let warm := ∃ n, (n = g ∨ (64 + 8 * (g / 16) ≤ n ∧ n < 72 + 8 * (g / 16))) ∧ 1 ≤ s.levelOf n
          let point (cap : Nat) : Prop := Answers (.operatingPointChange g) s (fun t => t = s.setGrove g { y with
            point := Nat.max asked cap, changing := false })
          (y.changing = true → warm → point (Nat.max x.powcap (bitsAt (x.reg 0x0808) 0 3)))
            ∧ (y.changing = true → ¬ warm → point x.powcap)
            ∧ (y.changing = false → Stalls (.operatingPointChange g) s)
            ∧ (let cause := s.heldAt g = true
                ∨ ∃ c, c / 4 = g ∧ (s.eligible c ≠ [] ∨ ∃ d ∈ s.waitTimes c, d ≤ wakeTime y.idle)
              (y.idle ≠ 0 → cause → Answers (.groveWake g) s (fun t =>
                  t = { s.setGrove g { y with idle := 0 } with knocks := s.knocks.filter (fun h => h != g) }))
                ∧ (y.idle = 0 ∨ ¬ cause → Stalls (.groveWake g) s)
                ∧ ∀ c, c / 4 = g → y.idle ≠ 3 → s.arriving c = true → s.heldAt g = true)
            ∧ (let wake (k : Nat) : Nat := [0, 20, 1500, 30000].getD k 0
              let fits (k : Nat) : Prop := wake k ≤ bitsAt (x.reg 0x0800) 0 32 ∧ ∀ c, c / 4 = g → ∀ d ∈ s.waitTimes c, wake k ≤ d
              let bare := (∀ c, c / 4 = g → ∀ e ∈ (s.core c).ctxmap.items, e.2 = 0) ∧ y.ways = 0 ∧ y.pins = []
              let due (c d : Nat) : Prop := ∃ e ∈ (s.core c).waits,
                (∃ T, e.on = .time T ∧ d = (if T ≤ s.time then 0 else (T - s.time).toNat))
                ∨ (e.on = .timedClasp ∧
                    let dl := bitsAt (s.slot c e.row 1) 35 29
                    d = (if deadlinePassed s.time dl = true then 0 else (dl + 2 ^ 29 - s.time.toNat % 2 ^ 29) % 2 ^ 29))
              (fits 3 → bare → s.idleState g = 3) ∧ (fits 2 → ¬ (fits 3 ∧ bare) → s.idleState g = 2)
                ∧ (fits 1 → ¬ fits 2 → s.idleState g = 1) ∧ (¬ fits 1 → s.idleState g = 0)
                ∧ ∀ c d, d ∈ s.waitTimes c ↔ due c d)
            ∧ (let k := s.idleState g
              let quiet := ∀ c, c / 4 = g → s.coreQuiet c = true ∧ s.arriving c = false
              (y.idle = 0 → k ≠ 0 → quiet → Answers (.idleEntry g) s (fun t => (t.grove g).idle = k
                  ∧ (k ≠ 3 → t = s.setGrove g { y with idle := k })))
                ∧ (y.idle ≠ 0 ∨ k = 0 ∨ ¬ quiet → Stalls (.idleEntry g) s)))
      ∧ (∀ (n : Nat) (temp : BitVec 16), n < 96 →
          let reg := x.reg (if n < 64 then 0x0810 else 0x0818)
          let at_ (i : Nat) : Int := (BitVec.ofNat 16 (bitsAt reg (16 * (i - 1)) 16)).toInt
          let old := s.levelOf n
          let reads (new : Nat) (P : State → Prop) : Prop := Answers (.sensorRead n temp) s (fun t =>
            t.power.temps.get (0, 0) n = (temp, new) ∧ (∀ m, m ≠ n → t.power.temps.get (0, 0) m = x.temps.get (0, 0) m) ∧ P t)
          let still (t : State) : Prop := t = { s with power := { x with temps := t.power.temps } }
          let acts (t : State) : Prop := ((∃ g, g < 64 ∧ 2 ≤ t.thermal g) → t.power.sheds 7 = true)
            ∧ ((∃ g, g < 64 ∧ 3 ≤ t.thermal g) → s.mgmt.powered = true → t.mgmt.powered = false)
            ∧ ((∀ g, g < 64 → t.thermal g < 3) → t.mgmt = s.mgmt)
          let reached (i : Nat) : Prop := 1 ≤ i ∧ i ≤ 3 ∧ at_ i ≤ temp.toInt ∧ ∀ j, i < j → j ≤ 3 → temp.toInt < at_ j
          (∀ i, reached i → old < i → reads i acts)
            ∧ (∀ i, reached i ∨ (i = 0 ∧ ∀ j, 1 ≤ j → j ≤ 3 → temp.toInt < at_ j) → i ≤ old → old ≤ 3 →
                let falls := 0 < old ∧ temp.toInt < at_ old - bitsAt reg 48 8
                (falls → reads (old - 1) acts) ∧ (¬ falls → reads old still)))

/-! ### Placement, repair, the watchdog, swapping and service -/

/-- R86, R289, R296 to R299, R368, R380, R381, R398: the head of a partition's header queue starts a row, with PC, class and gang of the
header and its words in w4 to w10, on the core with a free pool row that holds most of its tiles, an array byte counting twice, then the
fewest READY rows, then the lowest index, and there the lowest free row; or it is refused with its code (EMPTY, LEASE, BADHDR, GANG); a held record enters the supervisor's ring as room comes; an atom is
copied into the SRAM and remapped once; WDCNT at WDBUDGET, after a release that falls on the check, ends the rows of a gang with WDOG; a
store to TAILVA is performed at the host and raises its vector. A row placed for a stopped gang, or in a partition that swaps out or is
being reset, is STOPPED. A grove that sleeps is asked to wake for a header or a record (R349). That a reset stops a row placed meanwhile (log
42), how a grove is asked to wake (log 39), and that a check does nothing without a descriptor (log 53), are the model's reading. -/
def Obligations.Management : Prop :=
  ∀ (s : State) (p : Nat), p < 16 →
    let x := s.part p
    (∀ h rest, x.hdrs = h :: rest → x.saved = none →
        let s1 := s.setPart p { x with hdrs := rest }
        let w0 := wordAt h.words 0
        let g := bitsAt w0 36 12
        let learns (u t : State) (v : Word) : Prop := ∀ c r, h.path = .launch c r →
          (t.pendingOf c r).map (fun (q : Pending) => q.op) = (u.pendingOf c r).map (fun (q : Pending) => match q.op with
            | .launch d none => .launch d (some v)
            | op => op)
        (∀ code u, s1.place p h = (.error code, u) → Answers (.placement p) s (fun t => (t.part p).hdrs = (u.part p).hdrs
            ∧ learns u t (BitVec.ofNat 64 code)
            ∧ ((∀ c r, h.path ≠ .launch c r) → (t.part p).refused = ((u.part p).refused + 1) % 65536)))
          ∧ (∀ c r u, s1.place p h = (.ok (c, r), u) → c < numCores → r < 4096 →
              (u.asleep (c / 4) = true → Answers (.placement p) s (fun t =>
                  t = { s with knocks := if c / 4 ∈ s.knocks then s.knocks else s.knocks ++ [c / 4] }))
                ∧ (u.asleep (c / 4) = false →
                    let stopped := (u.gang p g).stopped = true ∨ (u.part p).swapping = true ∨ (u.part p).flr = true
                    Answers (.placement p) s (fun t =>
                    (t.part p).hdrs = (u.part p).hdrs ∧ learns u t (BitVec.ofNat 64 (c * 2 ^ 16 + r * 2 ^ 24))
                      ∧ (stopped → t.rowState c r = 7) ∧ (¬ stopped → t.rowState c r = 1) ∧ t.rowPc c r = w0.setWidth 32 ∧ ctlClass (t.ctl c r) = bitsAt w0 32 3
                      ∧ ctlGang (t.ctl c r) = g ∧ ctlMode (t.ctl c r) = false ∧ ctlWait (t.ctl c r) = 0
                      ∧ (∀ k, 1 ≤ k → k < 32 → t.slot c r k = if 4 ≤ k ∧ k ≤ 10 then wordAt h.words (k - 3) else 0)
                      ∧ (t.core c).fifo = (u.core c).fifo ++ (if stopped then [] else [{ row := r, age := 0 }])
                      ∧ ∀ j, ¬ (rowKey c r 0 ≤ j ∧ j < rowKey c r 0 + 256) → t.mem.read j = u.mem.read j))))
      ∧ (∀ h : Hdr,
          let w := wordAt h.words 0
          let g := bitsAt w 36 12
          let tiles := [wordAt h.words 4, wordAt h.words 5, wordAt h.words 6, wordAt h.words 7]
          let size (t : Word) : Nat := bitsAt t 45 14 * 4096
          let from_ (t : Word) : Nat := s.canonVa (bitsAt t 0 45 * 4096)
          let names (t : Word) (b : Nat) : Prop := from_ t ≤ b ∧ b < from_ t + size t
          let malformed (t : Word) : Prop := bitsAt t 59 5 ≠ 0 ∨ (size t = 0 ∧ bitsAt t 0 45 ≠ 0) ∨ 2 ^ 57 < bitsAt t 0 45 * 4096 + size t
          let bad := bitAt w 35 = true ∨ bitsAt w 50 6 ≠ 0 ∨ (∃ t ∈ tiles, malformed t)
            ∨ (bitAt w 48 = true ∧ s.inPart p (bitsAt w 56 8) = false) ∨ (bitAt w 48 = false ∧ bitsAt w 56 8 ≠ 0)
          (bad → s.place p h = (.error 3, s))
            ∧ (∀ u, ¬ bad → s.descriptor p g = (none, u) → s.place p h = (.error 4, u))
            ∧ (∀ d u, ¬ bad → s.descriptor p g = (some d, u) →
                let y := u.gang p g
                let strange := h.id.mode = false ∧ (g ≠ h.id.gang ∨ bitsAt w 32 3 < ctlClass (u.ctl h.id.core h.id.row))
                let leased (b : Nat) : Prop := ∃ rs, y.lease = some rs ∧ ∃ l ∈ rs, l.base ≤ b ∧ b < l.base + l.bytes
                let revoked (t : Word) : Prop := ∃ v, y.revoking = some v ∧ ∃ l ∈ v.ranges, l.wr = false
                  ∧ l.base < from_ t + size t ∧ from_ t < l.base + l.bytes
                let denied := ∃ t ∈ tiles, size t ≠ 0 ∧ ((∃ b, names t b ∧ ¬ leased b) ∨ revoked t)
                let free (c r : Nat) : Prop := ∃ q ∈ (u.core c).pool, q.lent = false ∧ q.row = r
                let may (c : Nat) : Prop := (if bitAt w 48 = true then c = bitsAt w 56 8 else c ∈ u.coresOf p) ∧ ∃ r, free c r
                let wanted (b : Nat) : Prop := bitAt w 49 = false ∧ ∃ t ∈ tiles, names t b
                let resident (m : Sparse ResEntry) (b : Nat) : Prop := ∃ e ∈ m.items, bitAt e.2.w0 0 = true ∧ names e.2.w1 b
                let score (c : Nat) : Nat := 2 * Set.ncard (fun b => wanted b ∧ resident (u.core c).res b)
                  + Set.ncard (fun b => wanted b ∧ resident (u.grove (c / 4)).gres b)
                let ready (c : Nat) : Nat := (u.core c).fifo.length
                let beats (a b : Nat) : Prop := score b < score a ∨ (score a = score b ∧ (ready a < ready b ∨ (ready a = ready b ∧ a ≤ b)))
                (strange → s.place p h = (.error 4, u))
                  ∧ (¬ strange → denied → s.place p h = (.error 2, u))
                  ∧ (¬ strange → ¬ denied → (∀ c, ¬ may c) → s.place p h = (.error 1, u))
                  ∧ (¬ strange → ¬ denied → ∀ c r, may c → (∀ b, may b → beats c b) → free c r → (∀ q, free c q → r ≤ q) →
                      s.place p h = (.ok (c, r), u))))
      ∧ (x.hdrs = [] ∨ x.saved.isSome = true → Stalls (.placement p) s)
      ∧ (∀ c, s.lowCore p = some c →
          let head := (s.ring c 0).1
          let tail := bitsAt (s.slot c head 1) 0 32
          let at_ := tail % (4 * ((s.ring c 0).2 - 1))
          let key := rowKey c (head + 1 + at_ / 4) (64 * (at_ % 4))
          let opens := (s.ring c 0).2 ≠ 0 ∧ x.saved = none ∧ s.ringRoom c 0 = true ∧ s.poisoned (rowKey c head 0) 32 = false
            ∧ s.absent c = false
          (∀ h rest ws, x.held = h :: rest → ws.length = 8 →
              h = .record ws ∨ (∃ n time, h = .dropped n time ∧ ws = [8, 0, 0, BitVec.ofNat 64 n, time, 0, 0, 0]) → opens → s.asleep (c / 4) = false →
              s.undeliverable (Ident.supervisor p) c (bitsAt (s.slot c head 2) 0 12) = none →
              Answers (.faultRecordAppend p) s (fun t => (t.part p).held = rest
                ∧ (∀ j, j < 64 → t.mem.read (key + j) = (bytesOfWords ws).getD j 0)
                ∧ bitsAt (t.slot c head 1) 0 32 = (tail + 1) % 2 ^ 32
                ∧ ∀ j, ¬ (key ≤ j ∧ j < key + 64) → ¬ InSlot c head 1 8 j → t.mem.read j = s.mem.read j))
            ∧ (x.held ≠ [] → opens → s.asleep (c / 4) = true → Answers (.faultRecordAppend p) s (fun t =>
                t = { s with knocks := if c / 4 ∈ s.knocks then s.knocks else s.knocks ++ [c / 4] }))
            ∧ (x.held = [] ∨ ¬ opens → Stalls (.faultRecordAppend p) s))
      ∧ (∀ k atom, k < 8 →
          let y := s.stack k
          let fresh := atom ∉ y.remap ∧ y.remap.length < 4096 ∧ atom < 2 ^ 31
          (fresh → Answers (.remapAdd k atom) s (fun t => t = { s.setStack k { y with remap := y.remap ++ [atom] } with mem := t.mem }
              ∧ (∀ j, j < 32 → t.mem.read (remapKey k y.remap.length j) = s.mem.read (dramKey k (32 * atom + j))
                ∧ t.physKey (dramKey k (32 * atom + j)) = remapKey k y.remap.length j)
              ∧ ∀ j, ¬ (remapKey k y.remap.length 0 ≤ j ∧ j < remapKey k y.remap.length 0 + 32) → t.mem.read j = s.mem.read j))
            ∧ (¬ fresh → Stalls (.remapAdd k atom) s))
      ∧ (∀ g, g < 4096 →
          let now := s.releaseDue p g
          ((∀ e ∈ (s.gang p g).due, e.held = true ∨ s.time.toNat < e.t) → now = s)
            ∧ ((now.part p).saved.isSome = true → Answers (.watchdogCheck p g) s (fun t => t = now))
            ∧ (∀ u, (now.part p).saved = none → now.descriptor p g = (none, u) → Answers (.watchdogCheck p g) s (fun t => t = u))
            ∧ (∀ d u, (now.part p).saved = none → now.descriptor p g = (some d, u) →
                let expires := d.wdbudget ≠ 0 ∧ d.wdbudget ≤ (u.gang p g).wdcnt
                (expires → Answers (.watchdogCheck p g) s (fun t => t = u.setGang p g { u.gang p g with expired := true }))
                  ∧ (¬ expires → Answers (.watchdogCheck p g) s (fun t => t = u)))
            ∧ ((s.gang p g).expired = false → Stalls (.watchdogExpiry p g) s)
            ∧ (∀ c r, (s.gang p g).expired = true → s.members p g = [(c, r)] → s.partid c = p → r < 4096 →
                s.rowState c r = 1 ∨ s.rowState c r = 3 ∨ s.rowState c r = 7 → RecordsDropped s c →
                (∀ d ∈ s.coresOf p, (s.core d).mx.queue = []) → Answers (.watchdogExpiry p g) s (fun t =>
                  t.rowState c r = 5 ∧ bitsAt (t.slot c r 3) 32 8 = 14 ∧ (t.gang p g).expired = false
                    ∧ (t.gang p g).sup = false ∧ (t.gang p g).shed = false ∧ (t.gang p g).swap = false)))
      ∧ (∀ (k : Nat) (q : StoreReq) (u : State), s.stores[k]? = some q → s.mayAccept k q = true → s.isLocal q.va = true →
          vaRegion q.va ≠ 2 → q.release = true → q.scope = 5 → q.id.mode = true → q.id.host = false → q.id.node = 0x3FF →
          q.id.part = p → x.tailva.toNat ≠ 0 → q.va = x.tailva.toNat →
          s.anyStore q.id q.va q.data q.whole q.seq = (.ok (), u) → Answers (.mailboxInterrupt k) s (fun t =>
            t.part p = { x with raised := (x.raised + 1) % 2 ^ 32 } ∧ t.stores = s.stores.eraseIdx k
              ∧ ∀ l ∈ (t.grove (q.id.core / 4)).lines, l.part = p → l.line = s.canonVa q.va / 64 → l.dirty = false))

/-- R374 to R378, R400, R406: a swap-out that was asked for stops every gang of the partition, closes its admission once all is at rest,
and once what had come before is performed leaves its cores without rows, its state saved and two ways of each slice taken; one that does
not fit, or twice, is refused (that ways which hold another partition do not fit is the model's reading, log 71), and so is a restore of nothing or onto other groves; a restore brings rows and registers back and clears the mark, halts a
matrix unit whose image has another VERSION, and ends with SWAPST 2 where a grove has failed; a Function Level Reset stops every gang, and once all are
at rest leaves every row that was running or stopped in FAULT and the partition empty, its commands gone from the matrix units and the
ways of its swap caching again; a revocation goes on, but signals no clasp of the partition. What a Function Level Reset leaves is the model's reading (log 42); the
VERSION after an update is a free value (log 40). -/
def Obligations.SwapAndReset : Prop :=
  ∀ (s : State) (p : Nat), p < 16 →
    let x := s.part p
    let refused (i : Instr) : Prop := Answers i s (fun t => t = s.setPart p { x with swapop := 0, swapst := 2 })
    let fits := ∀ c, s.inPart p c = true → c < 256 → (s.savedRows c).length ≤ 224 ∧ (s.grove (c / 4)).swapHeld = false
    let now := s.swapStop p
    let waits := ∃ m ∈ now.msgs, now.inbound p m = true
    (x.swapop ≠ 1 → Stalls (.swapOut p) s)
      ∧ (x.swapop = 1 → x.swapping = false → x.saved.isSome = true ∨ ¬ fits → refused (.swapOut p))
      ∧ (x.swapop = 1 → x.swapping = false → x.saved = none → fits → Answers (.swapOut p) s (fun t =>
          t.part p = { x with swapping := true } ∧ ∀ g ∈ s.gangsOf p, (t.gang p g).swap = true))
      ∧ (x.swapop = 1 → x.swapping = true →
          (now.swapQuiet p = false → Answers (.swapOut p) s (fun t => t = now))
            ∧ (now.swapQuiet p = true → x.shutAt = none → Answers (.swapOut p) s (fun t =>
                t = now.setPart p { x with shutAt := some s.seq }))
            ∧ (now.swapQuiet p = true → x.shutAt.isSome = true → waits → now.swapStuck p = false → Answers (.swapOut p) s (fun t => t = now))
            ∧ (now.swapQuiet p = true → x.shutAt.isSome = true → ¬ waits → Answers (.swapOut p) s (fun t =>
                (t.part p).swapop = 0 ∧ (t.part p).swapst = 1 ∧ (t.part p).swapping = false ∧ (t.part p).shutAt = none ∧ (t.part p).hdrs = []
                  ∧ (∀ c ∈ s.coresOf p, t.core c = CoreSt.reset)
                  ∧ (∀ g, g < 64 → s.owns p g = true → (t.grove g).swapHeld = true
                    ∧ (∀ l ∈ (t.grove g).lines, 2 ≤ l.way) ∧ ∀ l ∈ (t.grove g).pins, 2 ≤ l.way)
                  ∧ ∃ v, (t.part p).saved = some v ∧ v.hdrs = x.hdrs
                    ∧ v.cores.map (fun (y : SavedCore) => y.core) = s.coresOf p
                    ∧ ∀ y ∈ v.cores, wordAt y.image 0 = BitVec.ofNat 64 (s.mxVersion % 2 ^ 16 + 1024 * 2 ^ 16))))
      ∧ (x.swapop ≠ 2 → Stalls (.swapRestore p) s)
      ∧ (x.swapop = 2 → x.saved = none → refused (.swapRestore p))
      ∧ (∀ v, x.swapop = 2 → x.saved = some v →
          let same := ∀ g, g < 64 → (s.owns p g = true ↔ ∃ e ∈ v.groves, e.grove = g)
          (¬ same → refused (.swapRestore p))
            ∧ (∀ c r b st im, same → v.cores = [{ core := c, rows := [(r, b)], state := st, image := im }] → c < numCores → r < 4096 →
                let lost := (s.grove (c / 4)).failed = true
                Answers (.swapRestore p) s (fun t =>
                  t.part p = { x with saved := none, hdrs := v.hdrs ++ x.hdrs, swapop := 0, swapst := (if lost then 2 else 1) }
                    ∧ (∀ g, g < 4096 → (t.gang p g).swap = false)
                    ∧ (¬ lost → (t.core c).tags = st.tags ∧ (t.core c).guards = st.guards ∧ (t.core c).ctxmap = st.ctxmap)
                    ∧ (¬ lost → bitsAt (wordAt im 0) 0 32 = s.mxVersion % 2 ^ 16 + 1024 * 2 ^ 16 →
                        (t.rowBits c r).extractLsb' 64 1984 = b.extractLsb' 64 1984 ∧ (t.core c).mx.queue = st.mx.queue)
                    ∧ (¬ lost → bitsAt (wordAt im 0) 0 32 ≠ s.mxVersion % 2 ^ 16 + 1024 * 2 ^ 16 →
                        (t.core c).mx.queue = [] ∧ (t.core c).mx.halt = true ∧ (t.core c).mx.fcode = 8))))
      ∧ (let u := (s.setPart p { x with flr := true }).stopAll p .sup
        let rests := x.saved.isSome = true ∨ ∀ g ∈ u.gangsOf p, u.gangAtRest p g = true
        let mine (id : Ident) : Prop := id.host = false ∧ id.node = 0x3FF ∧ id.part = p
        (¬ rests → Answers (.functionLevelReset p) s (fun t => t = u))
          ∧ (rests → Answers (.functionLevelReset p) s (fun t =>
            ((∀ c ∈ s.coresOf p, ∀ q ∈ (u.core c).mx.queue, mine q.id) → ∀ y ∈ s.allRows, s.inPart p y.1 = true → t.rowState y.1 y.2
                = if u.rowState y.1 y.2 = 1 ∨ u.rowState y.1 y.2 = 2 ∨ u.rowState y.1 y.2 = 3 ∨ u.rowState y.1 y.2 = 7 then 5
                  else u.rowState y.1 y.2)
              ∧ (∀ g ∈ u.gangsOf p, (t.gang p g).revoking = (u.gang p g).revoking.map (fun v => { v with target := match v.target with
                  | .clasp a => if s.isLocal a = true ∧ vaRegion a = 2 ∧ s.inPart p (vaUnit a) = true then .none else .clasp a
                  | .tag d k => .tag d k
                  | .none => .none }))
              ∧ (∀ c ∈ s.coresOf p, (∀ q ∈ (t.core c).mx.queue, ¬ mine q.id) ∧ ∀ w ∈ (t.core c).mx.pipe, ¬ mine w.id)
              ∧ (∀ g, (t.grove g).swapHeld = true ↔ (u.grove g).swapHeld = true ∧ ∀ v, x.saved = some v → ∀ e ∈ v.groves, e.grove ≠ g)
              ∧ (∀ c ∈ s.coresOf p, (t.core c).latches = [] ∧ (t.core c).fifo = [] ∧ (t.core c).waits = [] ∧ (t.core c).ctxmap = ⟨[]⟩
                ∧ (t.core c).pool = [] ∧ (t.core c).res = ⟨[]⟩)
              ∧ (∀ g ∈ u.gangsOf p, (t.gang p g).stopped = false ∧ (t.gang p g).due = [])
              ∧ (t.part p).tailva = 0 ∧ (t.part p).saved = none ∧ (t.part p).shutAt = none ∧ (t.part p).flr = false)))

/-- R86, R183, R310, R354, R394, R395, R402 to R407: a checkpoint copies the DRAM of every stack into its range, on this device or by
messages of class 3; a management image goes to the bank that is not active, which becomes active when the image verifies, and a
heartwood image to the inactive bank of its stack when it verifies; the free spare of its die takes a grove that is enabled once its
partition is swapped out; a report signs its nonce, digests and time; a reset leaves the machine as State.reset says, with the firmware
banks, the remap tables and what is built or attached, and a warm one with TIME; a load image that is well formed and mapped places its
code and descriptors and starts its READY rows. The layout of a checkpoint (log 43), what a reset keeps (log 22, 41), the steps of a
replacement (log 45), the length of a heartwood image (log 11) and what the loader takes (log 68) are the model's reading; digests and
signatures are free values (log 11). -/
def Obligations.ServiceActions : Prop :=
  ∀ (s : State),
    (∀ p base, vaRegion base.toNat ≠ 1 ∨ base.toNat % 64 ≠ 0 ∨ s.unreachable base.toNat = true → Stalls (.checkpoint p base) s)
      ∧ (∀ (p : Nat) (base : Word), vaRegion base.toNat = 1 → base.toNat % 64 = 0 → s.poison = [] → (∀ g, (s.grove g).lines = []) →
          let line (i : Nat) : Nat := dramKey (64 * i / 2 ^ 36) (64 * i % 2 ^ 36)
          (∀ (e : Nat → TlbEntry) (key : Nat → Nat), s.isLocal base.toNat = true →
            (∀ i, i < 2 ^ 33 → let va := s.canonVa (base.toNat + 64 * i)
              vaRegion va ≠ 0 ∧ s.tlbHit p va = some (e i) ∧ (e i).w = true
                ∧ s.frameKey (vaRegion va) (e i).frame (va % (e i).size) = some (key i) ∧ 2 ^ 48 ≤ key i
                ∧ ∀ k, k < 2 ^ 33 → k ≠ i → Apart (key i) 64 (key k) 64) →
            Answers (.checkpoint p base) s (fun t => t = { s with mem := t.mem }
              ∧ ∀ i j, i < 2 ^ 33 → j < 64 → t.mem.read (key i + j) = s.mem.read (s.physKey (line i + j))))
            ∧ (s.isLocal base.toNat = false → s.unreachable base.toNat = false → Answers (.checkpoint p base) s (fun t =>
                t = { s with msgs := t.msgs, seq := s.seq + 2 ^ 33 } ∧ t.msgs.take s.msgs.length = s.msgs
                  ∧ t.msgs.length = s.msgs.length + 2 ^ 33
                  ∧ ∀ i, i < 2 ^ 33 → ∃ m, t.msgs[s.msgs.length + i]? = some m ∧ m.mkind = 1 ∧ m.cls = 3
                    ∧ m.addr = base.toNat + 64 * i ∧ m.data = s.readPhys (line i) 64)))
      ∧ (∀ im, Answers (.firmwareUpdate none im) s (fun t =>
          t = { s with mgmt := { s.mgmt with fw := t.mgmt.fw, fwB := t.mgmt.fwB } }
            ∧ (t.mgmt.fwB = s.mgmt.fwB ↔ imageRefused 1 im = true)
            ∧ t.mgmt.fw.get [] (!s.mgmt.fwB).toNat = im ∧ t.mgmt.fw.get [] s.mgmt.fwB.toNat = s.mgmt.firmware))
      ∧ (∀ k im, k < 8 →
          let y := s.stack k
          let body := im.drop 128
          let sound := imageRefused 2 im = false ∧ body.length = 4160 ∧ y.pendswap = false
          let key := bankKey k (!y.actbank) 0
          Answers (.firmwareUpdate (some k) im) s (fun t => (¬ sound → t = s)
            ∧ (sound → t = { s.setStack k { y with
                  pendswap := true, imageA := y.imageA || y.actbank, imageB := y.imageB || !y.actbank } with mem := t.mem }
                ∧ (∀ j, j < 4160 → t.mem.read (key + j) = body.getD j 0)
                ∧ ∀ j, ¬ (key ≤ j ∧ j < key + 4160) → t.mem.read j = s.mem.read j)))
      ∧ (∀ g spare, g < 64 →
          let y := s.grove g
          let free := spare = g / 16 ∧ y.disabled = false ∧ (y.spare = true ∨ ∀ h, h < 64 → h / 16 = g / 16 → (s.grove h).spare = false)
          let exchanged (u : State) (failed : Bool) : Prop := Answers (.groveReplace g spare) s (fun t =>
            t = { u with groves := t.groves } ∧ t.grove g = { y with spare := !y.spare, failed := failed }
              ∧ ∀ h, h ≠ g → t.grove h = s.grove h)
          (¬ free → Stalls (.groveReplace g spare) s)
            ∧ (free → (∀ p, p < 16 → s.owns p g = false) → exchanged s false)
            ∧ (∀ p, free → p < 16 → s.owns p g = true → (∀ q, q < p → s.owns q g = false) →
                let x := s.part p
                (x.saved.isSome = true → exchanged (s.setPart p { x with swapop := if x.swapop = 0 then 2 else x.swapop }) y.failed)
                  ∧ (x.saved = none → x.swapop = 0 → Answers (.groveReplace g spare) s (fun t =>
                      t = s.setPart p { x with swapop := 1 }))
                  ∧ (x.saved = none → x.swapop ≠ 0 → Stalls (.groveReplace g spare) s)))
      ∧ (∀ nonce, nonce.length ≠ 32 → Stalls (.attestation nonce) s)
      ∧ (∀ nonce, nonce.length = 32 → Answers (.attestation nonce) s (fun t => ∃ r : List Byte,
          t = { s with mgmt := { s.mgmt with report := r } } ∧ r.length = 744 ∧ r.take 32 = nonce
            ∧ (r.drop 32).take 64 = bytesOfNat 64 (Config.sha512 s.mgmt.firmware).toNat
            ∧ (r.drop 672).take 8 = bytesOfNat 8 s.time.toNat
            ∧ r.drop 680 = bytesOfNat 64 (Config.sign (r.take 680)).toNat))
      ∧ (let reset (i : Instr) (time : Word) : Prop := Answers i s (fun t =>
          t = { State.reset with
              groves := t.groves, stackSts := t.stackSts, power := { PowerSt.reset with lastUsable := time.toNat }, mgmt := t.mgmt
              ports := t.ports, time := time, agenda := s.agenda, seq := s.seq, draws := s.draws }
            ∧ t.mgmt = { MgmtSt.reset with fw := s.mgmt.fw, fwB := t.mgmt.fwB }
            ∧ (imageRefused 1 s.mgmt.firmware = false → t.mgmt.fwB = s.mgmt.fwB)
            ∧ (∀ k, k < 8 → t.stack k = { StackSt.reset with remap := (s.stack k).remap })
            ∧ (∀ g, g < 64 → t.grove g = { GroveSt.reset with disabled := (s.grove g).disabled, spare := (s.grove g).spare })
            ∧ ∀ k, k < 4 → t.port k = { s.port k with trained := (s.port k).dtype == 3 })
        reset .coldReset 0 ∧ reset .warmReset s.time)
      ∧ (∀ (im : Image), (∃ y ∈ im.cores, s.inPart im.part y.core = false) ∨ im.codeBase.toNat % 4096 ≠ 0 → Stalls (.loadImage im) s)
      ∧ (∀ (im : Image) (x : ImageGang) (c : Nat) (y : ImageCtx) (k : Nat) (v : Word), im.part < 16 → im.ptes = [] → im.data = [] →
          s.imageOk im = true → s.imageMapped im = true → im.gangs = [x] → x.lease = none → (s.gang im.part x.gang).stopped = false →
          im.cores = [{ core := c, rows := [], ctxs := [y], ksets := [] }] → y.regs = [(k, v)] → 4 ≤ k → k < 32 →
          y.state = 1 ∨ y.state = 4 → im.code.length ≤ 2 ^ 18 → Answers (.loadImage im) s (fun t =>
            t.rowState c y.row = y.state.toNat ∧ t.rowPc c y.row = y.pc ∧ t.slot c y.row k = v
              ∧ ctlMode (t.ctl c y.row) = y.mode ∧ ctlGang (t.ctl c y.row) = y.gang.toNat ∧ t.isContext c y.row = true
              ∧ (t.gang im.part x.gang).lease = none
              ∧ (∀ d ∈ s.coresOf im.part, (t.core d).codebase = im.codeBase)
              ∧ (im.code ≠ [] → ∃ b ∈ (t.grove (c / 4)).icache, b.part = im.part ∧ b.codebase = im.codeBase
                ∧ b.va = im.codeBase.toNat ∧ ∀ j, j < 32 → j < im.code.length →
                    b.data.extractLsb' (8 * j) 8 = im.code.getD j 0)
              ∧ (y.state = 1 → ∃ e ∈ (t.core c).fifo, e.row = y.row)))

/-! ### Words, decoding and the machine as a whole -/

/-- R26 to R31, R35: the words that the specification writes out decode to the instructions that they stand for, with their operands. -/
def Obligations.WordsDecode : Prop :=
  let o : Operands := { len := .w64, lah := 0, d := 0, a := 0, b := 0, c := 0, fn := 0, imm22 := 0, ext := 0 }
  let reads (first ext : Word) (i : Instr) : Prop := decodeWord false first ext = .ok i
  reads 0x0000000000000004 0 (.nop o)
    ∧ reads 0x000008000000000C 0 (.pbr { o with imm22 := 2 })
    ∧ reads 0x0001900800480018 0 (.biCc { o with a := 9, fn := 2, imm22 := 100 })
    ∧ reads 0xFFFFFF0000318040 0 (.add { o with d := 6, a := 6, fn := 0xC0, imm22 := 0x3FFFFF })
    ∧ reads 0x0000000004394470 0 (.div { o with lah := 1, d := 5, a := 7, b := 4 })
    ∧ reads 0x000000000001808A 0x01FFC00000001400 (.li { o with len := .w128, d := 6, ext := 0x01FFC00000001400 })
    ∧ reads 0x00000080C52200CC 0 (.ffma { o with d := 8, a := 4, b := 5, c := 6, fn := 0x20 })
    ∧ reads 0x0000001800314900 0 (.ld { o with lah := 2, d := 5, a := 6, fn := 6 })
    ∧ reads 0x0054000C0500010C 0 (.sr { o with b := 5, fn := 3, imm22 := 0x1500 })
    ∧ reads 0x000000480941C140 0 (.amoOr { o with d := 7, a := 8, b := 9, fn := 0x12 })
    ∧ reads 0x000000000000018C 0 (.gbar o)
    ∧ reads 0x00000C01494001D0 0 (.respub { o with a := 8, b := 9, c := 10, imm22 := 3 })
    ∧ reads 0x0000000006290308 0 (.lease { o with d := 4, a := 5, b := 6 })
    ∧ decodeWord true 0x0000000006290308 0 = .error .privileged

/-- R26 to R36: whatever the operands of a well-formed instruction, the bytes that its encoding gives decode to it, wherever it lies in
a block without crossing its end and whatever bytes follow it. -/
def Obligations.DecodeOfEncode : Prop :=
  ∀ (i : Instr) (o : Operands) (off : Nat) (rest : List Byte), WellFormed i → i.operands? = some o → off + o.len.bytes ≤ 32 →
    decodeBytes false off (encodeBytes i ++ rest) = .ok (.instr i)
      ∧ (∀ op, i.opcode? = some op → op.toNat < 0xC0 → decodeBytes true off (encodeBytes i ++ rest) = .ok (.instr i))

/-- R26 to R28, R31, R34, R35: the checks of a word come in order: a pad word has no other bit, an instruction does not cross its
block, its opcode is defined and allows its length, a row in user mode meets none of 0xC0 to 0xC7, and what remains decodes to a
well-formed instruction of that opcode. -/
def Obligations.DecodeChecks : Prop :=
  ∀ (user : Bool) (off : Nat) (bs : List Byte), 16 ≤ bs.length →
    let unit := leNat (bs.take 4)
    let first : Word := BitVec.ofNat 64 (leNat (bs.take 8))
    let op := (first.extractLsb' 2 8).toNat
    let units := 2 + unit % 4
    (unit % 4 = 3 → decodeBytes user off bs = if unit = 3 then .ok .pad else .error .badPad)
      ∧ (unit % 4 ≠ 3 → 32 < off + 4 * units → decodeBytes user off bs = .error .crossesBlock)
      ∧ (unit % 4 ≠ 3 → off + 4 * units ≤ 32 →
          (opDefined op = false → decodeBytes user off bs = .error .undefinedOpcode)
            ∧ (opDefined op = true → (∀ l : Len, l.units = units → lenAllowed op l = false) → decodeBytes user off bs = .error .badLength)
            ∧ (opDefined op = true → (∀ l : Len, l.units = units → lenAllowed op l = true) → user = true → 0xC0 ≤ op → op ≤ 0xC7 →
                decodeBytes user off bs = .error .privileged)
            ∧ ∀ i, decodeBytes user off bs = .ok (.instr i) → WellFormed i ∧ (i.opcode?.map (fun x => x.toNat)) = some op
                ∧ (user = true → op < 0xC0) ∧ (i.operands?.map (fun o => o.len.units)) = some units)

/-- R34, R110, R113, R115, R122, R128: where the bytes at PC of an open row decode to an instruction that may issue and meets no hazard,
the step is exec of that instruction, at the state in which its windows and its latch count it; one that may not issue changes nothing,
one that meets a hazard raises HAZ, and bytes that do not decode raise LEN, PRIV or ILL; after a pad word it is the instruction behind it
(R28). A row does not issue while a latch before it in
the rotation is able; when a latch is surely able is the model's reading (log 50). A step of an agent is exec of it. The agenda, which
says who moves, is the model's own (log 1). -/
def Obligations.StepRunsDecodedInstruction : Prop :=
  (∀ (s : State) (c r : Nat) (rest : List Move) (l : Latch) (b : ICBlock), Canonical s → s.agenda = .issue c r :: rest →
    s.mgmt.powered = true → c < numCores → r < 4096 →
    let u := { s with agenda := rest, curCore := c, curRow := r }
    let pc := s.rowPc c r
    let va := s.codeVa c pc
    let user := !ctlMode (s.ctl c r)
    let bytes := (bytesOfNat 32 b.data.toNat).drop (va % 32)
    let raises (w : State) (at_ : BitVec 32) (k : Cause) (code len : Nat) : Prop := step s = .next (w.raise {
      cause := k, pc := at_, code := BitVec.ofNat 8 code, deferred := false, len := len })
    let issues (w : State) (at_ : BitVec 32) (i : Instr) : Prop :=
      (mayIssue i w = false → step s = .next u)
        ∧ (mayIssue i w = true → hazardCode i w l.pending = none → ∃ v, step s = Sys2Proof.Machine.exec i v
            ∧ v = { w with
                cores := v.cores
                stores := s.stores.map (fun q => if q.id.isRow c r then { q with age := q.age + 1 } else q) }
            ∧ (∀ d, d ≠ c → v.core d = s.core d)
            ∧ v.core c = { s.core c with latches := (v.core c).latches, last := l.idx }
            ∧ ∀ q, v.latch? c q = if q = r then some { l with
                count := l.count + 1, pending := l.pending.map (fun p => { p with since := p.since + 1 })
                block := some (va / 32 * 32), hold := if holdsRow (opcodeOf i) = true then 2 else 0
                gather := if opcodeOf i = 0x02 then l.gather else none }
              else (s.latch? c q).map (fun k => { k with hold := k.hold - 1 }))
        ∧ (∀ code o, mayIssue i w = true → hazardCode i w l.pending = some code → i.operands? = some o →
            raises w at_ .haz code o.len.units)
    s.latch? c r = some l → l.intent = .run → s.rowState c r = 2 → u.passedOver c l.idx = false → s.trapDue c r = false →
    s.quantumDue c r = false →
    (∀ p ∈ l.pending, p.since < p.lah) →
    (s.grove (c / 4)).icache.find? (fun k => k.part == s.partid c && k.codebase == (s.core c).codebase && k.va == va / 32 * 32)
      = some b →
    (∀ i, decodeBytes user (va % 32) bytes = .ok (.instr i) → issues u pc i)
      ∧ (∀ i, decodeBytes user (va % 32) bytes = .ok .pad → va % 32 + 4 < 32 → s.codeVa c (pc + 1) = va + 4 →
          decodeBytes user (va % 32 + 4) (bytes.drop 4) = .ok (.instr i) → issues (u.setRowPc c r (pc + 1)) (pc + 1) i)
      ∧ (∀ e, decodeBytes user (va % 32) bytes = .error e → raises u pc (match e with
          | .crossesBlock => .len
          | .privileged => .priv
          | .badPad | .undefinedOpcode | .badLength | .malformed | .tooShort => .ill) 0 (unitsAt bytes)))
  ∧ (∀ (s : State) (c r : Nat) (rest : List Move) (l : Latch), s.agenda = .issue c r :: rest → s.mgmt.powered = true → c < numCores →
      r < 4096 → s.latch? c r = some l →
      let u := { s with agenda := rest, curCore := c, curRow := r }
      u.passedOver c l.idx = true → step s = .next u)
  ∧ ∀ (s : State) (i : Instr) (rest : List Move), s.agenda = .agent i :: rest → s.mgmt.powered = true → WellFormed i →
      i.operands? = none → step s = Sys2Proof.Machine.exec i { s with agenda := rest }

/-- R46, R227, R228, R235, R290, R304, R306, R312, R332, R398, R402: after reset TIME is 0, no row is in a context map, and the registers of
the cores (all of R46), the channels, the residency tables, the matrix units, the groves, the power block (all of R332 but TEMP and FCURVE4 to
FCURVE15, for which it gives no value), the links, the fabric and the partitions have the values that the rules give; memory is in its
canonical form. (That memory reads as zero, and the values that no rule gives, are the model's: log 2.) -/
def Obligations.ResetState : Prop :=
  let s := State.reset
  Canonical s ∧ s.time = 0 ∧ s.mgmt.powered = true
    ∧ (∀ c,
        let x := s.core c
        x.latmax = 8 ∧ x.quantum = 256 ∧ x.agelim = 4096 ∧ x.tags = 0 ∧ x.guards = 0 ∧ x.ctab0 = 0 ∧ x.ctab1 = 0 ∧ x.codebase = 0
          ∧ x.dlogbase = 0 ∧ x.point = 0 ∧ s.partid c = 0 ∧ s.cadence c = 1 ∧ x.latches = [] ∧ x.fifo = [] ∧ x.waits = [] ∧ x.pool = []
          ∧ x.mx.status = 0 ∧ s.contextRows c = []
          ∧ (∀ j, x.mbx.get 0 j = 0 ∧ x.ctxmap.get 0 j = 0 ∧ x.rangeA.get 0 j = 0 ∧ x.rangeB.get 0 j = 0 ∧ (x.res.get ⟨0, 0⟩ j).w0 = 0
              ∧ (x.res.get ⟨0, 0⟩ j).w1 = 0)
          ∧ ∀ ch, (x.chan ch).head = 0 ∧ (x.chan ch).current = 0 ∧ (x.chan ch).status = 0)
    ∧ (∀ g,
        let x := s.grove g
        x.slewV = 0 ∧ x.slewLast = 3 ∧ x.point = 0 ∧ x.idle = 0 ∧ x.ways = 0 ∧ x.lines = [] ∧ x.pins = []
          ∧ ∀ j, (x.gres.get ⟨0, 0⟩ j).w0 = 0 ∧ (x.gres.get ⟨0, 0⟩ j).w1 = 0)
    ∧ (let reads (off v : Nat) : Prop := s.blockLoad off 8 = some (BitVec.ofNat 64 v)
      reads 0x0000 2 ∧ reads 0x0008 0 ∧ reads 0x0010 800000 ∧ reads 0x0018 2400 ∧ reads 0x0060 (1024 + 2 ^ 16)
        ∧ (∀ j, j < 4 → reads (0x0020 + 8 * j) 0)
        ∧ reads 0x0100 (512 * 2 ^ 32 + 2 ^ 32 - 500) ∧ reads 0x0108 (768 * 2 ^ 32 + 2 ^ 32 - 200)
        ∧ reads 0x0110 (922 * 2 ^ 32 + 2 ^ 32 - 100) ∧ reads 0x0118 (1024 * 2 ^ 32 + 2 ^ 32 - 20)
        ∧ (∀ i, i < 8 → reads (0x0180 + 8 * i) (1024 * 2 ^ 32)) ∧ reads 0x01C0 (4 + 2 ^ 8)
        ∧ (∀ k, k < 7 → reads (0x0200 + 8 * k) ([410, 512, 614, 717, 819, 922, 973].getD k 0))
        ∧ reads 0x0240 16 ∧ reads 0x0248 500000 ∧ reads 0x0250 5000000 ∧ reads 0x0258 2000000
        ∧ (∀ k, k < 8 → reads (0x0280 + 8 * k) 0 ∧ reads (0x0300 + 8 * k) 0) ∧ reads 0x02C0 0 ∧ reads 0x02C8 0 ∧ reads 0x0340 0
        ∧ (∀ g, g < 64 → reads (0x0600 + 8 * g) 0) ∧ reads 0x0800 2000 ∧ reads 0x0808 2
        ∧ reads 0x0810 (760 + 840 * 2 ^ 16 + 920 * 2 ^ 32 + 24 * 2 ^ 48) ∧ reads 0x0818 (680 + 760 * 2 ^ 16 + 840 * 2 ^ 32 + 24 * 2 ^ 48)
        ∧ ∀ n, s.levelOf n = 0)
    ∧ (∀ g i, g < 64 → i < 8 → bitsAt (s.power.reg (0x0400 + 8 * g)) (5 * i) 5 = 2 * (i + 1))
    ∧ (∀ n, (s.link n).txSeq = 0 ∧ (s.link n).rxSeq = 0 ∧ ∀ v, (s.link n).credits.get 128 v = 128)
    ∧ s.fabric.nodeId = 0x3FE ∧ s.fabric.tparent = 31 ∧ (∀ n, s.fabric.route.get 31 n = 31)
    ∧ s.power.allowed = 1024 ∧ s.power.cad = 1 ∧ s.power.shed = 0 ∧ s.power.stale = false
    ∧ (∀ p,
        let x := s.part p
        x.groves = 0 ∧ x.root00 = 0 ∧ x.root01 = 0 ∧ x.root11 = 0 ∧ x.gangbase = 0 ∧ x.lockquota = 0 ∧ x.swapop = 0 ∧ x.swapst = 0
          ∧ x.tailva = 0 ∧ x.vector = 0 ∧ x.hdrs = [] ∧ x.refused = 0)

/-- The invariant of memory: whatever the state, a step from memory in its canonical form leaves memory in its canonical form, so that
equal memories are equal data. -/
def Obligations.StepKeepsMemoryCanonical : Prop :=
  ∀ (s t : State), Canonical s → step s = .next t → Canonical t
end

