-- ==== Sys2Proof/Laws/Memory.lean ====
section
/-! SUPPORT. Keyed data and memory: reading back what was written, leaving the rest alone, and keeping the canonical form. -/

namespace Sys2Proof.Machine

/-! ### Keyed data -/

theorem find?_filter_lt {α : Type} (l : List (Nat × α)) (k j : Nat) :
    (l.filter (fun e => decide (e.1 < k))).find? (fun e => e.1 == j) = if j < k then l.find? (fun e => e.1 == j) else none := by
  induction l with
  | nil => simp
  | cons e es ih =>
    rw [List.filter_cons, List.find?_cons]
    by_cases h : e.1 < k
    · rw [if_pos (by simpa using h), List.find?_cons, ih]
      by_cases h2 : e.1 = j
      · rw [show (e.1 == j) = true by simpa using h2]; simp [show j < k by omega]
      · rw [show (e.1 == j) = false by simpa using h2]
    · rw [if_neg (by simpa using h), ih]
      by_cases h2 : e.1 = j
      · simp [show ¬ j < k by omega]
      · rw [show (e.1 == j) = false by simpa using h2]

theorem find?_filter_gt {α : Type} (l : List (Nat × α)) (k j : Nat) :
    (l.filter (fun e => decide (k < e.1))).find? (fun e => e.1 == j) = if k < j then l.find? (fun e => e.1 == j) else none := by
  induction l with
  | nil => simp
  | cons e es ih =>
    rw [List.filter_cons, List.find?_cons]
    by_cases h : k < e.1
    · rw [if_pos (by simpa using h), List.find?_cons, ih]
      by_cases h2 : e.1 = j
      · rw [show (e.1 == j) = true by simpa using h2]; simp [show k < j by omega]
      · rw [show (e.1 == j) = false by simpa using h2]
    · rw [if_neg (by simpa using h), ih]
      by_cases h2 : e.1 = j
      · simp [show ¬ k < j by omega]
      · rw [show (e.1 == j) = false by simpa using h2]

/-- Finding a key in keyed data with the entry of one key replaced. -/
theorem find?_replaced {α : Type} (l mid : List (Nat × α)) (k j : Nat) (hm : ∀ e ∈ mid, e.1 = k) :
    (l.filter (fun e => decide (e.1 < k)) ++ mid ++ l.filter (fun e => decide (k < e.1))).find? (fun e => e.1 == j) =
      if j = k then mid.find? (fun e => e.1 == j) else l.find? (fun e => e.1 == j) := by
  rw [List.find?_append, List.find?_append, find?_filter_lt, find?_filter_gt]
  by_cases h : j = k
  · subst h; simp
  · have hn : mid.find? (fun e => e.1 == j) = none := by
      rw [List.find?_eq_none]; intro e he; rw [hm e he]; simp; exact fun x => h x.symm
    rw [hn, if_neg h]
    rcases Nat.lt_or_gt_of_ne h with h1 | h1
    · simp [h1, Nat.not_lt.2 (Nat.le_of_lt h1)]
    · simp [h1, Nat.not_lt.2 (Nat.le_of_lt h1)]

/-- The entry just set, and every other entry. -/
theorem Sparse.get_set {α : Type} [DecidableEq α] (d : α) (m : Sparse α) (k j : Nat) (v : α) :
    (m.set d k v).get d j = if j = k then v else m.get d j := by
  unfold Sparse.get Sparse.set
  rw [find?_replaced _ _ _ _ (by by_cases h : v = d <;> simp [h])]
  by_cases h : j = k
  · subst h; by_cases h2 : v = d <;> simp [h2]
  · rw [if_neg h, if_neg h]

@[simp] theorem Sparse.get_set_same {α : Type} [DecidableEq α] (d : α) (m : Sparse α) (k : Nat) (v : α) :
    (m.set d k v).get d k = v := by rw [Sparse.get_set, if_pos rfl]

theorem Sparse.get_set_ne {α : Type} [DecidableEq α] (d : α) (m : Sparse α) {k j : Nat} (v : α) (h : j ≠ k) :
    (m.set d k v).get d j = m.get d j := by rw [Sparse.get_set, if_neg h]

/-! ### One byte -/

theorem Memory.read_write (m : Memory) (k j : Nat) (v : Byte) : (m.write k v).read j = if j = k then v else m.read j := by
  unfold Memory.read Memory.write
  rw [find?_replaced _ _ _ _ (by by_cases h : v = Memory.unlisted k <;> simp [h])]
  by_cases h : j = k
  · subst h; by_cases h2 : v = Memory.unlisted j <;> simp [h2]
  · rw [if_neg h, if_neg h]

@[simp] theorem Memory.read_write_same (m : Memory) (k : Nat) (v : Byte) : (m.write k v).read k = v := by
  rw [Memory.read_write, if_pos rfl]

theorem Memory.read_write_ne (m : Memory) {k j : Nat} (v : Byte) (h : j ≠ k) : (m.write k v).read j = m.read j := by
  rw [Memory.read_write, if_neg h]

/-! ### Several bytes -/

/-- The n bytes from k hold v; every other byte is as before. -/
theorem Memory.read_storeNat (n : Nat) : ∀ (m : Memory) (k v j : Nat),
    (m.storeNat n k v).read j = if k ≤ j ∧ j < k + n then BitVec.ofNat 8 (v / 256 ^ (j - k)) else m.read j := by
  induction n with
  | zero => intro m k v j; simp [Memory.storeNat]
  | succ n ih =>
    intro m k v j
    rw [Memory.storeNat, ih, Memory.read_write]
    by_cases h : j = k
    · subst h; simp
    · by_cases h1 : k + 1 ≤ j ∧ j < k + 1 + n
      · have h2 : k ≤ j ∧ j < k + (n + 1) := by omega
        have h3 : j - k = (j - (k + 1)) + 1 := by omega
        rw [if_pos h1, if_pos h2, h3, Nat.pow_succ, Nat.mul_comm, Nat.div_div_eq_div_mul]
      · have h2 : ¬ (k ≤ j ∧ j < k + (n + 1)) := by omega
        rw [if_neg h1, if_neg h2, if_neg h]

theorem Memory.read_storeNat_out (m : Memory) (n k v j : Nat) (h : j < k ∨ k + n ≤ j) :
    (m.storeNat n k v).read j = m.read j := by
  rw [Memory.read_storeNat, if_neg (by omega)]

/-- Loads read only the bytes they name. -/
theorem Memory.loadNat_congr (n : Nat) : ∀ (m m' : Memory) (k : Nat), (∀ j, k ≤ j → j < k + n → m.read j = m'.read j) →
    m.loadNat n k = m'.loadNat n k := by
  induction n with
  | zero => intros; rfl
  | succ n ih =>
    intro m m' k h
    rw [Memory.loadNat, Memory.loadNat, h k (by omega) (by omega), ih m m' (k + 1) (fun j a b => h j (by omega) (by omega))]

theorem Memory.loadNat_storeNat_same (n : Nat) : ∀ (m : Memory) (k v : Nat), (m.storeNat n k v).loadNat n k = v % 256 ^ n := by
  induction n with
  | zero => intro m k v; simp [Memory.loadNat, Nat.mod_one]
  | succ n ih =>
    intro m k v
    rw [Memory.loadNat, Memory.storeNat, ih, Memory.read_storeNat_out _ _ _ _ _ (by omega), Memory.read_write_same,
      Nat.pow_succ, Nat.mul_comm (256 ^ n), Nat.mod_mul]
    simp

theorem Memory.loadNat_storeNat_out (m : Memory) (n k v i l : Nat) (h : l + i ≤ k ∨ k + n ≤ l) :
    (m.storeNat n k v).loadNat i l = m.loadNat i l := by
  apply Memory.loadNat_congr
  intro j h1 h2
  exact Memory.read_storeNat_out _ _ _ _ _ (by omega)

/-- The bytes from k are those written; every other byte is as before. -/
theorem Memory.read_storeBytes (bs : List Byte) : ∀ (m : Memory) (k j : Nat),
    (m.storeBytes k bs).read j = if k ≤ j ∧ j < k + bs.length then bs.getD (j - k) 0 else m.read j := by
  induction bs with
  | nil => intro m k j; simp [Memory.storeBytes]
  | cons b bs ih =>
    intro m k j
    rw [Memory.storeBytes, ih, Memory.read_write]
    by_cases h : j = k
    · subst h; simp
    · by_cases h1 : k + 1 ≤ j ∧ j < k + 1 + bs.length
      · have h2 : k ≤ j ∧ j < k + (b :: bs).length := by simp; omega
        have h3 : j - k = (j - (k + 1)) + 1 := by omega
        rw [if_pos h1, if_pos h2, h3]; simp
      · have h2 : ¬ (k ≤ j ∧ j < k + (b :: bs).length) := by simp; omega
        rw [if_neg h1, if_neg h2, if_neg h]

theorem Memory.read_storeBytes_out (m : Memory) (k : Nat) (bs : List Byte) (j : Nat) (h : j < k ∨ k + bs.length ≤ j) :
    (m.storeBytes k bs).read j = m.read j := by
  rw [Memory.read_storeBytes, if_neg (by omega)]

/-! ### The canonical form -/

theorem risingFrom_filter {α : Type} (p : Nat × α → Bool) (l : List (Nat × α)) : ∀ lo, risingFrom lo l = true →
    risingFrom lo (l.filter p) = true := by
  induction l with
  | nil => intro lo _; rfl
  | cons e es ih =>
    intro lo h
    simp only [risingFrom, Bool.and_eq_true, decide_eq_true_eq] at h
    by_cases hp : p e = true
    · simp [hp, risingFrom, h.1, ih _ h.2]
    · have h2 := ih _ h.2
      simp only [List.filter_cons, hp, Bool.false_eq_true, if_false]
      revert h2
      generalize es.filter p = fs
      intro h2
      cases fs with
      | nil => rfl
      | cons f fs =>
        simp only [risingFrom, Bool.and_eq_true, decide_eq_true_eq] at h2 ⊢
        exact ⟨by omega, h2.2⟩

theorem risingFrom_append {α : Type} (l r : List (Nat × α)) (k : Nat) : ∀ lo, risingFrom lo l = true →
    (∀ e ∈ l, e.1 < k) → risingFrom k r = true → lo ≤ k → risingFrom lo (l ++ r) = true := by
  induction l with
  | nil =>
    intro lo _ _ hr hk
    cases r with
    | nil => rfl
    | cons f fs =>
      simp only [risingFrom, Bool.and_eq_true, decide_eq_true_eq, List.nil_append] at hr ⊢
      exact ⟨by omega, hr.2⟩
  | cons e es ih =>
    intro lo h hl hr hk
    simp only [risingFrom, Bool.and_eq_true, decide_eq_true_eq, List.cons_append] at h ⊢
    exact ⟨h.1, ih _ h.2 (fun x hx => hl x (List.mem_cons_of_mem _ hx)) hr (hl e (List.mem_cons_self ..))⟩

theorem risingFrom_gt {α : Type} (l : List (Nat × α)) (k : Nat) : ∀ lo, risingFrom lo l = true → (∀ e ∈ l, k < e.1) →
    risingFrom (k + 1) l = true := by
  cases l with
  | nil => intros; rfl
  | cons e es =>
    intro lo h hk
    simp only [risingFrom, Bool.and_eq_true, decide_eq_true_eq] at h ⊢
    exact ⟨hk e (List.mem_cons_self ..), h.2⟩

theorem risingFrom_insert {α : Type} (l mid : List (Nat × α)) (k : Nat) (h : risingFrom 0 l = true)
    (hm : mid = [] ∨ ∃ v, mid = [(k, v)]) :
    risingFrom 0 (l.filter (fun e => e.1 < k) ++ mid ++ l.filter (fun e => k < e.1)) = true := by
  have hgt : risingFrom (k + 1) (l.filter (fun e => decide (k < e.1))) = true :=
    risingFrom_gt _ k 0 (risingFrom_filter _ _ _ h) (by simp)
  rw [List.append_assoc]
  apply risingFrom_append _ _ k _ (risingFrom_filter _ _ _ h) (by simp) _ (Nat.zero_le _)
  rcases hm with rfl | ⟨v, rfl⟩
  · exact risingFrom_append [] _ (k + 1) k rfl (by simp) hgt (by omega)
  · simpa [risingFrom] using hgt

/-- A byte written keeps the canonical form. -/
theorem Memory.wf_write (m : Memory) (k : Nat) (v : Byte) (h : m.wf = true) : (m.write k v).wf = true := by
  unfold Memory.wf Memory.write at *
  simp only [Bool.and_eq_true, List.all_eq_true] at h ⊢
  constructor
  · apply risingFrom_insert _ _ _ h.1
    by_cases hv : v = Memory.unlisted k
    · simp [hv]
    · exact Or.inr ⟨v, by simp [hv]⟩
  · intro e he
    simp only [List.mem_append, List.mem_filter] at he
    rcases he with (he | he) | he
    · exact h.2 e he.1
    · by_cases hv : v = Memory.unlisted k
      · simp [hv] at he
      · simp only [hv, if_false, List.mem_singleton] at he; subst he; simpa using hv
    · exact h.2 e he.1

theorem Memory.wf_storeNat (n : Nat) : ∀ (m : Memory) (k v : Nat), m.wf = true → (m.storeNat n k v).wf = true := by
  induction n with
  | zero => intro m k v h; exact h
  | succ n ih => intro m k v h; exact ih _ _ _ (Memory.wf_write _ _ _ h)

theorem Memory.wf_storeBytes (bs : List Byte) : ∀ (m : Memory) (k : Nat), m.wf = true → (m.storeBytes k bs).wf = true := by
  induction bs with
  | nil => intro m k h; exact h
  | cons b bs ih => intro m k h; exact ih _ _ (Memory.wf_write _ _ _ h)

theorem Memory.wf_foldl {β : Type} (f : Memory → β → Memory) (hf : ∀ m b, m.wf = true → (f m b).wf = true) :
    ∀ (l : List β) (m : Memory), m.wf = true → (l.foldl f m).wf = true := by
  intro l
  induction l with
  | nil => intro m h; exact h
  | cons b bs ih => intro m h; exact ih _ (hf m b h)

/-- The canonical form is canonical: two memories in it that read alike are the same data. -/
theorem Memory.wf_reset : (⟨[]⟩ : Memory).wf = true := rfl

end Sys2Proof.Machine
end

