-- ==== Sys2Proof/Laws/State.lean ====
section
/-! SUPPORT. What each update of the state leaves alone: one lemma for a field or an accessor and an update, true by `rfl`. -/

namespace Sys2Proof.Machine

/-! ### `setSlot` -/

@[simp] theorem State.setSlot_poison (s : State) (c r k : Nat) (v : Word) : (s.setSlot c r k v).poison = s.poison := by dsimp only [State.setSlot]
@[simp] theorem State.setSlot_cores (s : State) (c r k : Nat) (v : Word) : (s.setSlot c r k v).cores = s.cores := by dsimp only [State.setSlot]
@[simp] theorem State.setSlot_groves (s : State) (c r k : Nat) (v : Word) : (s.setSlot c r k v).groves = s.groves := by dsimp only [State.setSlot]
@[simp] theorem State.setSlot_stackSts (s : State) (c r k : Nat) (v : Word) : (s.setSlot c r k v).stackSts = s.stackSts := by dsimp only [State.setSlot]
@[simp] theorem State.setSlot_parts (s : State) (c r k : Nat) (v : Word) : (s.setSlot c r k v).parts = s.parts := by dsimp only [State.setSlot]
@[simp] theorem State.setSlot_gangs (s : State) (c r k : Nat) (v : Word) : (s.setSlot c r k v).gangs = s.gangs := by dsimp only [State.setSlot]
@[simp] theorem State.setSlot_tlb (s : State) (c r k : Nat) (v : Word) : (s.setSlot c r k v).tlb = s.tlb := by dsimp only [State.setSlot]
@[simp] theorem State.setSlot_stores (s : State) (c r k : Nat) (v : Word) : (s.setSlot c r k v).stores = s.stores := by dsimp only [State.setSlot]
@[simp] theorem State.setSlot_rowReqs (s : State) (c r k : Nat) (v : Word) : (s.setSlot c r k v).rowReqs = s.rowReqs := by dsimp only [State.setSlot]
@[simp] theorem State.setSlot_arrivals (s : State) (c r k : Nat) (v : Word) : (s.setSlot c r k v).arrivals = s.arrivals := by dsimp only [State.setSlot]
@[simp] theorem State.setSlot_msgs (s : State) (c r k : Nat) (v : Word) : (s.setSlot c r k v).msgs = s.msgs := by dsimp only [State.setSlot]
@[simp] theorem State.setSlot_knocks (s : State) (c r k : Nat) (v : Word) : (s.setSlot c r k v).knocks = s.knocks := by dsimp only [State.setSlot]
@[simp] theorem State.setSlot_links (s : State) (c r k : Nat) (v : Word) : (s.setSlot c r k v).links = s.links := by dsimp only [State.setSlot]
@[simp] theorem State.setSlot_fabric (s : State) (c r k : Nat) (v : Word) : (s.setSlot c r k v).fabric = s.fabric := by dsimp only [State.setSlot]
@[simp] theorem State.setSlot_power (s : State) (c r k : Nat) (v : Word) : (s.setSlot c r k v).power = s.power := by dsimp only [State.setSlot]
@[simp] theorem State.setSlot_mgmt (s : State) (c r k : Nat) (v : Word) : (s.setSlot c r k v).mgmt = s.mgmt := by dsimp only [State.setSlot]
@[simp] theorem State.setSlot_ports (s : State) (c r k : Nat) (v : Word) : (s.setSlot c r k v).ports = s.ports := by dsimp only [State.setSlot]
@[simp] theorem State.setSlot_energy (s : State) (c r k : Nat) (v : Word) : (s.setSlot c r k v).energy = s.energy := by dsimp only [State.setSlot]
@[simp] theorem State.setSlot_reads (s : State) (c r k : Nat) (v : Word) : (s.setSlot c r k v).reads = s.reads := by dsimp only [State.setSlot]
@[simp] theorem State.setSlot_time (s : State) (c r k : Nat) (v : Word) : (s.setSlot c r k v).time = s.time := by dsimp only [State.setSlot]
@[simp] theorem State.setSlot_agenda (s : State) (c r k : Nat) (v : Word) : (s.setSlot c r k v).agenda = s.agenda := by dsimp only [State.setSlot]
@[simp] theorem State.setSlot_curCore (s : State) (c r k : Nat) (v : Word) : (s.setSlot c r k v).curCore = s.curCore := by dsimp only [State.setSlot]
@[simp] theorem State.setSlot_curRow (s : State) (c r k : Nat) (v : Word) : (s.setSlot c r k v).curRow = s.curRow := by dsimp only [State.setSlot]
@[simp] theorem State.setSlot_seq (s : State) (c r k : Nat) (v : Word) : (s.setSlot c r k v).seq = s.seq := by dsimp only [State.setSlot]
@[simp] theorem State.setSlot_draws (s : State) (c r k : Nat) (v : Word) : (s.setSlot c r k v).draws = s.draws := by dsimp only [State.setSlot]
@[simp] theorem State.setSlot_pause (s : State) (c r k : Nat) (v : Word) : (s.setSlot c r k v).pause = s.pause := by dsimp only [State.setSlot]
@[simp] theorem State.setSlot_core_of (s : State) (c r k : Nat) (v : Word) (c' : Nat) : (s.setSlot c r k v).core c' = s.core c' := by dsimp only [State.core, State.setSlot]
@[simp] theorem State.setSlot_grove_of (s : State) (c r k : Nat) (v : Word) (g' : Nat) : (s.setSlot c r k v).grove g' = s.grove g' := by dsimp only [State.grove, State.setSlot]
@[simp] theorem State.setSlot_stack_of (s : State) (c r k : Nat) (v : Word) (k' : Nat) : (s.setSlot c r k v).stack k' = s.stack k' := by dsimp only [State.stack, State.setSlot]
@[simp] theorem State.setSlot_part_of (s : State) (c r k : Nat) (v : Word) (p' : Nat) : (s.setSlot c r k v).part p' = s.part p' := by dsimp only [State.part, State.setSlot]
@[simp] theorem State.setSlot_gang_of (s : State) (c r k : Nat) (v : Word) (p' g' : Nat) : (s.setSlot c r k v).gang p' g' = s.gang p' g' := by dsimp only [State.gang, State.setSlot]
@[simp] theorem State.setSlot_link_of (s : State) (c r k : Nat) (v : Word) (l' : Nat) : (s.setSlot c r k v).link l' = s.link l' := by dsimp only [State.link, State.setSlot]
@[simp] theorem State.setSlot_latch_of (s : State) (c r k : Nat) (v : Word) (c' r' : Nat) : (s.setSlot c r k v).latch? c' r' = s.latch? c' r' := by dsimp only [State.latch?, State.core, State.setSlot]
@[simp] theorem State.setSlot_pendingOf_of (s : State) (c r k : Nat) (v : Word) (c' r' : Nat) : (s.setSlot c r k v).pendingOf c' r' = s.pendingOf c' r' := by dsimp only [State.pendingOf, State.latch?, State.core, State.setSlot]
@[simp] theorem State.setSlot_outstanding_of (s : State) (c r k : Nat) (v : Word) (c' r' : Nat) : (s.setSlot c r k v).outstanding c' r' = s.outstanding c' r' := by dsimp only [State.outstanding, State.setSlot]
@[simp] theorem State.setSlot_partid_of (s : State) (c r k : Nat) (v : Word) (c' : Nat) : (s.setSlot c r k v).partid c' = s.partid c' := by dsimp only [State.partid, State.owns, State.part, State.setSlot]
@[simp] theorem State.setSlot_contextRows_of (s : State) (c r k : Nat) (v : Word) (c' : Nat) : (s.setSlot c r k v).contextRows c' = s.contextRows c' := by dsimp only [State.contextRows, State.core, State.setSlot]
@[simp] theorem State.setSlot_isLocal_of (s : State) (c r k : Nat) (v : Word) (va' : Nat) : (s.setSlot c r k v).isLocal va' = s.isLocal va' := by dsimp only [State.isLocal, State.setSlot]
@[simp] theorem State.setSlot_port_of (s : State) (c r k : Nat) (v : Word) (k' : Nat) : (s.setSlot c r k v).port k' = s.port k' := by dsimp only [State.port, State.setSlot]

/-! ### `setRowBits` -/

@[simp] theorem State.setRowBits_poison (s : State) (c r : Nat) (v : BitVec 2048) : (s.setRowBits c r v).poison = s.poison := by dsimp only [State.setRowBits]
@[simp] theorem State.setRowBits_cores (s : State) (c r : Nat) (v : BitVec 2048) : (s.setRowBits c r v).cores = s.cores := by dsimp only [State.setRowBits]
@[simp] theorem State.setRowBits_groves (s : State) (c r : Nat) (v : BitVec 2048) : (s.setRowBits c r v).groves = s.groves := by dsimp only [State.setRowBits]
@[simp] theorem State.setRowBits_stackSts (s : State) (c r : Nat) (v : BitVec 2048) : (s.setRowBits c r v).stackSts = s.stackSts := by dsimp only [State.setRowBits]
@[simp] theorem State.setRowBits_parts (s : State) (c r : Nat) (v : BitVec 2048) : (s.setRowBits c r v).parts = s.parts := by dsimp only [State.setRowBits]
@[simp] theorem State.setRowBits_gangs (s : State) (c r : Nat) (v : BitVec 2048) : (s.setRowBits c r v).gangs = s.gangs := by dsimp only [State.setRowBits]
@[simp] theorem State.setRowBits_tlb (s : State) (c r : Nat) (v : BitVec 2048) : (s.setRowBits c r v).tlb = s.tlb := by dsimp only [State.setRowBits]
@[simp] theorem State.setRowBits_stores (s : State) (c r : Nat) (v : BitVec 2048) : (s.setRowBits c r v).stores = s.stores := by dsimp only [State.setRowBits]
@[simp] theorem State.setRowBits_rowReqs (s : State) (c r : Nat) (v : BitVec 2048) : (s.setRowBits c r v).rowReqs = s.rowReqs := by dsimp only [State.setRowBits]
@[simp] theorem State.setRowBits_arrivals (s : State) (c r : Nat) (v : BitVec 2048) : (s.setRowBits c r v).arrivals = s.arrivals := by dsimp only [State.setRowBits]
@[simp] theorem State.setRowBits_msgs (s : State) (c r : Nat) (v : BitVec 2048) : (s.setRowBits c r v).msgs = s.msgs := by dsimp only [State.setRowBits]
@[simp] theorem State.setRowBits_knocks (s : State) (c r : Nat) (v : BitVec 2048) : (s.setRowBits c r v).knocks = s.knocks := by dsimp only [State.setRowBits]
@[simp] theorem State.setRowBits_links (s : State) (c r : Nat) (v : BitVec 2048) : (s.setRowBits c r v).links = s.links := by dsimp only [State.setRowBits]
@[simp] theorem State.setRowBits_fabric (s : State) (c r : Nat) (v : BitVec 2048) : (s.setRowBits c r v).fabric = s.fabric := by dsimp only [State.setRowBits]
@[simp] theorem State.setRowBits_power (s : State) (c r : Nat) (v : BitVec 2048) : (s.setRowBits c r v).power = s.power := by dsimp only [State.setRowBits]
@[simp] theorem State.setRowBits_mgmt (s : State) (c r : Nat) (v : BitVec 2048) : (s.setRowBits c r v).mgmt = s.mgmt := by dsimp only [State.setRowBits]
@[simp] theorem State.setRowBits_ports (s : State) (c r : Nat) (v : BitVec 2048) : (s.setRowBits c r v).ports = s.ports := by dsimp only [State.setRowBits]
@[simp] theorem State.setRowBits_energy (s : State) (c r : Nat) (v : BitVec 2048) : (s.setRowBits c r v).energy = s.energy := by dsimp only [State.setRowBits]
@[simp] theorem State.setRowBits_reads (s : State) (c r : Nat) (v : BitVec 2048) : (s.setRowBits c r v).reads = s.reads := by dsimp only [State.setRowBits]
@[simp] theorem State.setRowBits_time (s : State) (c r : Nat) (v : BitVec 2048) : (s.setRowBits c r v).time = s.time := by dsimp only [State.setRowBits]
@[simp] theorem State.setRowBits_agenda (s : State) (c r : Nat) (v : BitVec 2048) : (s.setRowBits c r v).agenda = s.agenda := by dsimp only [State.setRowBits]
@[simp] theorem State.setRowBits_curCore (s : State) (c r : Nat) (v : BitVec 2048) : (s.setRowBits c r v).curCore = s.curCore := by dsimp only [State.setRowBits]
@[simp] theorem State.setRowBits_curRow (s : State) (c r : Nat) (v : BitVec 2048) : (s.setRowBits c r v).curRow = s.curRow := by dsimp only [State.setRowBits]
@[simp] theorem State.setRowBits_seq (s : State) (c r : Nat) (v : BitVec 2048) : (s.setRowBits c r v).seq = s.seq := by dsimp only [State.setRowBits]
@[simp] theorem State.setRowBits_draws (s : State) (c r : Nat) (v : BitVec 2048) : (s.setRowBits c r v).draws = s.draws := by dsimp only [State.setRowBits]
@[simp] theorem State.setRowBits_pause (s : State) (c r : Nat) (v : BitVec 2048) : (s.setRowBits c r v).pause = s.pause := by dsimp only [State.setRowBits]
@[simp] theorem State.setRowBits_core_of (s : State) (c r : Nat) (v : BitVec 2048) (c' : Nat) : (s.setRowBits c r v).core c' = s.core c' := by dsimp only [State.core, State.setRowBits]
@[simp] theorem State.setRowBits_grove_of (s : State) (c r : Nat) (v : BitVec 2048) (g' : Nat) : (s.setRowBits c r v).grove g' = s.grove g' := by dsimp only [State.grove, State.setRowBits]
@[simp] theorem State.setRowBits_stack_of (s : State) (c r : Nat) (v : BitVec 2048) (k' : Nat) : (s.setRowBits c r v).stack k' = s.stack k' := by dsimp only [State.stack, State.setRowBits]
@[simp] theorem State.setRowBits_part_of (s : State) (c r : Nat) (v : BitVec 2048) (p' : Nat) : (s.setRowBits c r v).part p' = s.part p' := by dsimp only [State.part, State.setRowBits]
@[simp] theorem State.setRowBits_gang_of (s : State) (c r : Nat) (v : BitVec 2048) (p' g' : Nat) : (s.setRowBits c r v).gang p' g' = s.gang p' g' := by dsimp only [State.gang, State.setRowBits]
@[simp] theorem State.setRowBits_link_of (s : State) (c r : Nat) (v : BitVec 2048) (l' : Nat) : (s.setRowBits c r v).link l' = s.link l' := by dsimp only [State.link, State.setRowBits]
@[simp] theorem State.setRowBits_latch_of (s : State) (c r : Nat) (v : BitVec 2048) (c' r' : Nat) : (s.setRowBits c r v).latch? c' r' = s.latch? c' r' := by dsimp only [State.latch?, State.core, State.setRowBits]
@[simp] theorem State.setRowBits_pendingOf_of (s : State) (c r : Nat) (v : BitVec 2048) (c' r' : Nat) : (s.setRowBits c r v).pendingOf c' r' = s.pendingOf c' r' := by dsimp only [State.pendingOf, State.latch?, State.core, State.setRowBits]
@[simp] theorem State.setRowBits_outstanding_of (s : State) (c r : Nat) (v : BitVec 2048) (c' r' : Nat) : (s.setRowBits c r v).outstanding c' r' = s.outstanding c' r' := by dsimp only [State.outstanding, State.setRowBits]
@[simp] theorem State.setRowBits_partid_of (s : State) (c r : Nat) (v : BitVec 2048) (c' : Nat) : (s.setRowBits c r v).partid c' = s.partid c' := by dsimp only [State.partid, State.owns, State.part, State.setRowBits]
@[simp] theorem State.setRowBits_contextRows_of (s : State) (c r : Nat) (v : BitVec 2048) (c' : Nat) : (s.setRowBits c r v).contextRows c' = s.contextRows c' := by dsimp only [State.contextRows, State.core, State.setRowBits]
@[simp] theorem State.setRowBits_isLocal_of (s : State) (c r : Nat) (v : BitVec 2048) (va' : Nat) : (s.setRowBits c r v).isLocal va' = s.isLocal va' := by dsimp only [State.isLocal, State.setRowBits]
@[simp] theorem State.setRowBits_port_of (s : State) (c r : Nat) (v : BitVec 2048) (k' : Nat) : (s.setRowBits c r v).port k' = s.port k' := by dsimp only [State.port, State.setRowBits]

/-! ### `setCore` -/

@[simp] theorem State.setCore_mem (s : State) (c : Nat) (x : CoreSt) : (s.setCore c x).mem = s.mem := rfl
@[simp] theorem State.setCore_poison (s : State) (c : Nat) (x : CoreSt) : (s.setCore c x).poison = s.poison := rfl
@[simp] theorem State.setCore_groves (s : State) (c : Nat) (x : CoreSt) : (s.setCore c x).groves = s.groves := rfl
@[simp] theorem State.setCore_stackSts (s : State) (c : Nat) (x : CoreSt) : (s.setCore c x).stackSts = s.stackSts := rfl
@[simp] theorem State.setCore_parts (s : State) (c : Nat) (x : CoreSt) : (s.setCore c x).parts = s.parts := rfl
@[simp] theorem State.setCore_gangs (s : State) (c : Nat) (x : CoreSt) : (s.setCore c x).gangs = s.gangs := rfl
@[simp] theorem State.setCore_tlb (s : State) (c : Nat) (x : CoreSt) : (s.setCore c x).tlb = s.tlb := rfl
@[simp] theorem State.setCore_stores (s : State) (c : Nat) (x : CoreSt) : (s.setCore c x).stores = s.stores := rfl
@[simp] theorem State.setCore_rowReqs (s : State) (c : Nat) (x : CoreSt) : (s.setCore c x).rowReqs = s.rowReqs := rfl
@[simp] theorem State.setCore_arrivals (s : State) (c : Nat) (x : CoreSt) : (s.setCore c x).arrivals = s.arrivals := rfl
@[simp] theorem State.setCore_msgs (s : State) (c : Nat) (x : CoreSt) : (s.setCore c x).msgs = s.msgs := rfl
@[simp] theorem State.setCore_knocks (s : State) (c : Nat) (x : CoreSt) : (s.setCore c x).knocks = s.knocks := rfl
@[simp] theorem State.setCore_links (s : State) (c : Nat) (x : CoreSt) : (s.setCore c x).links = s.links := rfl
@[simp] theorem State.setCore_fabric (s : State) (c : Nat) (x : CoreSt) : (s.setCore c x).fabric = s.fabric := rfl
@[simp] theorem State.setCore_power (s : State) (c : Nat) (x : CoreSt) : (s.setCore c x).power = s.power := rfl
@[simp] theorem State.setCore_mgmt (s : State) (c : Nat) (x : CoreSt) : (s.setCore c x).mgmt = s.mgmt := rfl
@[simp] theorem State.setCore_ports (s : State) (c : Nat) (x : CoreSt) : (s.setCore c x).ports = s.ports := rfl
@[simp] theorem State.setCore_energy (s : State) (c : Nat) (x : CoreSt) : (s.setCore c x).energy = s.energy := rfl
@[simp] theorem State.setCore_reads (s : State) (c : Nat) (x : CoreSt) : (s.setCore c x).reads = s.reads := rfl
@[simp] theorem State.setCore_time (s : State) (c : Nat) (x : CoreSt) : (s.setCore c x).time = s.time := rfl
@[simp] theorem State.setCore_agenda (s : State) (c : Nat) (x : CoreSt) : (s.setCore c x).agenda = s.agenda := rfl
@[simp] theorem State.setCore_curCore (s : State) (c : Nat) (x : CoreSt) : (s.setCore c x).curCore = s.curCore := rfl
@[simp] theorem State.setCore_curRow (s : State) (c : Nat) (x : CoreSt) : (s.setCore c x).curRow = s.curRow := rfl
@[simp] theorem State.setCore_seq (s : State) (c : Nat) (x : CoreSt) : (s.setCore c x).seq = s.seq := rfl
@[simp] theorem State.setCore_draws (s : State) (c : Nat) (x : CoreSt) : (s.setCore c x).draws = s.draws := rfl
@[simp] theorem State.setCore_pause (s : State) (c : Nat) (x : CoreSt) : (s.setCore c x).pause = s.pause := rfl
@[simp] theorem State.setCore_grove_of (s : State) (c : Nat) (x : CoreSt) (g' : Nat) : (s.setCore c x).grove g' = s.grove g' := rfl
@[simp] theorem State.setCore_stack_of (s : State) (c : Nat) (x : CoreSt) (k' : Nat) : (s.setCore c x).stack k' = s.stack k' := rfl
@[simp] theorem State.setCore_part_of (s : State) (c : Nat) (x : CoreSt) (p' : Nat) : (s.setCore c x).part p' = s.part p' := rfl
@[simp] theorem State.setCore_gang_of (s : State) (c : Nat) (x : CoreSt) (p' g' : Nat) : (s.setCore c x).gang p' g' = s.gang p' g' := rfl
@[simp] theorem State.setCore_link_of (s : State) (c : Nat) (x : CoreSt) (l' : Nat) : (s.setCore c x).link l' = s.link l' := rfl
@[simp] theorem State.setCore_slot_of (s : State) (c : Nat) (x : CoreSt) (c' r' k' : Nat) : (s.setCore c x).slot c' r' k' = s.slot c' r' k' := rfl
@[simp] theorem State.setCore_rowBits_of (s : State) (c : Nat) (x : CoreSt) (c' r' : Nat) : (s.setCore c x).rowBits c' r' = s.rowBits c' r' := rfl
@[simp] theorem State.setCore_outstanding_of (s : State) (c : Nat) (x : CoreSt) (c' r' : Nat) : (s.setCore c x).outstanding c' r' = s.outstanding c' r' := rfl
@[simp] theorem State.setCore_partid_of (s : State) (c : Nat) (x : CoreSt) (c' : Nat) : (s.setCore c x).partid c' = s.partid c' := rfl
@[simp] theorem State.setCore_isLocal_of (s : State) (c : Nat) (x : CoreSt) (va' : Nat) : (s.setCore c x).isLocal va' = s.isLocal va' := rfl
@[simp] theorem State.setCore_port_of (s : State) (c : Nat) (x : CoreSt) (k' : Nat) : (s.setCore c x).port k' = s.port k' := rfl

/-! ### `setGrove` -/

@[simp] theorem State.setGrove_mem (s : State) (g : Nat) (x : GroveSt) : (s.setGrove g x).mem = s.mem := rfl
@[simp] theorem State.setGrove_poison (s : State) (g : Nat) (x : GroveSt) : (s.setGrove g x).poison = s.poison := rfl
@[simp] theorem State.setGrove_cores (s : State) (g : Nat) (x : GroveSt) : (s.setGrove g x).cores = s.cores := rfl
@[simp] theorem State.setGrove_stackSts (s : State) (g : Nat) (x : GroveSt) : (s.setGrove g x).stackSts = s.stackSts := rfl
@[simp] theorem State.setGrove_parts (s : State) (g : Nat) (x : GroveSt) : (s.setGrove g x).parts = s.parts := rfl
@[simp] theorem State.setGrove_gangs (s : State) (g : Nat) (x : GroveSt) : (s.setGrove g x).gangs = s.gangs := rfl
@[simp] theorem State.setGrove_tlb (s : State) (g : Nat) (x : GroveSt) : (s.setGrove g x).tlb = s.tlb := rfl
@[simp] theorem State.setGrove_stores (s : State) (g : Nat) (x : GroveSt) : (s.setGrove g x).stores = s.stores := rfl
@[simp] theorem State.setGrove_rowReqs (s : State) (g : Nat) (x : GroveSt) : (s.setGrove g x).rowReqs = s.rowReqs := rfl
@[simp] theorem State.setGrove_arrivals (s : State) (g : Nat) (x : GroveSt) : (s.setGrove g x).arrivals = s.arrivals := rfl
@[simp] theorem State.setGrove_msgs (s : State) (g : Nat) (x : GroveSt) : (s.setGrove g x).msgs = s.msgs := rfl
@[simp] theorem State.setGrove_knocks (s : State) (g : Nat) (x : GroveSt) : (s.setGrove g x).knocks = s.knocks := rfl
@[simp] theorem State.setGrove_links (s : State) (g : Nat) (x : GroveSt) : (s.setGrove g x).links = s.links := rfl
@[simp] theorem State.setGrove_fabric (s : State) (g : Nat) (x : GroveSt) : (s.setGrove g x).fabric = s.fabric := rfl
@[simp] theorem State.setGrove_power (s : State) (g : Nat) (x : GroveSt) : (s.setGrove g x).power = s.power := rfl
@[simp] theorem State.setGrove_mgmt (s : State) (g : Nat) (x : GroveSt) : (s.setGrove g x).mgmt = s.mgmt := rfl
@[simp] theorem State.setGrove_ports (s : State) (g : Nat) (x : GroveSt) : (s.setGrove g x).ports = s.ports := rfl
@[simp] theorem State.setGrove_energy (s : State) (g : Nat) (x : GroveSt) : (s.setGrove g x).energy = s.energy := rfl
@[simp] theorem State.setGrove_reads (s : State) (g : Nat) (x : GroveSt) : (s.setGrove g x).reads = s.reads := rfl
@[simp] theorem State.setGrove_time (s : State) (g : Nat) (x : GroveSt) : (s.setGrove g x).time = s.time := rfl
@[simp] theorem State.setGrove_agenda (s : State) (g : Nat) (x : GroveSt) : (s.setGrove g x).agenda = s.agenda := rfl
@[simp] theorem State.setGrove_curCore (s : State) (g : Nat) (x : GroveSt) : (s.setGrove g x).curCore = s.curCore := rfl
@[simp] theorem State.setGrove_curRow (s : State) (g : Nat) (x : GroveSt) : (s.setGrove g x).curRow = s.curRow := rfl
@[simp] theorem State.setGrove_seq (s : State) (g : Nat) (x : GroveSt) : (s.setGrove g x).seq = s.seq := rfl
@[simp] theorem State.setGrove_draws (s : State) (g : Nat) (x : GroveSt) : (s.setGrove g x).draws = s.draws := rfl
@[simp] theorem State.setGrove_pause (s : State) (g : Nat) (x : GroveSt) : (s.setGrove g x).pause = s.pause := rfl
@[simp] theorem State.setGrove_core_of (s : State) (g : Nat) (x : GroveSt) (c' : Nat) : (s.setGrove g x).core c' = s.core c' := rfl
@[simp] theorem State.setGrove_stack_of (s : State) (g : Nat) (x : GroveSt) (k' : Nat) : (s.setGrove g x).stack k' = s.stack k' := rfl
@[simp] theorem State.setGrove_part_of (s : State) (g : Nat) (x : GroveSt) (p' : Nat) : (s.setGrove g x).part p' = s.part p' := rfl
@[simp] theorem State.setGrove_gang_of (s : State) (g : Nat) (x : GroveSt) (p' g' : Nat) : (s.setGrove g x).gang p' g' = s.gang p' g' := rfl
@[simp] theorem State.setGrove_link_of (s : State) (g : Nat) (x : GroveSt) (l' : Nat) : (s.setGrove g x).link l' = s.link l' := rfl
@[simp] theorem State.setGrove_slot_of (s : State) (g : Nat) (x : GroveSt) (c' r' k' : Nat) : (s.setGrove g x).slot c' r' k' = s.slot c' r' k' := rfl
@[simp] theorem State.setGrove_rowBits_of (s : State) (g : Nat) (x : GroveSt) (c' r' : Nat) : (s.setGrove g x).rowBits c' r' = s.rowBits c' r' := rfl
@[simp] theorem State.setGrove_latch_of (s : State) (g : Nat) (x : GroveSt) (c' r' : Nat) : (s.setGrove g x).latch? c' r' = s.latch? c' r' := rfl
@[simp] theorem State.setGrove_pendingOf_of (s : State) (g : Nat) (x : GroveSt) (c' r' : Nat) : (s.setGrove g x).pendingOf c' r' = s.pendingOf c' r' := rfl
@[simp] theorem State.setGrove_outstanding_of (s : State) (g : Nat) (x : GroveSt) (c' r' : Nat) : (s.setGrove g x).outstanding c' r' = s.outstanding c' r' := rfl
@[simp] theorem State.setGrove_partid_of (s : State) (g : Nat) (x : GroveSt) (c' : Nat) : (s.setGrove g x).partid c' = s.partid c' := rfl
@[simp] theorem State.setGrove_contextRows_of (s : State) (g : Nat) (x : GroveSt) (c' : Nat) : (s.setGrove g x).contextRows c' = s.contextRows c' := rfl
@[simp] theorem State.setGrove_isLocal_of (s : State) (g : Nat) (x : GroveSt) (va' : Nat) : (s.setGrove g x).isLocal va' = s.isLocal va' := rfl
@[simp] theorem State.setGrove_port_of (s : State) (g : Nat) (x : GroveSt) (k' : Nat) : (s.setGrove g x).port k' = s.port k' := rfl

/-! ### `setStack` -/

@[simp] theorem State.setStack_mem (s : State) (k : Nat) (x : StackSt) : (s.setStack k x).mem = s.mem := rfl
@[simp] theorem State.setStack_poison (s : State) (k : Nat) (x : StackSt) : (s.setStack k x).poison = s.poison := rfl
@[simp] theorem State.setStack_cores (s : State) (k : Nat) (x : StackSt) : (s.setStack k x).cores = s.cores := rfl
@[simp] theorem State.setStack_groves (s : State) (k : Nat) (x : StackSt) : (s.setStack k x).groves = s.groves := rfl
@[simp] theorem State.setStack_parts (s : State) (k : Nat) (x : StackSt) : (s.setStack k x).parts = s.parts := rfl
@[simp] theorem State.setStack_gangs (s : State) (k : Nat) (x : StackSt) : (s.setStack k x).gangs = s.gangs := rfl
@[simp] theorem State.setStack_tlb (s : State) (k : Nat) (x : StackSt) : (s.setStack k x).tlb = s.tlb := rfl
@[simp] theorem State.setStack_stores (s : State) (k : Nat) (x : StackSt) : (s.setStack k x).stores = s.stores := rfl
@[simp] theorem State.setStack_rowReqs (s : State) (k : Nat) (x : StackSt) : (s.setStack k x).rowReqs = s.rowReqs := rfl
@[simp] theorem State.setStack_arrivals (s : State) (k : Nat) (x : StackSt) : (s.setStack k x).arrivals = s.arrivals := rfl
@[simp] theorem State.setStack_msgs (s : State) (k : Nat) (x : StackSt) : (s.setStack k x).msgs = s.msgs := rfl
@[simp] theorem State.setStack_knocks (s : State) (k : Nat) (x : StackSt) : (s.setStack k x).knocks = s.knocks := rfl
@[simp] theorem State.setStack_links (s : State) (k : Nat) (x : StackSt) : (s.setStack k x).links = s.links := rfl
@[simp] theorem State.setStack_fabric (s : State) (k : Nat) (x : StackSt) : (s.setStack k x).fabric = s.fabric := rfl
@[simp] theorem State.setStack_power (s : State) (k : Nat) (x : StackSt) : (s.setStack k x).power = s.power := rfl
@[simp] theorem State.setStack_mgmt (s : State) (k : Nat) (x : StackSt) : (s.setStack k x).mgmt = s.mgmt := rfl
@[simp] theorem State.setStack_ports (s : State) (k : Nat) (x : StackSt) : (s.setStack k x).ports = s.ports := rfl
@[simp] theorem State.setStack_energy (s : State) (k : Nat) (x : StackSt) : (s.setStack k x).energy = s.energy := rfl
@[simp] theorem State.setStack_reads (s : State) (k : Nat) (x : StackSt) : (s.setStack k x).reads = s.reads := rfl
@[simp] theorem State.setStack_time (s : State) (k : Nat) (x : StackSt) : (s.setStack k x).time = s.time := rfl
@[simp] theorem State.setStack_agenda (s : State) (k : Nat) (x : StackSt) : (s.setStack k x).agenda = s.agenda := rfl
@[simp] theorem State.setStack_curCore (s : State) (k : Nat) (x : StackSt) : (s.setStack k x).curCore = s.curCore := rfl
@[simp] theorem State.setStack_curRow (s : State) (k : Nat) (x : StackSt) : (s.setStack k x).curRow = s.curRow := rfl
@[simp] theorem State.setStack_seq (s : State) (k : Nat) (x : StackSt) : (s.setStack k x).seq = s.seq := rfl
@[simp] theorem State.setStack_draws (s : State) (k : Nat) (x : StackSt) : (s.setStack k x).draws = s.draws := rfl
@[simp] theorem State.setStack_pause (s : State) (k : Nat) (x : StackSt) : (s.setStack k x).pause = s.pause := rfl
@[simp] theorem State.setStack_core_of (s : State) (k : Nat) (x : StackSt) (c' : Nat) : (s.setStack k x).core c' = s.core c' := rfl
@[simp] theorem State.setStack_grove_of (s : State) (k : Nat) (x : StackSt) (g' : Nat) : (s.setStack k x).grove g' = s.grove g' := rfl
@[simp] theorem State.setStack_part_of (s : State) (k : Nat) (x : StackSt) (p' : Nat) : (s.setStack k x).part p' = s.part p' := rfl
@[simp] theorem State.setStack_gang_of (s : State) (k : Nat) (x : StackSt) (p' g' : Nat) : (s.setStack k x).gang p' g' = s.gang p' g' := rfl
@[simp] theorem State.setStack_link_of (s : State) (k : Nat) (x : StackSt) (l' : Nat) : (s.setStack k x).link l' = s.link l' := rfl
@[simp] theorem State.setStack_slot_of (s : State) (k : Nat) (x : StackSt) (c' r' k' : Nat) : (s.setStack k x).slot c' r' k' = s.slot c' r' k' := rfl
@[simp] theorem State.setStack_rowBits_of (s : State) (k : Nat) (x : StackSt) (c' r' : Nat) : (s.setStack k x).rowBits c' r' = s.rowBits c' r' := rfl
@[simp] theorem State.setStack_latch_of (s : State) (k : Nat) (x : StackSt) (c' r' : Nat) : (s.setStack k x).latch? c' r' = s.latch? c' r' := rfl
@[simp] theorem State.setStack_pendingOf_of (s : State) (k : Nat) (x : StackSt) (c' r' : Nat) : (s.setStack k x).pendingOf c' r' = s.pendingOf c' r' := rfl
@[simp] theorem State.setStack_outstanding_of (s : State) (k : Nat) (x : StackSt) (c' r' : Nat) : (s.setStack k x).outstanding c' r' = s.outstanding c' r' := rfl
@[simp] theorem State.setStack_partid_of (s : State) (k : Nat) (x : StackSt) (c' : Nat) : (s.setStack k x).partid c' = s.partid c' := rfl
@[simp] theorem State.setStack_contextRows_of (s : State) (k : Nat) (x : StackSt) (c' : Nat) : (s.setStack k x).contextRows c' = s.contextRows c' := rfl
@[simp] theorem State.setStack_isLocal_of (s : State) (k : Nat) (x : StackSt) (va' : Nat) : (s.setStack k x).isLocal va' = s.isLocal va' := rfl
@[simp] theorem State.setStack_port_of (s : State) (k : Nat) (x : StackSt) (k' : Nat) : (s.setStack k x).port k' = s.port k' := rfl

/-! ### `setPart` -/

@[simp] theorem State.setPart_mem (s : State) (p : Nat) (x : PartSt) : (s.setPart p x).mem = s.mem := rfl
@[simp] theorem State.setPart_poison (s : State) (p : Nat) (x : PartSt) : (s.setPart p x).poison = s.poison := rfl
@[simp] theorem State.setPart_cores (s : State) (p : Nat) (x : PartSt) : (s.setPart p x).cores = s.cores := rfl
@[simp] theorem State.setPart_groves (s : State) (p : Nat) (x : PartSt) : (s.setPart p x).groves = s.groves := rfl
@[simp] theorem State.setPart_stackSts (s : State) (p : Nat) (x : PartSt) : (s.setPart p x).stackSts = s.stackSts := rfl
@[simp] theorem State.setPart_gangs (s : State) (p : Nat) (x : PartSt) : (s.setPart p x).gangs = s.gangs := rfl
@[simp] theorem State.setPart_tlb (s : State) (p : Nat) (x : PartSt) : (s.setPart p x).tlb = s.tlb := rfl
@[simp] theorem State.setPart_stores (s : State) (p : Nat) (x : PartSt) : (s.setPart p x).stores = s.stores := rfl
@[simp] theorem State.setPart_rowReqs (s : State) (p : Nat) (x : PartSt) : (s.setPart p x).rowReqs = s.rowReqs := rfl
@[simp] theorem State.setPart_arrivals (s : State) (p : Nat) (x : PartSt) : (s.setPart p x).arrivals = s.arrivals := rfl
@[simp] theorem State.setPart_msgs (s : State) (p : Nat) (x : PartSt) : (s.setPart p x).msgs = s.msgs := rfl
@[simp] theorem State.setPart_knocks (s : State) (p : Nat) (x : PartSt) : (s.setPart p x).knocks = s.knocks := rfl
@[simp] theorem State.setPart_links (s : State) (p : Nat) (x : PartSt) : (s.setPart p x).links = s.links := rfl
@[simp] theorem State.setPart_fabric (s : State) (p : Nat) (x : PartSt) : (s.setPart p x).fabric = s.fabric := rfl
@[simp] theorem State.setPart_power (s : State) (p : Nat) (x : PartSt) : (s.setPart p x).power = s.power := rfl
@[simp] theorem State.setPart_mgmt (s : State) (p : Nat) (x : PartSt) : (s.setPart p x).mgmt = s.mgmt := rfl
@[simp] theorem State.setPart_ports (s : State) (p : Nat) (x : PartSt) : (s.setPart p x).ports = s.ports := rfl
@[simp] theorem State.setPart_energy (s : State) (p : Nat) (x : PartSt) : (s.setPart p x).energy = s.energy := rfl
@[simp] theorem State.setPart_reads (s : State) (p : Nat) (x : PartSt) : (s.setPart p x).reads = s.reads := rfl
@[simp] theorem State.setPart_time (s : State) (p : Nat) (x : PartSt) : (s.setPart p x).time = s.time := rfl
@[simp] theorem State.setPart_agenda (s : State) (p : Nat) (x : PartSt) : (s.setPart p x).agenda = s.agenda := rfl
@[simp] theorem State.setPart_curCore (s : State) (p : Nat) (x : PartSt) : (s.setPart p x).curCore = s.curCore := rfl
@[simp] theorem State.setPart_curRow (s : State) (p : Nat) (x : PartSt) : (s.setPart p x).curRow = s.curRow := rfl
@[simp] theorem State.setPart_seq (s : State) (p : Nat) (x : PartSt) : (s.setPart p x).seq = s.seq := rfl
@[simp] theorem State.setPart_draws (s : State) (p : Nat) (x : PartSt) : (s.setPart p x).draws = s.draws := rfl
@[simp] theorem State.setPart_pause (s : State) (p : Nat) (x : PartSt) : (s.setPart p x).pause = s.pause := rfl
@[simp] theorem State.setPart_core_of (s : State) (p : Nat) (x : PartSt) (c' : Nat) : (s.setPart p x).core c' = s.core c' := rfl
@[simp] theorem State.setPart_grove_of (s : State) (p : Nat) (x : PartSt) (g' : Nat) : (s.setPart p x).grove g' = s.grove g' := rfl
@[simp] theorem State.setPart_stack_of (s : State) (p : Nat) (x : PartSt) (k' : Nat) : (s.setPart p x).stack k' = s.stack k' := rfl
@[simp] theorem State.setPart_gang_of (s : State) (p : Nat) (x : PartSt) (p' g' : Nat) : (s.setPart p x).gang p' g' = s.gang p' g' := rfl
@[simp] theorem State.setPart_link_of (s : State) (p : Nat) (x : PartSt) (l' : Nat) : (s.setPart p x).link l' = s.link l' := rfl
@[simp] theorem State.setPart_slot_of (s : State) (p : Nat) (x : PartSt) (c' r' k' : Nat) : (s.setPart p x).slot c' r' k' = s.slot c' r' k' := rfl
@[simp] theorem State.setPart_rowBits_of (s : State) (p : Nat) (x : PartSt) (c' r' : Nat) : (s.setPart p x).rowBits c' r' = s.rowBits c' r' := rfl
@[simp] theorem State.setPart_latch_of (s : State) (p : Nat) (x : PartSt) (c' r' : Nat) : (s.setPart p x).latch? c' r' = s.latch? c' r' := rfl
@[simp] theorem State.setPart_pendingOf_of (s : State) (p : Nat) (x : PartSt) (c' r' : Nat) : (s.setPart p x).pendingOf c' r' = s.pendingOf c' r' := rfl
@[simp] theorem State.setPart_outstanding_of (s : State) (p : Nat) (x : PartSt) (c' r' : Nat) : (s.setPart p x).outstanding c' r' = s.outstanding c' r' := rfl
@[simp] theorem State.setPart_contextRows_of (s : State) (p : Nat) (x : PartSt) (c' : Nat) : (s.setPart p x).contextRows c' = s.contextRows c' := rfl
@[simp] theorem State.setPart_isLocal_of (s : State) (p : Nat) (x : PartSt) (va' : Nat) : (s.setPart p x).isLocal va' = s.isLocal va' := rfl
@[simp] theorem State.setPart_port_of (s : State) (p : Nat) (x : PartSt) (k' : Nat) : (s.setPart p x).port k' = s.port k' := rfl

/-! ### `setGang` -/

@[simp] theorem State.setGang_mem (s : State) (p g : Nat) (x : GangSt) : (s.setGang p g x).mem = s.mem := rfl
@[simp] theorem State.setGang_poison (s : State) (p g : Nat) (x : GangSt) : (s.setGang p g x).poison = s.poison := rfl
@[simp] theorem State.setGang_cores (s : State) (p g : Nat) (x : GangSt) : (s.setGang p g x).cores = s.cores := rfl
@[simp] theorem State.setGang_groves (s : State) (p g : Nat) (x : GangSt) : (s.setGang p g x).groves = s.groves := rfl
@[simp] theorem State.setGang_stackSts (s : State) (p g : Nat) (x : GangSt) : (s.setGang p g x).stackSts = s.stackSts := rfl
@[simp] theorem State.setGang_parts (s : State) (p g : Nat) (x : GangSt) : (s.setGang p g x).parts = s.parts := rfl
@[simp] theorem State.setGang_tlb (s : State) (p g : Nat) (x : GangSt) : (s.setGang p g x).tlb = s.tlb := rfl
@[simp] theorem State.setGang_stores (s : State) (p g : Nat) (x : GangSt) : (s.setGang p g x).stores = s.stores := rfl
@[simp] theorem State.setGang_rowReqs (s : State) (p g : Nat) (x : GangSt) : (s.setGang p g x).rowReqs = s.rowReqs := rfl
@[simp] theorem State.setGang_arrivals (s : State) (p g : Nat) (x : GangSt) : (s.setGang p g x).arrivals = s.arrivals := rfl
@[simp] theorem State.setGang_msgs (s : State) (p g : Nat) (x : GangSt) : (s.setGang p g x).msgs = s.msgs := rfl
@[simp] theorem State.setGang_knocks (s : State) (p g : Nat) (x : GangSt) : (s.setGang p g x).knocks = s.knocks := rfl
@[simp] theorem State.setGang_links (s : State) (p g : Nat) (x : GangSt) : (s.setGang p g x).links = s.links := rfl
@[simp] theorem State.setGang_fabric (s : State) (p g : Nat) (x : GangSt) : (s.setGang p g x).fabric = s.fabric := rfl
@[simp] theorem State.setGang_power (s : State) (p g : Nat) (x : GangSt) : (s.setGang p g x).power = s.power := rfl
@[simp] theorem State.setGang_mgmt (s : State) (p g : Nat) (x : GangSt) : (s.setGang p g x).mgmt = s.mgmt := rfl
@[simp] theorem State.setGang_ports (s : State) (p g : Nat) (x : GangSt) : (s.setGang p g x).ports = s.ports := rfl
@[simp] theorem State.setGang_energy (s : State) (p g : Nat) (x : GangSt) : (s.setGang p g x).energy = s.energy := rfl
@[simp] theorem State.setGang_reads (s : State) (p g : Nat) (x : GangSt) : (s.setGang p g x).reads = s.reads := rfl
@[simp] theorem State.setGang_time (s : State) (p g : Nat) (x : GangSt) : (s.setGang p g x).time = s.time := rfl
@[simp] theorem State.setGang_agenda (s : State) (p g : Nat) (x : GangSt) : (s.setGang p g x).agenda = s.agenda := rfl
@[simp] theorem State.setGang_curCore (s : State) (p g : Nat) (x : GangSt) : (s.setGang p g x).curCore = s.curCore := rfl
@[simp] theorem State.setGang_curRow (s : State) (p g : Nat) (x : GangSt) : (s.setGang p g x).curRow = s.curRow := rfl
@[simp] theorem State.setGang_seq (s : State) (p g : Nat) (x : GangSt) : (s.setGang p g x).seq = s.seq := rfl
@[simp] theorem State.setGang_draws (s : State) (p g : Nat) (x : GangSt) : (s.setGang p g x).draws = s.draws := rfl
@[simp] theorem State.setGang_pause (s : State) (p g : Nat) (x : GangSt) : (s.setGang p g x).pause = s.pause := rfl
@[simp] theorem State.setGang_core_of (s : State) (p g : Nat) (x : GangSt) (c' : Nat) : (s.setGang p g x).core c' = s.core c' := rfl
@[simp] theorem State.setGang_grove_of (s : State) (p g : Nat) (x : GangSt) (g' : Nat) : (s.setGang p g x).grove g' = s.grove g' := rfl
@[simp] theorem State.setGang_stack_of (s : State) (p g : Nat) (x : GangSt) (k' : Nat) : (s.setGang p g x).stack k' = s.stack k' := rfl
@[simp] theorem State.setGang_part_of (s : State) (p g : Nat) (x : GangSt) (p' : Nat) : (s.setGang p g x).part p' = s.part p' := rfl
@[simp] theorem State.setGang_link_of (s : State) (p g : Nat) (x : GangSt) (l' : Nat) : (s.setGang p g x).link l' = s.link l' := rfl
@[simp] theorem State.setGang_slot_of (s : State) (p g : Nat) (x : GangSt) (c' r' k' : Nat) : (s.setGang p g x).slot c' r' k' = s.slot c' r' k' := rfl
@[simp] theorem State.setGang_rowBits_of (s : State) (p g : Nat) (x : GangSt) (c' r' : Nat) : (s.setGang p g x).rowBits c' r' = s.rowBits c' r' := rfl
@[simp] theorem State.setGang_latch_of (s : State) (p g : Nat) (x : GangSt) (c' r' : Nat) : (s.setGang p g x).latch? c' r' = s.latch? c' r' := rfl
@[simp] theorem State.setGang_pendingOf_of (s : State) (p g : Nat) (x : GangSt) (c' r' : Nat) : (s.setGang p g x).pendingOf c' r' = s.pendingOf c' r' := rfl
@[simp] theorem State.setGang_outstanding_of (s : State) (p g : Nat) (x : GangSt) (c' r' : Nat) : (s.setGang p g x).outstanding c' r' = s.outstanding c' r' := rfl
@[simp] theorem State.setGang_partid_of (s : State) (p g : Nat) (x : GangSt) (c' : Nat) : (s.setGang p g x).partid c' = s.partid c' := rfl
@[simp] theorem State.setGang_contextRows_of (s : State) (p g : Nat) (x : GangSt) (c' : Nat) : (s.setGang p g x).contextRows c' = s.contextRows c' := rfl
@[simp] theorem State.setGang_isLocal_of (s : State) (p g : Nat) (x : GangSt) (va' : Nat) : (s.setGang p g x).isLocal va' = s.isLocal va' := rfl
@[simp] theorem State.setGang_port_of (s : State) (p g : Nat) (x : GangSt) (k' : Nat) : (s.setGang p g x).port k' = s.port k' := rfl

/-! ### `setLink` -/

@[simp] theorem State.setLink_mem (s : State) (l : Nat) (x : LinkSt) : (s.setLink l x).mem = s.mem := rfl
@[simp] theorem State.setLink_poison (s : State) (l : Nat) (x : LinkSt) : (s.setLink l x).poison = s.poison := rfl
@[simp] theorem State.setLink_cores (s : State) (l : Nat) (x : LinkSt) : (s.setLink l x).cores = s.cores := rfl
@[simp] theorem State.setLink_groves (s : State) (l : Nat) (x : LinkSt) : (s.setLink l x).groves = s.groves := rfl
@[simp] theorem State.setLink_stackSts (s : State) (l : Nat) (x : LinkSt) : (s.setLink l x).stackSts = s.stackSts := rfl
@[simp] theorem State.setLink_parts (s : State) (l : Nat) (x : LinkSt) : (s.setLink l x).parts = s.parts := rfl
@[simp] theorem State.setLink_gangs (s : State) (l : Nat) (x : LinkSt) : (s.setLink l x).gangs = s.gangs := rfl
@[simp] theorem State.setLink_tlb (s : State) (l : Nat) (x : LinkSt) : (s.setLink l x).tlb = s.tlb := rfl
@[simp] theorem State.setLink_stores (s : State) (l : Nat) (x : LinkSt) : (s.setLink l x).stores = s.stores := rfl
@[simp] theorem State.setLink_rowReqs (s : State) (l : Nat) (x : LinkSt) : (s.setLink l x).rowReqs = s.rowReqs := rfl
@[simp] theorem State.setLink_arrivals (s : State) (l : Nat) (x : LinkSt) : (s.setLink l x).arrivals = s.arrivals := rfl
@[simp] theorem State.setLink_msgs (s : State) (l : Nat) (x : LinkSt) : (s.setLink l x).msgs = s.msgs := rfl
@[simp] theorem State.setLink_knocks (s : State) (l : Nat) (x : LinkSt) : (s.setLink l x).knocks = s.knocks := rfl
@[simp] theorem State.setLink_fabric (s : State) (l : Nat) (x : LinkSt) : (s.setLink l x).fabric = s.fabric := rfl
@[simp] theorem State.setLink_power (s : State) (l : Nat) (x : LinkSt) : (s.setLink l x).power = s.power := rfl
@[simp] theorem State.setLink_mgmt (s : State) (l : Nat) (x : LinkSt) : (s.setLink l x).mgmt = s.mgmt := rfl
@[simp] theorem State.setLink_ports (s : State) (l : Nat) (x : LinkSt) : (s.setLink l x).ports = s.ports := rfl
@[simp] theorem State.setLink_energy (s : State) (l : Nat) (x : LinkSt) : (s.setLink l x).energy = s.energy := rfl
@[simp] theorem State.setLink_reads (s : State) (l : Nat) (x : LinkSt) : (s.setLink l x).reads = s.reads := rfl
@[simp] theorem State.setLink_time (s : State) (l : Nat) (x : LinkSt) : (s.setLink l x).time = s.time := rfl
@[simp] theorem State.setLink_agenda (s : State) (l : Nat) (x : LinkSt) : (s.setLink l x).agenda = s.agenda := rfl
@[simp] theorem State.setLink_curCore (s : State) (l : Nat) (x : LinkSt) : (s.setLink l x).curCore = s.curCore := rfl
@[simp] theorem State.setLink_curRow (s : State) (l : Nat) (x : LinkSt) : (s.setLink l x).curRow = s.curRow := rfl
@[simp] theorem State.setLink_seq (s : State) (l : Nat) (x : LinkSt) : (s.setLink l x).seq = s.seq := rfl
@[simp] theorem State.setLink_draws (s : State) (l : Nat) (x : LinkSt) : (s.setLink l x).draws = s.draws := rfl
@[simp] theorem State.setLink_pause (s : State) (l : Nat) (x : LinkSt) : (s.setLink l x).pause = s.pause := rfl
@[simp] theorem State.setLink_core_of (s : State) (l : Nat) (x : LinkSt) (c' : Nat) : (s.setLink l x).core c' = s.core c' := rfl
@[simp] theorem State.setLink_grove_of (s : State) (l : Nat) (x : LinkSt) (g' : Nat) : (s.setLink l x).grove g' = s.grove g' := rfl
@[simp] theorem State.setLink_stack_of (s : State) (l : Nat) (x : LinkSt) (k' : Nat) : (s.setLink l x).stack k' = s.stack k' := rfl
@[simp] theorem State.setLink_part_of (s : State) (l : Nat) (x : LinkSt) (p' : Nat) : (s.setLink l x).part p' = s.part p' := rfl
@[simp] theorem State.setLink_gang_of (s : State) (l : Nat) (x : LinkSt) (p' g' : Nat) : (s.setLink l x).gang p' g' = s.gang p' g' := rfl
@[simp] theorem State.setLink_slot_of (s : State) (l : Nat) (x : LinkSt) (c' r' k' : Nat) : (s.setLink l x).slot c' r' k' = s.slot c' r' k' := rfl
@[simp] theorem State.setLink_rowBits_of (s : State) (l : Nat) (x : LinkSt) (c' r' : Nat) : (s.setLink l x).rowBits c' r' = s.rowBits c' r' := rfl
@[simp] theorem State.setLink_latch_of (s : State) (l : Nat) (x : LinkSt) (c' r' : Nat) : (s.setLink l x).latch? c' r' = s.latch? c' r' := rfl
@[simp] theorem State.setLink_pendingOf_of (s : State) (l : Nat) (x : LinkSt) (c' r' : Nat) : (s.setLink l x).pendingOf c' r' = s.pendingOf c' r' := rfl
@[simp] theorem State.setLink_outstanding_of (s : State) (l : Nat) (x : LinkSt) (c' r' : Nat) : (s.setLink l x).outstanding c' r' = s.outstanding c' r' := rfl
@[simp] theorem State.setLink_partid_of (s : State) (l : Nat) (x : LinkSt) (c' : Nat) : (s.setLink l x).partid c' = s.partid c' := rfl
@[simp] theorem State.setLink_contextRows_of (s : State) (l : Nat) (x : LinkSt) (c' : Nat) : (s.setLink l x).contextRows c' = s.contextRows c' := rfl
@[simp] theorem State.setLink_isLocal_of (s : State) (l : Nat) (x : LinkSt) (va' : Nat) : (s.setLink l x).isLocal va' = s.isLocal va' := rfl
@[simp] theorem State.setLink_port_of (s : State) (l : Nat) (x : LinkSt) (k' : Nat) : (s.setLink l x).port k' = s.port k' := rfl

/-! ### `cleanse` -/

@[simp] theorem State.cleanse_mem (s : State) (k n : Nat) : (s.cleanse k n).mem = s.mem := rfl
@[simp] theorem State.cleanse_cores (s : State) (k n : Nat) : (s.cleanse k n).cores = s.cores := rfl
@[simp] theorem State.cleanse_groves (s : State) (k n : Nat) : (s.cleanse k n).groves = s.groves := rfl
@[simp] theorem State.cleanse_stackSts (s : State) (k n : Nat) : (s.cleanse k n).stackSts = s.stackSts := rfl
@[simp] theorem State.cleanse_parts (s : State) (k n : Nat) : (s.cleanse k n).parts = s.parts := rfl
@[simp] theorem State.cleanse_gangs (s : State) (k n : Nat) : (s.cleanse k n).gangs = s.gangs := rfl
@[simp] theorem State.cleanse_tlb (s : State) (k n : Nat) : (s.cleanse k n).tlb = s.tlb := rfl
@[simp] theorem State.cleanse_stores (s : State) (k n : Nat) : (s.cleanse k n).stores = s.stores := rfl
@[simp] theorem State.cleanse_rowReqs (s : State) (k n : Nat) : (s.cleanse k n).rowReqs = s.rowReqs := rfl
@[simp] theorem State.cleanse_arrivals (s : State) (k n : Nat) : (s.cleanse k n).arrivals = s.arrivals := rfl
@[simp] theorem State.cleanse_msgs (s : State) (k n : Nat) : (s.cleanse k n).msgs = s.msgs := rfl
@[simp] theorem State.cleanse_knocks (s : State) (k n : Nat) : (s.cleanse k n).knocks = s.knocks := rfl
@[simp] theorem State.cleanse_links (s : State) (k n : Nat) : (s.cleanse k n).links = s.links := rfl
@[simp] theorem State.cleanse_fabric (s : State) (k n : Nat) : (s.cleanse k n).fabric = s.fabric := rfl
@[simp] theorem State.cleanse_power (s : State) (k n : Nat) : (s.cleanse k n).power = s.power := rfl
@[simp] theorem State.cleanse_mgmt (s : State) (k n : Nat) : (s.cleanse k n).mgmt = s.mgmt := rfl
@[simp] theorem State.cleanse_ports (s : State) (k n : Nat) : (s.cleanse k n).ports = s.ports := rfl
@[simp] theorem State.cleanse_energy (s : State) (k n : Nat) : (s.cleanse k n).energy = s.energy := rfl
@[simp] theorem State.cleanse_reads (s : State) (k n : Nat) : (s.cleanse k n).reads = s.reads := rfl
@[simp] theorem State.cleanse_time (s : State) (k n : Nat) : (s.cleanse k n).time = s.time := rfl
@[simp] theorem State.cleanse_agenda (s : State) (k n : Nat) : (s.cleanse k n).agenda = s.agenda := rfl
@[simp] theorem State.cleanse_curCore (s : State) (k n : Nat) : (s.cleanse k n).curCore = s.curCore := rfl
@[simp] theorem State.cleanse_curRow (s : State) (k n : Nat) : (s.cleanse k n).curRow = s.curRow := rfl
@[simp] theorem State.cleanse_seq (s : State) (k n : Nat) : (s.cleanse k n).seq = s.seq := rfl
@[simp] theorem State.cleanse_draws (s : State) (k n : Nat) : (s.cleanse k n).draws = s.draws := rfl
@[simp] theorem State.cleanse_pause (s : State) (k n : Nat) : (s.cleanse k n).pause = s.pause := rfl
@[simp] theorem State.cleanse_core_of (s : State) (k n : Nat) (c' : Nat) : (s.cleanse k n).core c' = s.core c' := rfl
@[simp] theorem State.cleanse_grove_of (s : State) (k n : Nat) (g' : Nat) : (s.cleanse k n).grove g' = s.grove g' := rfl
@[simp] theorem State.cleanse_stack_of (s : State) (k n : Nat) (k' : Nat) : (s.cleanse k n).stack k' = s.stack k' := rfl
@[simp] theorem State.cleanse_part_of (s : State) (k n : Nat) (p' : Nat) : (s.cleanse k n).part p' = s.part p' := rfl
@[simp] theorem State.cleanse_gang_of (s : State) (k n : Nat) (p' g' : Nat) : (s.cleanse k n).gang p' g' = s.gang p' g' := rfl
@[simp] theorem State.cleanse_link_of (s : State) (k n : Nat) (l' : Nat) : (s.cleanse k n).link l' = s.link l' := rfl
@[simp] theorem State.cleanse_slot_of (s : State) (k n : Nat) (c' r' k' : Nat) : (s.cleanse k n).slot c' r' k' = s.slot c' r' k' := rfl
@[simp] theorem State.cleanse_rowBits_of (s : State) (k n : Nat) (c' r' : Nat) : (s.cleanse k n).rowBits c' r' = s.rowBits c' r' := rfl
@[simp] theorem State.cleanse_latch_of (s : State) (k n : Nat) (c' r' : Nat) : (s.cleanse k n).latch? c' r' = s.latch? c' r' := rfl
@[simp] theorem State.cleanse_pendingOf_of (s : State) (k n : Nat) (c' r' : Nat) : (s.cleanse k n).pendingOf c' r' = s.pendingOf c' r' := rfl
@[simp] theorem State.cleanse_outstanding_of (s : State) (k n : Nat) (c' r' : Nat) : (s.cleanse k n).outstanding c' r' = s.outstanding c' r' := rfl
@[simp] theorem State.cleanse_partid_of (s : State) (k n : Nat) (c' : Nat) : (s.cleanse k n).partid c' = s.partid c' := rfl
@[simp] theorem State.cleanse_contextRows_of (s : State) (k n : Nat) (c' : Nat) : (s.cleanse k n).contextRows c' = s.contextRows c' := rfl
@[simp] theorem State.cleanse_isLocal_of (s : State) (k n : Nat) (va' : Nat) : (s.cleanse k n).isLocal va' = s.isLocal va' := rfl
@[simp] theorem State.cleanse_port_of (s : State) (k n : Nat) (k' : Nat) : (s.cleanse k n).port k' = s.port k' := rfl

/-! ### `draw` -/

@[simp] theorem State.draw_mem (s : State) : (s.draw).mem = s.mem := rfl
@[simp] theorem State.draw_poison (s : State) : (s.draw).poison = s.poison := rfl
@[simp] theorem State.draw_cores (s : State) : (s.draw).cores = s.cores := rfl
@[simp] theorem State.draw_groves (s : State) : (s.draw).groves = s.groves := rfl
@[simp] theorem State.draw_stackSts (s : State) : (s.draw).stackSts = s.stackSts := rfl
@[simp] theorem State.draw_parts (s : State) : (s.draw).parts = s.parts := rfl
@[simp] theorem State.draw_gangs (s : State) : (s.draw).gangs = s.gangs := rfl
@[simp] theorem State.draw_tlb (s : State) : (s.draw).tlb = s.tlb := rfl
@[simp] theorem State.draw_stores (s : State) : (s.draw).stores = s.stores := rfl
@[simp] theorem State.draw_rowReqs (s : State) : (s.draw).rowReqs = s.rowReqs := rfl
@[simp] theorem State.draw_arrivals (s : State) : (s.draw).arrivals = s.arrivals := rfl
@[simp] theorem State.draw_msgs (s : State) : (s.draw).msgs = s.msgs := rfl
@[simp] theorem State.draw_knocks (s : State) : (s.draw).knocks = s.knocks := rfl
@[simp] theorem State.draw_links (s : State) : (s.draw).links = s.links := rfl
@[simp] theorem State.draw_fabric (s : State) : (s.draw).fabric = s.fabric := rfl
@[simp] theorem State.draw_power (s : State) : (s.draw).power = s.power := rfl
@[simp] theorem State.draw_mgmt (s : State) : (s.draw).mgmt = s.mgmt := rfl
@[simp] theorem State.draw_ports (s : State) : (s.draw).ports = s.ports := rfl
@[simp] theorem State.draw_energy (s : State) : (s.draw).energy = s.energy := rfl
@[simp] theorem State.draw_reads (s : State) : (s.draw).reads = s.reads := rfl
@[simp] theorem State.draw_time (s : State) : (s.draw).time = s.time := rfl
@[simp] theorem State.draw_agenda (s : State) : (s.draw).agenda = s.agenda := rfl
@[simp] theorem State.draw_curCore (s : State) : (s.draw).curCore = s.curCore := rfl
@[simp] theorem State.draw_curRow (s : State) : (s.draw).curRow = s.curRow := rfl
@[simp] theorem State.draw_seq (s : State) : (s.draw).seq = s.seq := rfl
@[simp] theorem State.draw_pause (s : State) : (s.draw).pause = s.pause := rfl
@[simp] theorem State.draw_core_of (s : State) (c' : Nat) : (s.draw).core c' = s.core c' := rfl
@[simp] theorem State.draw_grove_of (s : State) (g' : Nat) : (s.draw).grove g' = s.grove g' := rfl
@[simp] theorem State.draw_stack_of (s : State) (k' : Nat) : (s.draw).stack k' = s.stack k' := rfl
@[simp] theorem State.draw_part_of (s : State) (p' : Nat) : (s.draw).part p' = s.part p' := rfl
@[simp] theorem State.draw_gang_of (s : State) (p' g' : Nat) : (s.draw).gang p' g' = s.gang p' g' := rfl
@[simp] theorem State.draw_link_of (s : State) (l' : Nat) : (s.draw).link l' = s.link l' := rfl
@[simp] theorem State.draw_slot_of (s : State) (c' r' k' : Nat) : (s.draw).slot c' r' k' = s.slot c' r' k' := rfl
@[simp] theorem State.draw_rowBits_of (s : State) (c' r' : Nat) : (s.draw).rowBits c' r' = s.rowBits c' r' := rfl
@[simp] theorem State.draw_latch_of (s : State) (c' r' : Nat) : (s.draw).latch? c' r' = s.latch? c' r' := rfl
@[simp] theorem State.draw_pendingOf_of (s : State) (c' r' : Nat) : (s.draw).pendingOf c' r' = s.pendingOf c' r' := rfl
@[simp] theorem State.draw_outstanding_of (s : State) (c' r' : Nat) : (s.draw).outstanding c' r' = s.outstanding c' r' := rfl
@[simp] theorem State.draw_partid_of (s : State) (c' : Nat) : (s.draw).partid c' = s.partid c' := rfl
@[simp] theorem State.draw_contextRows_of (s : State) (c' : Nat) : (s.draw).contextRows c' = s.contextRows c' := rfl
@[simp] theorem State.draw_isLocal_of (s : State) (va' : Nat) : (s.draw).isLocal va' = s.isLocal va' := rfl
@[simp] theorem State.draw_port_of (s : State) (k' : Nat) : (s.draw).port k' = s.port k' := rfl

/-! ### `bump` -/

@[simp] theorem State.bump_mem (s : State) : (s.bump).mem = s.mem := rfl
@[simp] theorem State.bump_poison (s : State) : (s.bump).poison = s.poison := rfl
@[simp] theorem State.bump_cores (s : State) : (s.bump).cores = s.cores := rfl
@[simp] theorem State.bump_groves (s : State) : (s.bump).groves = s.groves := rfl
@[simp] theorem State.bump_stackSts (s : State) : (s.bump).stackSts = s.stackSts := rfl
@[simp] theorem State.bump_parts (s : State) : (s.bump).parts = s.parts := rfl
@[simp] theorem State.bump_gangs (s : State) : (s.bump).gangs = s.gangs := rfl
@[simp] theorem State.bump_tlb (s : State) : (s.bump).tlb = s.tlb := rfl
@[simp] theorem State.bump_stores (s : State) : (s.bump).stores = s.stores := rfl
@[simp] theorem State.bump_rowReqs (s : State) : (s.bump).rowReqs = s.rowReqs := rfl
@[simp] theorem State.bump_arrivals (s : State) : (s.bump).arrivals = s.arrivals := rfl
@[simp] theorem State.bump_msgs (s : State) : (s.bump).msgs = s.msgs := rfl
@[simp] theorem State.bump_knocks (s : State) : (s.bump).knocks = s.knocks := rfl
@[simp] theorem State.bump_links (s : State) : (s.bump).links = s.links := rfl
@[simp] theorem State.bump_fabric (s : State) : (s.bump).fabric = s.fabric := rfl
@[simp] theorem State.bump_power (s : State) : (s.bump).power = s.power := rfl
@[simp] theorem State.bump_mgmt (s : State) : (s.bump).mgmt = s.mgmt := rfl
@[simp] theorem State.bump_ports (s : State) : (s.bump).ports = s.ports := rfl
@[simp] theorem State.bump_energy (s : State) : (s.bump).energy = s.energy := rfl
@[simp] theorem State.bump_reads (s : State) : (s.bump).reads = s.reads := rfl
@[simp] theorem State.bump_time (s : State) : (s.bump).time = s.time := rfl
@[simp] theorem State.bump_agenda (s : State) : (s.bump).agenda = s.agenda := rfl
@[simp] theorem State.bump_curCore (s : State) : (s.bump).curCore = s.curCore := rfl
@[simp] theorem State.bump_curRow (s : State) : (s.bump).curRow = s.curRow := rfl
@[simp] theorem State.bump_draws (s : State) : (s.bump).draws = s.draws := rfl
@[simp] theorem State.bump_pause (s : State) : (s.bump).pause = s.pause := rfl
@[simp] theorem State.bump_core_of (s : State) (c' : Nat) : (s.bump).core c' = s.core c' := rfl
@[simp] theorem State.bump_grove_of (s : State) (g' : Nat) : (s.bump).grove g' = s.grove g' := rfl
@[simp] theorem State.bump_stack_of (s : State) (k' : Nat) : (s.bump).stack k' = s.stack k' := rfl
@[simp] theorem State.bump_part_of (s : State) (p' : Nat) : (s.bump).part p' = s.part p' := rfl
@[simp] theorem State.bump_gang_of (s : State) (p' g' : Nat) : (s.bump).gang p' g' = s.gang p' g' := rfl
@[simp] theorem State.bump_link_of (s : State) (l' : Nat) : (s.bump).link l' = s.link l' := rfl
@[simp] theorem State.bump_slot_of (s : State) (c' r' k' : Nat) : (s.bump).slot c' r' k' = s.slot c' r' k' := rfl
@[simp] theorem State.bump_rowBits_of (s : State) (c' r' : Nat) : (s.bump).rowBits c' r' = s.rowBits c' r' := rfl
@[simp] theorem State.bump_latch_of (s : State) (c' r' : Nat) : (s.bump).latch? c' r' = s.latch? c' r' := rfl
@[simp] theorem State.bump_pendingOf_of (s : State) (c' r' : Nat) : (s.bump).pendingOf c' r' = s.pendingOf c' r' := rfl
@[simp] theorem State.bump_outstanding_of (s : State) (c' r' : Nat) : (s.bump).outstanding c' r' = s.outstanding c' r' := rfl
@[simp] theorem State.bump_partid_of (s : State) (c' : Nat) : (s.bump).partid c' = s.partid c' := rfl
@[simp] theorem State.bump_contextRows_of (s : State) (c' : Nat) : (s.bump).contextRows c' = s.contextRows c' := rfl
@[simp] theorem State.bump_isLocal_of (s : State) (va' : Nat) : (s.bump).isLocal va' = s.isLocal va' := rfl
@[simp] theorem State.bump_port_of (s : State) (k' : Nat) : (s.bump).port k' = s.port k' := rfl

@[simp] theorem State.core_setCore (s : State) (c : Nat) (x : CoreSt) : (s.setCore c x).core c = x := Sparse.get_set_same ..
theorem State.core_setCore_ne (s : State) (c d : Nat) (x : CoreSt) (h : d ≠ c) : (s.setCore c x).core d = s.core d := Sparse.get_set_ne _ _ _ h
@[simp] theorem State.grove_setGrove (s : State) (c : Nat) (x : GroveSt) : (s.setGrove c x).grove c = x := Sparse.get_set_same ..
theorem State.grove_setGrove_ne (s : State) (c d : Nat) (x : GroveSt) (h : d ≠ c) : (s.setGrove c x).grove d = s.grove d := Sparse.get_set_ne _ _ _ h
@[simp] theorem State.stack_setStack (s : State) (c : Nat) (x : StackSt) : (s.setStack c x).stack c = x := Sparse.get_set_same ..
theorem State.stack_setStack_ne (s : State) (c d : Nat) (x : StackSt) (h : d ≠ c) : (s.setStack c x).stack d = s.stack d := Sparse.get_set_ne _ _ _ h
@[simp] theorem State.part_setPart (s : State) (c : Nat) (x : PartSt) : (s.setPart c x).part c = x := Sparse.get_set_same ..
theorem State.part_setPart_ne (s : State) (c d : Nat) (x : PartSt) (h : d ≠ c) : (s.setPart c x).part d = s.part d := Sparse.get_set_ne _ _ _ h
@[simp] theorem State.link_setLink (s : State) (c : Nat) (x : LinkSt) : (s.setLink c x).link c = x := Sparse.get_set_same ..
theorem State.link_setLink_ne (s : State) (c d : Nat) (x : LinkSt) (h : d ≠ c) : (s.setLink c x).link d = s.link d := Sparse.get_set_ne _ _ _ h
@[simp] theorem State.gang_setGang (s : State) (p g : Nat) (x : GangSt) : (s.setGang p g x).gang p g = x := Sparse.get_set_same ..

theorem State.gang_setGang_ne (s : State) (p g p' g' : Nat) (x : GangSt) (h : p' * 4096 + g' ≠ p * 4096 + g) :
    (s.setGang p g x).gang p' g' = s.gang p' g' := Sparse.get_set_ne _ _ _ h
@[simp] theorem CoreSt.chan_setChan (x : CoreSt) (ch : Nat) (v : Chan) : (x.setChan ch v).chan ch = v := Sparse.get_set_same ..
theorem CoreSt.chan_setChan_ne (x : CoreSt) (ch j : Nat) (v : Chan) (h : j ≠ ch) : (x.setChan ch v).chan j = x.chan j :=
  Sparse.get_set_ne _ _ _ h

end Sys2Proof.Machine
end

