-- ==== Sys2Proof/Laws/Registers.lean ====
section
/-! SUPPORT. Registers and PC of a row: reading back what was written, and what the shared ends of an instruction do. -/

namespace Sys2Proof.Machine

seal Memory.storeNat Memory.loadNat

open Sys2Proof.Safety

/-! ### Bits -/

theorem word_toNat (n : Nat) : (word n).toNat = n % 2 ^ 64 := by simp [word]

theorem putBits_low (w : Word) (n v : Nat) (h : n ≤ 64) :
    (putBits w 0 n v).toNat = v % 2 ^ n + w.toNat / 2 ^ n * 2 ^ n := by
  unfold putBits
  have hw := w.isLt
  have h1 : w.toNat / 2 ^ n * 2 ^ n + w.toNat % 2 ^ n = w.toNat := by rw [Nat.mul_comm]; exact Nat.div_add_mod ..
  have h2 : v % 2 ^ n < 2 ^ n := Nat.mod_lt _ (Nat.two_pow_pos n)
  have h3 : 2 ^ 64 = 2 ^ (64 - n) * 2 ^ n := by rw [← Nat.pow_add]; congr 1; omega
  have h4 : w.toNat / 2 ^ n < 2 ^ (64 - n) := by
    rw [Nat.div_lt_iff_lt_mul (Nat.two_pow_pos n), ← h3]; exact hw
  have h5 : v % 2 ^ n + w.toNat / 2 ^ n * 2 ^ n < 2 ^ 64 := by
    rw [h3]
    calc v % 2 ^ n + w.toNat / 2 ^ n * 2 ^ n < 2 ^ n + w.toNat / 2 ^ n * 2 ^ n := by omega
      _ = (w.toNat / 2 ^ n + 1) * 2 ^ n := by ring
      _ ≤ 2 ^ (64 - n) * 2 ^ n := Nat.mul_le_mul_right _ h4
  simp only [BitVec.toNat_ofNat, Nat.pow_zero, Nat.mod_one, Nat.zero_add, Nat.mul_one]
  exact Nat.mod_eq_of_lt h5

/-- Byte j of the bytes from k. -/
theorem Memory.loadNat_byte (n : Nat) : ∀ (m : Memory) (k j : Nat), j < n →
    m.loadNat n k / 256 ^ j % 256 = (m.read (k + j)).toNat := by
  induction n with
  | zero => intro m k j h; omega
  | succ n ih =>
    intro m k j h
    have hb := (m.read k).isLt
    rw [Memory.loadNat]
    cases j with
    | zero => simp; omega
    | succ j =>
      rw [Nat.pow_succ, Nat.mul_comm (256 ^ j), ← Nat.div_div_eq_div_mul, Nat.add_mul_div_left _ _ (by omega),
        Nat.div_eq_of_lt hb, Nat.zero_add, ih m (k + 1) j (by omega)]
      congr 2; omega

theorem Memory.loadNat_lt (n : Nat) : ∀ (m : Memory) (k : Nat), m.loadNat n k < 256 ^ n := by
  induction n with
  | zero => intro m k; simp [Memory.loadNat]
  | succ n ih =>
    intro m k
    have hb := (m.read k).isLt
    have := ih m (k + 1)
    rw [Memory.loadNat, Nat.pow_succ]; omega

/-! ### Slots -/

theorem slotKey_eq (c r k : Nat) : slotKey c r k = c * 2 ^ 20 + r * 256 + 8 * k := by
  simp [slotKey, rowKey, arrayKey, Nat.add_assoc]

theorem State.slot_toNat (s : State) (c r k : Nat) : (s.slot c r k).toNat = s.mem.loadNat 8 (slotKey c r k) := by
  have := Memory.loadNat_lt 8 s.mem (slotKey c r k)
  rw [State.slot, word_toNat]; exact Nat.mod_eq_of_lt (by simpa using this)

theorem State.setSlot_mem (s : State) (c r k : Nat) (v : Word) :
    (s.setSlot c r k v).mem = s.mem.storeNat 8 (slotKey c r k) v.toNat := by dsimp only [State.setSlot]

@[simp] theorem State.slot_setSlot_same (s : State) (c r k : Nat) (v : Word) : (s.setSlot c r k v).slot c r k = v := by
  have := v.isLt
  apply BitVec.eq_of_toNat_eq
  rw [State.slot_toNat, State.setSlot_mem, Memory.loadNat_storeNat_same]
  exact Nat.mod_eq_of_lt (by omega)

/-- Another slot of the same row. -/
theorem State.slot_setSlot_ne (s : State) (c r : Nat) {k j : Nat} (v : Word) (h : j ≠ k) :
    (s.setSlot c r k v).slot c r j = s.slot c r j := by
  apply BitVec.eq_of_toNat_eq
  rw [State.slot_toNat, State.slot_toNat, State.setSlot_mem]
  apply Memory.loadNat_storeNat_out
  rw [slotKey_eq, slotKey_eq]; omega

/-- A slot of another row, or of another core, for rows and slots that exist. -/
theorem State.slot_setSlot_other (s : State) (c r k c' r' k' : Nat) (v : Word) (h : c ≠ c' ∨ r ≠ r') (hr : r < 4096)
    (hr' : r' < 4096) (hk : k < 32) (hk' : k' < 32) : (s.setSlot c r k v).slot c' r' k' = s.slot c' r' k' := by
  apply BitVec.eq_of_toNat_eq
  rw [State.slot_toNat, State.slot_toNat, State.setSlot_mem]
  apply Memory.loadNat_storeNat_out
  rw [slotKey_eq, slotKey_eq]; omega

theorem State.read_setSlot_out (s : State) (c r k : Nat) (v : Word) (j : Nat) (h : ¬ InSlot c r k 8 j) :
    (s.setSlot c r k v).mem.read j = s.mem.read j := by
  unfold InSlot at h
  rw [State.setSlot_mem]; exact Memory.read_storeNat_out _ _ _ _ _ (by omega)

/-! ### PC -/

theorem State.read_setRowPc_out (s : State) (c r : Nat) (pc : BitVec 32) (j : Nat) (h : ¬ InSlot c r 0 4 j) :
    (s.setRowPc c r pc).mem.read j = s.mem.read j := by
  by_cases h8 : InSlot c r 0 8 j
  · unfold State.setRowPc State.setCtl
    unfold InSlot at h h8
    obtain ⟨i, rfl⟩ : ∃ i, j = slotKey c r 0 + i := ⟨j - slotKey c r 0, by omega⟩
    have hi : 4 ≤ i ∧ i < 8 := by omega
    rw [State.setSlot_mem, Memory.read_storeNat, if_pos (by omega), Nat.add_sub_cancel_left, putBits_low _ _ _ (by omega)]
    apply BitVec.eq_of_toNat_eq
    rw [BitVec.toNat_ofNat, ← Memory.loadNat_byte 8 s.mem (slotKey c r 0) i (by omega), State.ctl, State.slot_toNat]
    generalize s.mem.loadNat 8 (slotKey c r 0) = w
    obtain ⟨e, rfl⟩ : ∃ e, i = e + 4 := ⟨i - 4, by omega⟩
    have h1 : 256 ^ (e + 4) = 2 ^ 32 * 256 ^ e := by rw [Nat.pow_add, Nat.mul_comm]; norm_num
    have h2 : pc.toNat % 2 ^ 32 < 2 ^ 32 := Nat.mod_lt _ (by omega)
    rw [h1, ← Nat.div_div_eq_div_mul, ← Nat.div_div_eq_div_mul, Nat.add_mul_div_right _ _ (by omega), Nat.div_eq_of_lt h2,
      Nat.zero_add]
  · exact State.read_setSlot_out _ _ _ _ _ _ h8

@[simp] theorem State.rowPc_setRowPc (s : State) (c r : Nat) (pc : BitVec 32) : (s.setRowPc c r pc).rowPc c r = pc := by
  unfold State.rowPc State.setRowPc State.setCtl State.ctl ctlPc
  rw [State.slot_setSlot_same]
  apply BitVec.eq_of_toNat_eq
  have := pc.isLt
  rw [BitVec.toNat_setWidth, putBits_low _ _ _ (by omega)]; omega

/-- PC of a row written: a change of memory alone. -/
theorem State.setRowPc_memoryOnly (s : State) (c r : Nat) (pc : BitVec 32) :
    MemoryOnly s (s.setRowPc c r pc) (InSlot c r 0 4) :=
  ⟨by simp only [State.setRowPc, State.setCtl, State.setSlot], fun k h => s.read_setRowPc_out c r pc k h⟩

@[simp] theorem State.setRowPc_slot (s : State) (c r : Nat) (pc : BitVec 32) (k : Nat) (h : k ≠ 0) :
    (s.setRowPc c r pc).slot c r k = s.slot c r k := State.slot_setSlot_ne _ _ _ _ h

/-! ### The ends of an instruction -/

theorem State.setPc_sets (s : State) (pc : BitVec 32) : SetsPc s (s.setPc pc) pc :=
  ⟨s.setRowPc_memoryOnly _ _ _, by simp only [State.setPc, State.pc]; exact State.rowPc_setRowPc ..⟩

theorem State.advance_only (s : State) (o : Operands) : OnlyAdvances s (s.advance o) o := s.setPc_sets _

/-- A register and PC written. -/
theorem State.setReg_setPc_sets (s : State) (d : Nat) (v : Word) (pc : BitVec 32) :
    SetsRegisterAndPc s ((s.setReg d v).setPc pc) d v pc := by
  by_cases h : d = 0
  · subst h
    obtain ⟨⟨h1, h2⟩, h3⟩ := s.setPc_sets pc
    refine ⟨⟨h1, fun k hk => h2 k (fun hp => hk (Or.inl hp))⟩, by simp [State.reg, State.regOf], h3⟩
  · simp only [State.setReg, State.setRegOf, h, if_false]
    refine ⟨⟨?_, ?_⟩, ?_, ?_⟩
    · simp only [State.setPc, State.setRowPc, State.setCtl, State.setSlot]
    · intro k hk
      rw [not_or] at hk
      have h1 : ¬ InSlot s.curCore s.curRow d 8 k := fun x => hk.2 ⟨h, x⟩
      rw [← s.read_setSlot_out s.curCore s.curRow d v k h1]
      exact State.read_setRowPc_out _ _ _ _ _ hk.1
    · simp only [State.reg, State.regOf, h, if_false, State.setPc]
      exact (State.setRowPc_slot _ _ _ _ _ h).trans (State.slot_setSlot_same ..)
    · simp only [State.setPc, State.pc]; exact State.rowPc_setRowPc ..

@[simp] theorem State.setReg_pc (s : State) (d : Nat) (v : Word) : (s.setReg d v).pc = s.pc := by
  by_cases h : d = 0
  · simp [State.setReg, State.setRegOf, h]
  · simp only [State.pc, State.rowPc, State.ctl, State.setReg, State.setRegOf, h, if_false, State.setSlot_curCore,
      State.setSlot_curRow]
    rw [State.slot_setSlot_ne _ _ _ _ (fun e => h e.symm)]

end Sys2Proof.Machine
end

