-- ==== Sys2Proof/Laws/Executor.lean ====
section
/-! SUPPORT. What the shared ends of the executor's instructions do: `finish`, `pend`, `callTo`, and an intent of a latch. -/

namespace Sys2Proof.Machine

seal Memory.storeNat Memory.loadNat

open Sys2Proof.Safety

theorem State.finish_writes (s : State) (o : Operands) (v : Word) : WritesRegister s (s.finish o v) o o.rd v := by
  have := s.setReg_setPc_sets o.rd v (s.pc + BitVec.ofNat 32 o.len.units)
  unfold WritesRegister State.finish State.advance
  rw [State.setReg_pc]; exact this

theorem State.setReg_advance_writes (s : State) (o : Operands) (d : Nat) (v : Word) :
    WritesRegister s ((s.setReg d v).advance o) o d v := by
  have := s.setReg_setPc_sets d v (s.pc + BitVec.ofNat 32 o.len.units)
  unfold WritesRegister State.advance
  rw [State.setReg_pc]; exact this

/-! ### Latches -/

theorem CoreSt.latch?_modLatch (x : CoreSt) (r q : Nat) (f : Latch → Latch) (hf : ∀ l, (f l).row = l.row) :
    (x.modLatch r f).latch? q = if q = r then (x.latch? q).map f else x.latch? q := by
  unfold CoreSt.latch? CoreSt.modLatch
  simp only
  induction x.latches with
  | nil => simp
  | cons l ls ih =>
    rw [List.map_cons, List.find?_cons, List.find?_cons]
    by_cases h : l.row = q
    · subst h
      by_cases h2 : l.row = r
      · simp [h2, hf]
      · simp [h2]
    · have h2 : ((if (l.row == r) = true then f l else l).row == q) = false := by
        split <;> simp [hf, h]
      rw [h2, show (l.row == q) = false by simpa using h]
      exact ih

theorem State.latch?_modLatch (s : State) (c r d q : Nat) (f : Latch → Latch) (hf : ∀ l, (f l).row = l.row) :
    (s.modLatch c r f).latch? d q = if d = c ∧ q = r then (s.latch? d q).map f else s.latch? d q := by
  unfold State.latch? State.modLatch
  by_cases h : d = c
  · subst h; simp [CoreSt.latch?_modLatch _ _ _ _ hf]
  · rw [State.core_setCore_ne _ _ _ _ h]; simp [h]

theorem State.modLatch_cores (s : State) (c r : Nat) (f : Latch → Latch) :
    s.modLatch c r f = { s with cores := (s.modLatch c r f).cores } := rfl

theorem State.core_modLatch_ne (s : State) (c r d : Nat) (f : Latch → Latch) (h : d ≠ c) : (s.modLatch c r f).core d = s.core d :=
  State.core_setCore_ne _ _ _ _ h

theorem State.core_modLatch (s : State) (c r : Nat) (f : Latch → Latch) : (s.modLatch c r f).core c = (s.core c).modLatch r f :=
  State.core_setCore ..

/-- A row with a latch: the operation becomes pending, and nothing else happens. -/
theorem State.pend_becomes (s : State) (i : Instr) (o : Operands) (op : PendOp) (acq : Bool)
    (h : (s.latch? s.curCore s.curRow).isSome = true) : BecomesPending s (s.pend i o op acq) o op acq := by
  obtain ⟨l, hl⟩ := Option.isSome_iff_exists.1 h
  unfold State.pend
  simp only
  generalize hp : ({
    op := op, lah := o.lah.toNat, since := 0, pc := s.pc, len := o.len.units, rregs := (usesOf i s).rregs,
    wregs := (usesOf i s).wregs, rrows := (usesOf i s).rrows.map (fun x => x.1), wrows := (usesOf i s).wrows.map (fun x => x.1),
    acquire := acq, seq := s.seq } : Pending) = p
  generalize hs : s.modLatch s.curCore s.curRow (fun l => { l with pending := l.pending ++ [p] }) = u
  have hcores : ∀ c, (u.bump.advance o).core c = u.core c := fun c => by
    simp only [State.advance, State.setPc, State.setRowPc, State.setCtl]; rfl
  have hu : u = { s with cores := u.cores } := by rw [← hs]; exact State.modLatch_cores ..
  have hmem : u.bump.mem = s.mem := by rw [hu]; rfl
  have hcur : u.bump.curCore = s.curCore ∧ u.bump.curRow = s.curRow := by rw [hu]; exact ⟨rfl, rfl⟩
  have hpc : u.bump.pc = s.pc := by
    simp only [State.pc, State.rowPc, State.ctl, State.slot, hmem, hcur.1, hcur.2]
  have hadv := u.bump.advance_only o
  unfold OnlyAdvances SetsPc MemoryOnly at hadv
  rw [hpc, hcur.1, hcur.2, hmem] at hadv
  have hlatch : ∀ d q, (u.bump.advance o).latch? d q = u.latch? d q := fun d q => by
    unfold State.latch?; rw [hcores]
  have hlm := fun d q => State.latch?_modLatch s s.curCore s.curRow d q (fun l => { l with pending := l.pending ++ [p] }) (fun _ => rfl)
  rw [hs] at hlm
  refine ⟨⟨p, ?_, by rw [← hp], by rw [← hp], by rw [← hp], by rw [← hp], by rw [← hp], by rw [← hp], by rw [← hp]⟩, ?_, hadv.1.2,
    hadv.2, ?_, ?_, ?_⟩
  · unfold State.pendingOf
    rw [hlatch, hlm, if_pos ⟨rfl, rfl⟩, hl]
    simp
  · rw [hadv.1.1]; simp only [State.bump]; rw [hu]
  · intro d hd; rw [hcores, ← hs, State.core_modLatch_ne _ _ _ _ _ hd]
  · rw [hcores, ← hs, State.core_modLatch]; rfl
  · intro q hq; rw [hlatch, hlm, if_neg (fun x => hq x.2)]

end Sys2Proof.Machine
end

