-- ==== Sys2Proof/Laws/Translation.lean ====
section
/-! SUPPORT. What translation, a read under it and the read of a gang descriptor do to the state (R74 to R77, R121): accessed
bits, TLB entries and recalled lines, nothing in a row, a buffer or a register. -/

namespace Sys2Proof.Machine

seal Memory.storeNat Memory.loadNat

/-- `t` is `s` after reads under translation: memory from key 2^29 on, poison, the TLB and the lines of slices may differ. -/
def Walked (s t : State) : Prop :=
  t = { s with mem := t.mem, poison := t.poison, tlb := t.tlb, groves := t.groves }
    ∧ (∀ h, t.grove h = { s.grove h with lines := (t.grove h).lines }) ∧ ∀ k, k < 2 ^ 29 → t.mem.read k = s.mem.read k

theorem Walked.refl (s : State) : Walked s s := ⟨rfl, fun _ => rfl, fun _ _ => rfl⟩

theorem Walked.trans {s t u : State} (h : Walked s t) (g : Walked t u) : Walked s u :=
  ⟨by rw [g.1, h.1], fun k => by rw [g.2.1 k, h.2.1 k], fun k hk => (g.2.2 k hk).trans (h.2.2 k hk)⟩

/-- Steps that each only read under translation do no more together. -/
theorem Walked.foldl {β : Type} (f : State → β → State) (l : List β) (h : ∀ t, ∀ b ∈ l, Walked t (f t b)) :
    ∀ s : State, Walked s (l.foldl f s) := by
  induction l with
  | nil => intro s; exact Walked.refl s
  | cons b l ih =>
    intro s
    exact (h s b List.mem_cons_self).trans (ih (fun t c hc => h t c (List.mem_cons_of_mem _ hc)) _)

theorem State.physKey_ge (s : State) (k : Nat) (h : 2 ^ 29 ≤ k) : 2 ^ 29 ≤ s.physKey k := by
  unfold State.physKey
  simp only
  split
  · split
    · unfold remapKey; omega
    · exact h
  · exact h

theorem Memory.read_foldl_write {β : Type} (f : β → Nat) (g : β → Byte) (l : List β) (k : Nat) (h : ∀ b ∈ l, f b ≠ k) :
    ∀ m : Memory, (l.foldl (fun (m : Memory) b => m.write (f b) (g b)) m).read k = m.read k := by
  induction l with
  | nil => intro m; rfl
  | cons b l ih =>
    intro m
    rw [List.foldl_cons, ih (fun b hb => h b (List.mem_cons_of_mem _ hb)), Memory.read_write_ne]
    exact (h b List.mem_cons_self).symm

/-- A write from a key outside the arrays and the buffers. -/
theorem State.writePhys_walked (s : State) (k : Nat) (bs : List Byte) (h : 2 ^ 29 ≤ k) : Walked s (s.writePhys k bs) := by
  refine ⟨rfl, fun _ => rfl, fun j hj => ?_⟩
  unfold State.writePhys
  simp only [State.cleanse]
  exact Memory.read_foldl_write _ _ _ _ (fun i _ => by have := s.physKey_ge (k + i) (by omega); omega) _

theorem dramKey_ge (a b : Nat) : 2 ^ 29 ≤ dramKey a b := by unfold dramKey; omega

theorem State.writeLineAt_walked (s : State) (l : SliceLine) (h : 2 ^ 29 ≤ l.key) : Walked s (s.writeLineAt l.key l) := by
  unfold State.writeLineAt
  generalize bytesOfNat 64 l.data.toNat = bs
  exact ⟨rfl, fun _ => rfl, (s.writePhys_walked l.key bs h).2.2⟩

theorem State.setLines_walked (s : State) (g : Nat) (ls : List SliceLine) : Walked s (s.setGrove g { s.grove g with lines := ls }) := by
  refine ⟨rfl, fun h => ?_, fun _ _ => rfl⟩
  rcases eq_or_ne h g with rfl | e
  · rw [State.grove_setGrove]
  · rw [State.grove_setGrove_ne _ _ _ _ e]

theorem State.recall_walked (s : State) (p : Nat → SliceLine → Bool) (drop : Bool) : Walked s (s.recall p drop) := by
  unfold State.recall
  refine Walked.foldl _ _ (fun t e _ => ?_) s
  simp only
  split
  · refine Walked.trans (Walked.foldl _ _ (fun u l hl => ?_) t) (State.setLines_walked _ _ _)
    have hh := (List.mem_filter.1 hl).2
    simp only [Bool.and_eq_true, SliceLine.home, decide_eq_true_eq] at hh
    exact u.writeLineAt_walked l (by omega)
  · exact Walked.refl t

theorem State.homeWrite_walked (s : State) (k : Nat) (bs : List Byte) (h : 2 ^ 29 ≤ k) : Walked s (s.homeWrite k bs) :=
  (s.recall_walked _ _).trans (State.writePhys_walked _ k bs h)

theorem State.translate_walked (s : State) (part va : Nat) (w : Bool) : Walked s (s.translate part va w).2 := by
  unfold State.translate
  split
  · split <;> exact Walked.refl s
  · split
    · exact Walked.refl s
    · rename_i l _
      have h : Walked s (if bitAt l.entry 3 then s
        else s.homeWrite (dramKey l.stack l.addr) (bytesOfNat 8 (putBit l.entry 3 true).toNat)) := by
        split
        · exact Walked.refl s
        · exact s.homeWrite_walked _ _ (dramKey_ge _ _)
      simp only
      generalize (if bitAt l.entry 3 then s
        else s.homeWrite (dramKey l.stack l.addr) (bytesOfNat 8 (putBit l.entry 3 true).toNat)) = u at h
      have : Walked s { u with tlb := u.tlb ++ [{
        point := pointOf va, part := part, region := vaRegion va, page := va % 2 ^ 45 / l.size,
        size := l.size, frame := bitsAt l.entry 16 32, w := bitAt l.entry 1, gen := (s.part part).gen }] } :=
        ⟨by rw [h.1], h.2.1, h.2.2⟩
      split <;> exact this

theorem State.loadMem_walked (s : State) (part va n : Nat) : Walked s (s.loadMem none part va n).2 := by
  unfold State.loadMem
  have h := s.translate_walked part (s.canonVa va) false
  simp only
  split
  · rename_i u hu; rw [hu] at h; exact h
  · rename_i k u hu
    rw [hu] at h
    split
    · exact h
    · split
      · exact h.trans (u.recall_walked (fun _ l => l.key == k - k % 64) false)
      · exact h

theorem State.loadPieces_walked (part : Nat) (l : List (Nat × Nat)) : ∀ s : State, Walked s (s.loadPieces none part l).2 := by
  induction l with
  | nil => intro s; exact Walked.refl s
  | cons e l ih =>
    intro s
    obtain ⟨va, n⟩ := e
    unfold State.loadPieces
    have h := s.loadMem_walked part va n
    split
    · rename_i bs u hu
      rw [hu] at h
      have g := ih u
      split <;> (rename_i v hv; rw [hv] at g; exact h.trans g)
    · rename_i hu; rw [hu] at h; exact h
    · rename_i hu; rw [hu] at h; exact h

theorem State.memAt_walked (s : State) (part va n : Nat) : Walked s (s.memAt part va n).2 := s.loadPieces_walked ..

theorem State.descriptor_walked (s : State) (part gang : Nat) : Walked s (s.descriptor part gang).2 := by
  unfold State.descriptor
  have h := s.memAt_walked part (s.descVa part gang) 64
  split <;> (rename_i hu; rw [hu] at h; exact h)

/-! ### Cores do not matter -/

theorem State.recall_cores (s : State) (x : Sparse CoreSt) (p : Nat → SliceLine → Bool) (drop : Bool) :
    ({ s with cores := x } : State).recall p drop = { s.recall p drop with cores := x } := by
  unfold State.recall
  let f (t : State) : State := { t with cores := x }
  refine List.foldl_hom f (fun t e => ?_)
  by_cases hc : (s.grove e.1).lines.any (fun l => l.home && p e.1 l) = true
  · refine (if_pos hc).trans (Eq.trans ?_ (congrArg f (if_pos hc)).symm)
    have h := List.foldl_hom f (g₁ := fun (u : State) (l : SliceLine) => u.writeLineAt l.key l)
      (g₂ := fun (u : State) (l : SliceLine) => u.writeLineAt l.key l)
      (l := (s.grove e.1).lines.filter (fun l => l.home && p e.1 l && l.dirty)) (init := t) (fun _ _ => rfl)
    exact congrArg (fun (u : State) => u.setGrove e.1 { u.grove e.1 with
      lines := if drop then (s.grove e.1).lines.filter (fun l => !(l.home && p e.1 l))
        else (s.grove e.1).lines.map (fun l => if l.home && p e.1 l then { l with dirty := false } else l) }) h
  · exact (if_neg hc).trans (congrArg f (if_neg hc)).symm

theorem State.homeWrite_cores (s : State) (x : Sparse CoreSt) (k : Nat) (bs : List Byte) :
    ({ s with cores := x } : State).homeWrite k bs = { s.homeWrite k bs with cores := x } := by
  unfold State.homeWrite State.recallKey
  rw [State.recall_cores]
  rfl

theorem State.translate_cores (s : State) (x : Sparse CoreSt) (part va : Nat) (w : Bool) :
    ({ s with cores := x } : State).translate part va w
      = ((s.translate part va w).1, { (s.translate part va w).2 with cores := x }) := by
  unfold State.translate
  have h1 : ({ s with cores := x } : State).tlbHit part va = s.tlbHit part va := rfl
  have h2 : ({ s with cores := x } : State).walk part va = s.walk part va := rfl
  rw [h1, h2]
  split
  · split <;> rfl
  · split
    · rfl
    · simp only [State.homeWrite_cores]
      split <;> split <;> rfl

theorem State.loadMem_cores (s : State) (x : Sparse CoreSt) (part va n : Nat) :
    ({ s with cores := x } : State).loadMem none part va n
      = ((s.loadMem none part va n).1, { (s.loadMem none part va n).2 with cores := x }) := by
  unfold State.loadMem
  have h1 : ({ s with cores := x } : State).canonVa va = s.canonVa va := rfl
  simp only [h1, State.translate_cores]
  rcases hu : s.translate part (s.canonVa va) false with ⟨_ | k, u⟩
  · rfl
  · have h2 : ({ u with cores := x } : State).poisoned k n = u.poisoned k n := rfl
    simp only [h2, State.recallKey, State.recall_cores]
    split
    · rfl
    · split <;> rfl

theorem State.loadPieces_cores (x : Sparse CoreSt) (part : Nat) (l : List (Nat × Nat)) : ∀ s : State,
    ({ s with cores := x } : State).loadPieces none part l
      = ((s.loadPieces none part l).1, { (s.loadPieces none part l).2 with cores := x }) := by
  induction l with
  | nil => intro s; rfl
  | cons e l ih =>
    intro s
    obtain ⟨va, n⟩ := e
    unfold State.loadPieces
    rw [State.loadMem_cores]
    rcases s.loadMem none part va n with ⟨_ | _ | _, u⟩
    · simp only [ih]
      rcases u.loadPieces none part l with ⟨_ | _ | _, v⟩ <;> rfl
    · rfl
    · rfl

/-- A descriptor is read alike whatever the cores hold. -/
theorem State.descriptor_cores (s : State) (x : Sparse CoreSt) (part gang : Nat) :
    ({ s with cores := x } : State).descriptor part gang
      = ((s.descriptor part gang).1, { (s.descriptor part gang).2 with cores := x }) := by
  unfold State.descriptor State.memAt
  have h1 : ({ s with cores := x } : State).descVa part gang = s.descVa part gang := rfl
  rw [h1, State.loadPieces_cores]
  rcases s.loadPieces none part _ with ⟨_ | _ | _, u⟩ <;> rfl

end Sys2Proof.Machine
end

