-- ==== Sys2Proof/Tests/Slice0.lean ====
section
/-! SUPPORT. The author's tests: words written out from the specification's encodings, ill-formed terms that `WellFormed` refuses, and
single steps on small states with results that the specification states. -/

namespace Sys2Proof.Tests

set_option Elab.async false

open Sys2Proof Sys2Proof.Machine Sys2Proof.Safety

/-! ### Small states -/

/-- Operand fields all zero, in the 64-bit form. -/
def op : Operands := { len := .w64, lah := 0, d := 0, a := 0, b := 0, c := 0, fn := 0, imm22 := 0, ext := 0 }

/-- The cells of eight bytes from a key, those that are zero left out. -/
def cellsAt (key : Nat) (w : Word) : List Host.Cell :=
  ((List.range 8).map (fun j => ((key + j, w.extractLsb' (8 * j) 8) : Host.Cell))).filter (fun x => x.2 != 0)

/-- Memory that holds words at keys, given in rising order. -/
def wordsMem (ws : List (Nat × Word)) : Memory := ⟨ws.flatMap (fun e => cellsAt e.1 e.2)⟩

/-- The slots of a row of core 0 as words at keys. -/
def rowWords (r : Nat) (ws : List (Nat × Word)) : List (Nat × Word) := ws.map (fun e => (slotKey 0 r e.1, e.2))

/-- A latch that runs row r. -/
def latchOf (r : Nat) (ps : List Pending) : Latch := { idx := r, row := r, count := 1, pending := ps, intent := .run, block := none, gather := none, hold := 0 }

/-- Core 0 with row 0 open in user mode, gang 1, class 3, at PC 0x40, and its registers from 1 on. -/
def openRow (ws : List (Nat × Word)) : State :=
  { State.reset with
    mem := wordsMem (rowWords 0 ((0, 0x0000103200000040#64) :: ws))
    cores := ⟨[(0, { CoreSt.reset with latches := [latchOf 0 []], ctxmap := ⟨[(0, 3)]⟩, dlogbase := 256 })]⟩ }

/-- The state after an instruction that completes. -/
def after (x : Host.Outcome State Fault Refusal) : State := match x with
  | .next t => t
  | _ => State.reset

/-- The value that an instruction leaves in a register of the issuing row. -/
def leaves (i : Instr) (s : State) (d : Nat) : Word := (after (exec i s)).reg d

/-- The operation that an instruction leaves pending last. -/
def leavesOp (i : Instr) (s : State) : Option PendOp := ((after (exec i s)).pendingOf s.curCore s.curRow).getLast?.map (fun p => p.op)

/-! ### Decoding -/

/-- R35, R36, R129 to R137: a word of every instruction of the family, its fields placed by R29. -/
theorem test_decode_control : ([
    (0x0000000000000004, .nop op),
    (0x0000440000000008, .hintGather { op with imm22 := 0x11 }),
    (0xFFFFF80400000008, .hintFetch { op with fn := 1, imm22 := 0x3FFFFE }),
    (0x000008000000000C, .pbr { op with imm22 := 2 }),
    (0x000010040048000C, .pbrRegister { op with a := 9, fn := 1, imm22 := 4 }),
    (0x0000000000000010, .br op),
    (0x0000001409500014, .bCc { op with a := 10, b := 9, fn := 5 }),
    (0x0001900800480018, .biCc { op with a := 9, fn := 2, imm22 := 0x64 }),
    (0x000000000001001C, .loop { op with d := 4 }),
    (0xFFFFC00000000020, .j { op with imm22 := 0x3FFFF0 }),
    (0x000018000007C024, .call { op with d := 31, imm22 := 6 }),
    (0x0000000000F80028, .jr { op with a := 31 }),
    (0x00000004004FC028, .callr { op with d := 31, a := 9, fn := 1 }),
    (0x000000000000002C, .yield op),
    (0x0000000000000030, .halt op),
    (0x0000000000000034, .waitClasp op),
    (0x0000200400000034, .waitAll { op with fn := 1, imm22 := 8 }),
    (0x00000C0800480034, .waitAny { op with a := 9, fn := 2, imm22 := 3 }),
    (0x0001900C00480034, .waitUntil { op with a := 9, fn := 3, imm22 := 0x64 }),
    (0x0000140000000038, .trap { op with imm22 := 5 }),
    (0x000000000000003C, .brk op),
    (0x000000040000003C, .tret { op with fn := 1 })] : List (Nat × Instr)).all (fun e => decodeTableWord 64 e.1 == some e.2) = true := by decide

/-- R35, R37, R140 to R144: a word of every instruction of the family, its fields placed by R29. -/
theorem test_decode_integer : ([
    (0x000000000A4A0040, .add { op with d := 8, a := 9, b := 10 }),
    (0x000000000A4A0044, .sub { op with d := 8, a := 9, b := 10 }),
    (0x000000000A4A0048, .and { op with d := 8, a := 9, b := 10 }),
    (0x000000000A4A004C, .or { op with d := 8, a := 9, b := 10 }),
    (0x000000000A4A0050, .xor { op with d := 8, a := 9, b := 10 }),
    (0x000000000A4A0054, .andn { op with d := 8, a := 9, b := 10 }),
    (0x0000220000294058, .shl { op with d := 5, a := 5, fn := 0x80, imm22 := 8 }),
    (0x000000000A4A005C, .shr { op with d := 8, a := 9, b := 10 }),
    (0x000001000A4A0060, .sar { op with d := 8, a := 9, b := 10, fn := 0x40 }),
    (0x000001000A4A0064, .rol { op with d := 8, a := 9, b := 10, fn := 0x40 }),
    (0x000000000A4A0068, .mul { op with d := 8, a := 9, b := 10 }),
    (0x000000040A4A006C, .mulh { op with d := 8, a := 9, b := 10, fn := 1 }),
    (0x0000000004394470, .div { op with d := 5, a := 7, b := 4, lah := 1 }),
    (0x000000040A4A3C74, .rem { op with d := 8, a := 9, b := 10, fn := 1, lah := 15 }),
    (0x000001040A4A0078, .min { op with d := 8, a := 9, b := 10, fn := 0x41 }),
    (0x000000000A4A007C, .max { op with d := 8, a := 9, b := 10 }),
    (0x000000100A4A0080, .cmpCc { op with d := 8, a := 9, b := 10, fn := 4 }),
    (0x000000016A4A0084, .sel { op with d := 8, a := 9, b := 10, c := 11 }),
    (0x00001C0000010088, .li { op with d := 4, imm22 := 7 }),
    (0x0000000C0A4A008C, .lea { op with d := 8, a := 9, b := 10, fn := 3 }),
    (0x0004200400214090, .bext { op with d := 5, a := 4, fn := 1, imm22 := 0x108 }),
    (0x0004000006214094, .bins { op with d := 5, a := 4, b := 6, imm22 := 0x100 }),
    (0x00000000004A0098, .clz { op with d := 8, a := 9 }),
    (0x00000100004A009C, .ctz { op with d := 8, a := 9, fn := 0x40 }),
    (0x00000000004A00A0, .popc { op with d := 8, a := 9 }),
    (0x000000016A4A00A4, .madd { op with d := 8, a := 9, b := 10, c := 11 })] : List (Nat × Instr)).all (fun e => decodeTableWord 64 e.1 == some e.2) = true := by decide

/-- R35, R39, R43, R146 to R151: a word of every instruction of the family, its fields placed by R29. -/
theorem test_decode_float : ([
    (0x000000800A4A00C0, .fadd { op with d := 8, a := 9, b := 10, fn := 0x20 }),
    (0x000000000A4A00C4, .fsub { op with d := 8, a := 9, b := 10 }),
    (0x000002000A4A00C8, .fmul { op with d := 8, a := 9, b := 10, fn := 0x80 }),
    (0x00000080C52200CC, .ffma { op with d := 8, a := 4, b := 5, c := 6, fn := 0x20 }),
    (0x000000000A4A0CD0, .fdiv { op with d := 8, a := 9, b := 10, lah := 3 }),
    (0x00000000004A00D4, .fsqrt { op with d := 8, a := 9 }),
    (0x000000000A4A00D8, .fmin { op with d := 8, a := 9, b := 10 }),
    (0x000000000A4A00DC, .fmax { op with d := 8, a := 9, b := 10 }),
    (0x0000001C0A4A00E0, .fcmpCc { op with d := 8, a := 9, b := 10, fn := 7 }),
    (0x00000220004A00E4, .fcvt { op with d := 8, a := 9, fn := 0x88 }),
    (0x000000000A4A00E8, .fsgn { op with d := 8, a := 9, b := 10 }),
    (0x000000040A4A00E8, .fsgnN { op with d := 8, a := 9, b := 10, fn := 1 }),
    (0x000000080A4A00E8, .fsgnX { op with d := 8, a := 9, b := 10, fn := 2 }),
    (0x00000000004A00EC, .fclass { op with d := 8, a := 9 })] : List (Nat × Instr)).all (fun e => decodeTableWord 64 e.1 == some e.2) = true := by decide

/-- R35, R40 to R42, R152 to R168: a word of every instruction of the family, its fields placed by R29. -/
theorem test_decode_memory : ([
    (0x0000001800314900, .ld { op with d := 5, a := 6, fn := 6, lah := 2 }),
    (0x0000216C0A480104, .st { op with a := 9, b := 10, fn := 0x5B, imm22 := 8 }),
    (0x0003800800298108, .lr { op with d := 6, a := 5, fn := 2, imm22 := 0xE0 }),
    (0x0054000C0500010C, .sr { op with b := 5, fn := 3, imm22 := 0x1500 }),
    (0x0000002C004A0110, .ldm { op with d := 8, a := 9, fn := 0xB }),
    (0x4000001C00020114, .stm { op with d := 8, fn := 7, imm22 := 0x100000 }),
    (0x0001000400480118, .pf { op with a := 9, fn := 1, imm22 := 0x40 }),
    (0x000004880000011C, .fence { op with fn := 0x22, imm22 := 1 }),
    (0x0000000000000120, .fenceLb op),
    (0x00000000004A0124, .lock { op with d := 8, a := 9 }),
    (0x00000000004A0128, .unlock { op with d := 8, a := 9 }),
    (0x00000000004A012C, .gresize { op with d := 8, a := 9 }),
    (0x0000000C0A480130, .wb { op with a := 9, b := 10, fn := 3 }),
    (0x000000140A480134, .inv { op with a := 9, b := 10, fn := 5 }),
    (0x000000400A4A0140, .amoAdd { op with d := 8, a := 9, b := 10, fn := 0x10 }),
    (0x000000040A4A0140, .amoAnd { op with d := 8, a := 9, b := 10, fn := 1 }),
    (0x000000480941C140, .amoOr { op with d := 7, a := 8, b := 9, fn := 0x12 }),
    (0x0000000C0A4A0140, .amoXor { op with d := 8, a := 9, b := 10, fn := 3 }),
    (0x000000100A4A0140, .amoMin { op with d := 8, a := 9, b := 10, fn := 4 }),
    (0x000000140A4A0140, .amoMax { op with d := 8, a := 9, b := 10, fn := 5 }),
    (0x000002180A4A0140, .amoMinn { op with d := 8, a := 9, b := 10, fn := 0x86 }),
    (0x0000001C0A4A0140, .amoMaxn { op with d := 8, a := 9, b := 10, fn := 7 }),
    (0x000000200A4A0140, .amoSwap { op with d := 8, a := 9, b := 10, fn := 8 }),
    (0x00001180E5310144, .acas { op with d := 4, a := 6, b := 5, c := 7, fn := 0x60, imm22 := 4 }),
    (0x000000000A4A0148, .famoAdd { op with d := 8, a := 9, b := 10 }),
    (0x000000040A4A0148, .famoMin { op with d := 8, a := 9, b := 10, fn := 1 }),
    (0x000000080A4A0148, .famoMax { op with d := 8, a := 9, b := 10, fn := 2 }),
    (0x0000148C0A4A0148, .famoAdd2 { op with d := 8, a := 9, b := 10, fn := 0x23, imm22 := 5 })] : List (Nat × Instr)).all (fun e => decodeTableWord 64 e.1 == some e.2) = true := by decide

/-- R35, R36, R169 to R181: a word of every instruction of the family, its fields placed by R29. -/
theorem test_decode_synchronization : ([
    (0x0000040000000180, .clarm { op with imm22 := 1 }),
    (0x0000200000000184, .tagclr { op with imm22 := 8 }),
    (0x00000000004A0188, .tagffr { op with d := 8, a := 9 }),
    (0x000000000000018C, .gbar op),
    (0x000000040000018C, .gbarArrive { op with fn := 1 }),
    (0x000000080000018C, .gbarWait { op with fn := 2 }),
    (0x0000100000000190, .gset { op with imm22 := 4 }),
    (0x00003C0400000190, .gsetClr { op with fn := 1, imm22 := 0xF }),
    (0x00003C0000014194, .kget { op with d := 5, imm22 := 0xF }),
    (0x0005800000480198, .kset { op with a := 9, imm22 := 0x160 })] : List (Nat × Instr)).all (fun e => decodeTableWord 64 e.1 == some e.2) = true := by decide

/-- R35, R45, R290, R292, R297, R315, R318, R322: a word of every instruction of the family, its fields placed by R29. -/
theorem test_decode_messages : ([
    (0x014004ED494001C0, .send { op with a := 8, b := 9, c := 10, fn := 0x3B, imm22 := 0x5001 }),
    (0x0004000C104001C4, .post { op with a := 8, b := 16, fn := 3, imm22 := 0x100 }),
    (0x003FFC08090001C8, .sig { op with b := 9, fn := 2, imm22 := 0xFFF }),
    (0x00000000004A01CC, .launch { op with d := 8, a := 9 }),
    (0x00000C01494001D0, .respub { op with a := 8, b := 9, c := 10, imm22 := 3 }),
    (0x00000C00000001D4, .resdrop { op with imm22 := 3 }),
    (0x00020C00006B01D8, .resq { op with d := 12, a := 13, imm22 := 0x83 })] : List (Nat × Instr)).all (fun e => decodeTableWord 64 e.1 == some e.2) = true := by decide

/-- R35, R44, R187: a word of every instruction of the family, its fields placed by R29. -/
theorem test_decode_row_alu : ([
    (0x000000040629C200, .radd { op with d := 7, a := 5, b := 6, fn := 1 }),
    (0x000000000629C204, .rsub { op with d := 7, a := 5, b := 6 }),
    (0x000002540629C208, .rmul { op with d := 7, a := 5, b := 6, fn := 0x95 }),
    (0x000040010629C20C, .rfma { op with d := 7, a := 5, b := 6, c := 8, imm22 := 0x10 }),
    (0x000000140629C210, .rmax { op with d := 7, a := 5, b := 6, fn := 5 }),
    (0x000000180629C214, .rmin { op with d := 7, a := 5, b := 6, fn := 6 }),
    (0x000000000029C218, .rabs { op with d := 7, a := 5 }),
    (0x000000000029C21C, .rneg { op with d := 7, a := 5 }),
    (0x000000010629C220, .rscal { op with d := 7, a := 5, b := 6, c := 8 }),
    (0x000002880629C224, .rcmpCc { op with d := 7, a := 5, b := 6, fn := 0xA2 }),
    (0x0000001D0629C228, .rsel { op with d := 7, a := 5, b := 6, c := 8, fn := 7 }),
    (0x000000040029C22C, .rsum { op with d := 7, a := 5, fn := 1 }),
    (0x000000080029C230, .rmaxr { op with d := 7, a := 5, fn := 2 }),
    (0x0000000C0629C234, .rdot { op with d := 7, a := 5, b := 6, fn := 3 }),
    (0x000000000029D238, .rscan { op with d := 7, a := 5, lah := 4 }),
    (0x000000002029C23C, .rcvt { op with d := 7, a := 5, c := 1 }),
    (0x00000008262A4240, .rqnt { op with d := 9, a := 5, b := 6, c := 1, fn := 2 }),
    (0x00000004462A4244, .rdqnt { op with d := 9, a := 5, b := 6, c := 2, fn := 1 }),
    (0x000000040629C248, .rpack { op with d := 7, a := 5, b := 6, fn := 1 }),
    (0x000000002029C24C, .runpk { op with d := 7, a := 5, c := 1 }),
    (0x000000040029C250, .rexp2 { op with d := 7, a := 5, fn := 1 }),
    (0x000000040029C254, .rlog2 { op with d := 7, a := 5, fn := 1 }),
    (0x000000040029C258, .rrcp { op with d := 7, a := 5, fn := 1 }),
    (0x000000440029C25C, .rrsqrt { op with d := 7, a := 5, fn := 0x11 }),
    (0x000000140629C260, .rperm { op with d := 7, a := 5, b := 6, fn := 5 }),
    (0x000000000629C264, .rbcast { op with d := 7, a := 5, b := 6 }),
    (0x000000000029C268, .rmov { op with d := 7, a := 5 }),
    (0x000000000001C26C, .rclr { op with d := 7 }),
    (0x000000140029C270, .riota { op with d := 7, a := 5, fn := 5 }),
    (0x000000140629C274, .rbitAnd { op with d := 7, a := 5, b := 6, fn := 5 }),
    (0x000000980629C274, .rbitOr { op with d := 7, a := 5, b := 6, fn := 0x26 }),
    (0x0000011C0629C274, .rbitXor { op with d := 7, a := 5, b := 6, fn := 0x47 }),
    (0x000001940629C274, .rbitAndn { op with d := 7, a := 5, b := 6, fn := 0x65 }),
    (0x000002140029C274, .rbitNot { op with d := 7, a := 5, fn := 0x85 }),
    (0x000000140629C278, .rshShl { op with d := 7, a := 5, b := 6, fn := 5 }),
    (0x000000980629C278, .rshShr { op with d := 7, a := 5, b := 6, fn := 0x26 }),
    (0x0000011C0629C278, .rshSar { op with d := 7, a := 5, b := 6, fn := 0x47 }),
    (0x000001940629C278, .rshRol { op with d := 7, a := 5, b := 6, fn := 0x65 }),
    (0x000000000629C27C, .rget { op with d := 7, a := 5, b := 6 }),
    (0x000000180629C280, .rset { op with d := 7, a := 5, b := 6, fn := 6 })] : List (Nat × Instr)).all (fun e => decodeTableWord 64 e.1 == some e.2) = true := by decide

/-- R35, R36, R90 to R93, R294, R347, R353, R370: a word of every instruction of the family, its fields placed by R29. -/
theorem test_decode_supervisor : ([
    (0x00000000004A0300, .gstop { op with d := 8, a := 9 }),
    (0x0000000400020300, .gstopP { op with d := 8, fn := 1 }),
    (0x00000000004A0304, .gresume { op with d := 8, a := 9 }),
    (0x0000000400020304, .gresumeP { op with d := 8, fn := 1 }),
    (0x0000000006290308, .lease { op with d := 4, a := 5, b := 6 }),
    (0x000000000629030C, .tlbinv { op with d := 4, a := 5, b := 6 }),
    (0x0000000000010310, .dlharvest { op with d := 4 }),
    (0x0000000006290314, .rowpool { op with d := 4, a := 5, b := 6 }),
    (0x0000000000290318, .preq { op with d := 4, a := 5 }),
    (0x000008000029031C, .mcall { op with d := 4, a := 5, imm22 := 2 })] : List (Nat × Instr)).all (fun e => decodeTableWord 64 e.1 == some e.2) = true := by decide
/-- R26, R30: a 96-bit form takes 32 bits of extension and a 128-bit form 64. -/
theorem test_decode_lengths :
    decodeTableWord 96 0x00020001_00004000E62A0A0D
        = some (.rfma { op with len := .w96, lah := 2, d := 8, a := 5, b := 6, c := 7, imm22 := 16, ext := 0x20001 })
      ∧ decodeTableWord 128 0x01FFC00000001400_000000000001808A
        = some (.li { op with len := .w128, d := 6, ext := 0x01FFC00000001400 }) := by decide

/-- R27, R28, R34: what the decoder refuses, by name: a pad with other bits, a word that crosses its block, an opcode that is not in the
map, a length that its opcode does not allow, a supervisor's opcode in user mode, and a field that its form does not use. -/
theorem test_decode_refuses :
    decodeBytes false 0 (leBytes 16 7) = .error .badPad
      ∧ decodeBytes false 28 (leBytes 16 4) = .error .crossesBlock
      ∧ decodeBytes false 0 (leBytes 16 0xA8) = .error .undefinedOpcode
      ∧ decodeBytes false 0 (leBytes 16 5) = .error .badLength
      ∧ decodeBytes true 0 (leBytes 16 0x06290308) = .error .privileged
      ∧ decodeBytes false 0 (leBytes 16 0x4004) = .error .malformed
      ∧ decodeBytes false 28 (leBytes 16 3) = .ok .pad := by decide

/-! ### Well-formedness -/

/-- Each check of an instruction's form refuses a term that breaks it alone. -/
theorem test_ill_formed_words : ([
    .nop { op with ext := 1 }, .pbr { op with len := .w96, ext := 0x100000000 }, .nop { op with len := .w96 },
    .add { op with lah := 1 }, .nop { op with d := 4 }, .br { op with a := 4 }, .li { op with b := 4 }, .ld { op with c := 4 },
    .pbr { op with len := .w96, imm22 := 1 }, .trap { op with imm22 := 256 }, .add { op with d := 1 },
    .ldm { op with d := 0, fn := 1 }, .ldm { op with d := 31, fn := 1 }, .bCc { op with fn := 6 }, .bCc { op with fn := 8 },
    .add { op with fn := 0x80, b := 4 }, .add { op with imm22 := 1 }, .add { op with len := .w96 }, .add { op with fn := 1 },
    .mulh { op with fn := 2 }, .clz { op with fn := 1 }, .fadd { op with fn := 0xA0 }, .fadd { op with fn := 1 },
    .bext { op with imm22 := 0 }, .bext { op with imm22 := 1 + 64 * 64 }, .fcvt { op with fn := 10 }, .fcvt { op with fn := 0x24 },
    .ld { op with fn := 7 }, .ld { op with fn := 0x10 }, .ld { op with fn := 0x68 }, .st { op with fn := 4 },
    .fence { op with fn := 2 }, .fence { op with fn := 0x22, imm22 := 6 }, .amoOr { op with fn := 3 }, .amoOr { op with fn := 2, imm22 := 5 },
    .famoAdd { op with fn := 0x10 }, .gset op, .gset { op with imm22 := 16 }, .sig op, .send { op with a := 30, fn := 7 },
    .send { op with c := 4 }, .send { op with fn := 8 }, .send { op with imm22 := 4096 }, .post { op with a := 25 },
    .radd { op with fn := 8 }, .radd { op with fn := 0xA0 }, .rmov { op with fn := 0x10 }, .rbitAnd { op with fn := 0 },
    .rcvt { op with c := 8 }, .rqnt { op with fn := 1, c := 1 }, .rpack { op with fn := 2, c := 0 }, .rexp2 op, .rperm { op with fn := 4 },
    .radd { op with imm22 := 65 }, .rqnt { op with fn := 2, c := 1, imm22 := 33 },
    .radd { op with len := .w96, ext := 0x01000000 }] : List Instr).all (fun i => !i.wellFormed) = true := by decide

/-- A step of an agent names no unit that the package does not have. -/
theorem test_ill_formed_steps : ([
    .activation 256, .rowClose 0 4096, .linear 0 4, .slewStep 64, .gemv 8, .nak 18, .barrierRelease 16 0, .barrierRelease 0 4096,
    .placement 16, .sensorRead 96 0, .shedDeadline 8, .routeWrite 0x3FF 0, .hostUnitWrite (some 16) 0 [], .firmwareUpdate (some 8) [],
    .wload 256, .groveReplace 64 0,
    .loadImage { part := 0, codeBase := 1, code := [], ptes := [], data := [], gangs := [], cores := [] }] : List Instr).all (fun i => !i.wellFormed) = true := by decide

/-- The encoder gives the bytes that the specification writes out (R26, R29, R30). -/
theorem test_encode :
    encodeBytes (.div { op with lah := 1, d := 5, a := 7, b := 4 }) = [0x70, 0x44, 0x39, 0x04, 0, 0, 0, 0]
      ∧ encodeBytes (.rfma { op with len := .w96, lah := 2, d := 8, a := 5, b := 6, c := 7, imm22 := 16, ext := 0x20001 })
        = [0x0D, 0x0A, 0x2A, 0xE6, 0x00, 0x40, 0x00, 0x00, 0x01, 0x00, 0x02, 0x00] := by decide

/-! ### Integers (the tables of R140 and R141) -/

/-- A state with the two operands of a table's row in w4 and w5. -/
def two (x y : Word) : State := openRow [(4, x), (5, y)]
/-- Operands D 6, A 4, B 5. -/
def abd : Operands := { op with d := 6, a := 4, b := 5 }

/-- `add.w` of 0x7FFF_FFFF and 1. -/
theorem test_add_w_sign_extends : leaves (.add { abd with fn := 0x40 }) (two 0x7FFFFFFF 1) 6 = 0xFFFFFFFF80000000#64 := by decide
/-- `add w6, w6, -1` writes the register it reads, and w0 discards. -/
theorem test_add_own_source : leaves (.add { op with d := 6, a := 6, fn := 0x80, imm22 := 0x3FFFFF }) (openRow [(6, 5)]) 6 = 4
    ∧ leaves (.add { abd with d := 0 }) (two 1 2) 0 = 0 := by decide
/-- `sub` wraps below zero. -/
theorem test_sub_wraps : leaves (.sub abd) (two 3 5) 6 = 0xFFFFFFFFFFFFFFFE#64 := by decide
theorem test_and_or : leaves (.and abd) (two 0xC 0xA) 6 = 8 ∧ leaves (.or abd) (two 0xC 0xA) 6 = 0xE := by decide
theorem test_xor_andn : leaves (.xor abd) (two 0xC 0xA) 6 = 6 ∧ leaves (.andn abd) (two 0xC 0xA) 6 = 4 := by decide
/-- `shl` of 1 by 65: the count is 65 mod 64. -/
theorem test_shl_count : leaves (.shl abd) (two 1 65) 6 = 2 := by decide
theorem test_shr_zero_fills : leaves (.shr abd) (two 0x8000000000000000#64 63) 6 = 1 := by decide
/-- `sar.w` of 0x8000_0010 by 4. -/
theorem test_sar_w : leaves (.sar { abd with fn := 0x40 }) (two 0x80000010 4) 6 = 0xFFFFFFFFF8000001#64 := by decide
/-- `rol.w` of 0x8000_0001 by 1. -/
theorem test_rol_w : leaves (.rol { abd with fn := 0x40 }) (two 0x80000001 1) 6 = 3 := by decide
theorem test_mul_low : leaves (.mul abd) (two 0x8000000000000001#64 2) 6 = 2 := by decide
/-- `mulh.u` of all ones, and `mulh` of −1 and −1. -/
theorem test_mulh : leaves (.mulh { abd with fn := 1 }) (two (BitVec.allOnes 64) (BitVec.allOnes 64)) 6 = 0xFFFFFFFFFFFFFFFE#64
    ∧ leaves (.mulh abd) (two (BitVec.allOnes 64) (BitVec.allOnes 64)) 6 = 0 := by decide
/-- `div` of −7 by 2 is −3, and `div.u` of 7 by 0 all ones. -/
theorem test_div : leavesOp (.div abd) (two (-7) 2) = some (.value 6 (-3))
    ∧ leavesOp (.div { abd with fn := 1 }) (two 7 0) = some (.value 6 (BitVec.allOnes 64)) := by decide
/-- `div.w` of 0x8000_0000 by −1. -/
theorem test_div_w_overflow : leavesOp (.div { abd with fn := 0x40 }) (two 0x80000000 (-1)) = some (.value 6 0xFFFFFFFF80000000#64) := by
  decide
/-- `rem` of −7 and 2, of 7 and −2, and `rem.u` of 7 and 0. -/
theorem test_rem : leavesOp (.rem abd) (two (-7) 2) = some (.value 6 (-1)) ∧ leavesOp (.rem abd) (two 7 (-2)) = some (.value 6 1)
    ∧ leavesOp (.rem { abd with fn := 1 }) (two 7 0) = some (.value 6 7) := by decide
/-- `min.u.w` of 0x1_0000_0005 and 3. -/
theorem test_min_u_w : leaves (.min { abd with fn := 0x41 }) (two 0x100000005 3) 6 = 3 := by decide
theorem test_max_signed : leaves (.max abd) (two (-1) 1) 6 = 1 ∧ leaves (.max { abd with fn := 1 }) (two (-1) 1) 6 = -1 := by decide
theorem test_cmp : leaves (.cmpCc { abd with fn := 2 }) (two (-1) 0) 6 = 1 ∧ leaves (.cmpCc { abd with fn := 4 }) (two (-1) 0) 6 = 0 := by
  decide
theorem test_sel : leaves (.sel { abd with c := 4 }) (two 7 9) 6 = 7 ∧ leaves (.sel abd) (two 7 9) 6 = 9 := by decide
theorem test_li_sign_extends : leaves (.li { op with d := 6, imm22 := 0x200000 }) (openRow []) 6 = 0xFFFFFFFFFFE00000#64 := by decide
theorem test_lea : leaves (.lea { abd with fn := 3, imm22 := 1 }) (two 0x100 2) 6 = 0x111 := by decide
/-- `bext w5, w4, 8, 4` and its signed form on 0xABCD. -/
theorem test_bext : leaves (.bext { op with d := 6, a := 4, imm22 := 8 + 4 * 64 }) (openRow [(4, 0xABCD)]) 6 = 0xB
    ∧ leaves (.bext { op with d := 6, a := 4, fn := 1, imm22 := 8 + 4 * 64 }) (openRow [(4, 0xABCD)]) 6 = 0xFFFFFFFFFFFFFFFB#64 := by
  decide
/-- `bins w5, w4, w6, 0, 4` with 0x12 in w6. -/
theorem test_bins : leaves (.bins { abd with imm22 := 4 * 64 }) (two 0xABCD 0x12) 6 = 0xABC2 := by decide
theorem test_counts : leaves (.clz { op with d := 6, a := 4, fn := 0x40 }) (openRow [(4, 1)]) 6 = 31
    ∧ leaves (.ctz { op with d := 6, a := 4 }) (openRow []) 6 = 64
    ∧ leaves (.popc { op with d := 6, a := 4, fn := 0x40 }) (openRow [(4, 0xF0000000F)]) 6 = 4 := by decide
theorem test_madd : leaves (.madd { abd with c := 7 }) (openRow [(4, 3), (5, 5), (7, 100)]) 6 = 115 := by decide

/-! ### Floating point (the examples of R146 to R149) -/

/-- `ffma` of x = y = 1 + 2^−12 and z = −1.0 rounds once. -/
theorem test_ffma_rounds_once :
    leaves (.ffma { abd with c := 7 }) (openRow [(4, 0x3F800800), (5, 0x3F800800), (7, 0xBF800000)]) 6 = 0x3A000400 := by decide
/-- `fmul` of the same operands is a tie that goes to even, so that the following `fadd` gives 2^−11. -/
theorem test_fmul_tie : leaves (.fmul abd) (two 0x3F800800 0x3F800800) 6 = 0x3F801000 := by decide
theorem test_fadd : leaves (.fadd abd) (two 0x3F801000 0xBF800000) 6 = 0x3A000000 := by decide
theorem test_fsub_infinities : leaves (.fsub abd) (two 0x7F800000 0x7F800000) 6 = 0x7FC00000 := by decide
theorem test_fdiv_by_zero : leavesOp (.fdiv abd) (two 0xBF800000 0) = some (.value 6 0xFF800000) := by decide
theorem test_fsqrt : leavesOp (.fsqrt { op with d := 6, a := 4 }) (openRow [(4, 0x40800000)]) = some (.value 6 0x40000000) := by decide
theorem test_fmin_zeros : leaves (.fmin abd) (two 0 0x80000000) 6 = 0x80000000 ∧ leaves (.fmax abd) (two 0x7FC00000 0x3F800000) 6 = 0x3F800000 := by
  decide
theorem test_fcmp_unordered : leaves (.fcmpCc { abd with fn := 6 }) (two 0x7FC00000 0) 6 = 1 ∧ leaves (.fcmpCc { abd with fn := 4 }) (two 0 0x80000000) 6 = 1 := by
  decide
/-- The table of R149. -/
theorem test_fcvt : ([(0x00, 0x4F000000, 0x7FFFFFFF), (0x00, 0xC0200000, 0xFFFFFFFFFFFFFFFE), (0x80, 0xC0200000, 0xFFFFFFFFFFFFFFFD),
    (0x01, 0xBF800000, 0), (0x20, 0x7FC00000, 0), (0x04, 0x01000001, 0x4B800000), (0x08, 0x3F808000, 0x3F80), (0x68, 0x3F808000, 0x3F81),
    (0x09, 0xFF81, 0x7FC00000)] : List (BitVec 8 × Word × Word)).all (fun e =>
      leaves (.fcvt { op with d := 6, a := 4, fn := e.1 }) (openRow [(4, e.2.1)]) 6 == e.2.2) = true := by decide
theorem test_fsgn_fclass : leaves (.fsgnN abd) (two 0x3F800000 0) 6 = 0xBF800000 ∧ leaves (.fclass { op with d := 6, a := 4 }) (openRow [(4, 1)]) 6 = 0x20 := by
  decide

/-! ### Control flow and traps -/

/-- The PC after an instruction. -/
def goes (i : Instr) (s : State) : BitVec 32 := (after (exec i s)).pc

/-- `pbr` +2 at PC 0x40 makes `bt` valid with target 0x42, and `br` goes there. -/
theorem test_pbr_br : leaves (.pbr { op with imm22 := 2 }) (openRow []) 2 = 0x100000042 ∧ goes (.br op) (openRow [(2, 0x100000042)]) = 0x42 := by
  decide
/-- `bi.lo w5, -1` reads its comparand as unsigned after extension. -/
theorem test_bi_lo : goes (.biCc { op with a := 5, fn := 4, imm22 := 0x3FFFFF }) (openRow [(2, 0x100000010), (5, 7)]) = 0x10
    ∧ goes (.biCc { op with a := 5, fn := 4, imm22 := 0x3FFFFF }) (openRow [(2, 0x100000010), (5, -1)]) = 0x42 := by decide
/-- A `loop` whose counter is 0 sets it to all ones and branches. -/
theorem test_loop_from_zero : leaves (.loop { op with d := 4 }) (openRow [(2, 0x100000010)]) 4 = BitVec.allOnes 64
    ∧ goes (.loop { op with d := 4 }) (openRow [(2, 0x100000010)]) = 0x10 := by decide
/-- `call` writes the next PC; `callr w31, w31` reads its target first. -/
theorem test_calls : leaves (.call { op with d := 31, imm22 := 0x3FFFFF }) (openRow []) 31 = 0x42 ∧ goes (.j { op with imm22 := 0x3FFFFF }) (openRow []) = 0x3F
    ∧ goes (.callr { op with d := 31, a := 31, fn := 1 }) (openRow [(31, 0x99)]) = 0x99 := by decide
/-- `tret` of a trap at 0x40 with RESUME 1 and NEXT 2 goes to 0x42 and clears BUSY. -/
theorem test_tret : goes (.tret { op with fn := 1 }) (openRow [(3, 0x0000130C00000040#64)]) = 0x42
    ∧ (leaves (.tret { op with fn := 1 }) (openRow [(3, 0x0000130C00000040#64)]) 3).getLsbD 40 = false := by decide

/-! ### Atomics (the table of R164 to R167) -/

/-- What a pending atomic of row 0 on byte 0x1500 of the array leaves there, and in w6. -/
def atomics (i : Instr) (size : Nat) (old y z : Word) : Nat × Word :=
  let p : Pending := {
    op := .atomic i 0x1500 y z, lah := 0, since := 0, pc := 0x40, len := 2, rregs := [], wregs := [], rrows := [], wrows := []
    acquire := false, seq := 0 }
  let s := openRow []
  let u := after (exec (.longLatencyCompletion 0 0 0) { s with
    mem := wordsMem [(slotKey 0 0 0, 0x0000103200000040#64), (0x1500, old)]
    cores := ⟨[(0, { CoreSt.reset with latches := [latchOf 0 [p]], ctxmap := ⟨[(0, 3)]⟩, dlogbase := 256 })]⟩ })
  (u.mem.loadNat size 0x1500, u.reg 6)

/-- Operands of an atomic in row space. -/
def rs (f : BitVec 8) : Operands := { abd with fn := 0x80 ||| f }

theorem test_amo : atomics (.amoAdd (rs 0)) 4 0x7FFFFFFF 1 0 = (0x80000000, 0x7FFFFFFF)
    ∧ atomics (.amoOr (rs 2)) 4 0x10 0x14 0 = (0x14, 0x10)
    ∧ atomics (.amoMinn (rs 6)) 4 0xFFFFFFFF 5 0 = (5, 0xFFFFFFFFFFFFFFFF#64)
    ∧ atomics (.acas (rs 0)) 4 7 7 9 = (9, 7) := by decide
theorem test_famo : atomics (.famoAdd (rs 0)) 4 0x4B800000 0x3F800000 0 = (0x4B800000, 0x4B800000)
    ∧ atomics (.famoAdd2 (rs 3)) 4 0x3F804000 0x3F803F80 0 = (0x40004040, 0x3F804000)
    ∧ atomics (.famoMin (rs 1)) 4 0x7FC00000 0xC0000000 0 = (0xC0000000, 0x7FC00000) := by decide

end Sys2Proof.Tests
end

