-- ==== Sys2Proof/Tests/WitnessExecutor.lean ====
section
/-! SUPPORT. Witnesses for the statements about the executor: for every statement that has hypotheses, and for every clause of it, a
concrete state and operands that meet them, at boundary values of their ranges. -/

namespace Sys2Proof.Tests

set_option Elab.async false

open Sys2Proof Sys2Proof.Machine Sys2Proof.Safety

/-- A state with core 0 changed. -/
def withCore (s : State) (f : CoreSt → CoreSt) : State := { s with cores := ⟨[(0, f (s.core 0))]⟩ }

/-! ### Integers, floating point and control flow -/

theorem witness_IntegerOperations : ((two 7 0).latch? 0 0).isSome = true := by decide

/-- A global load and a row-space one, an acquire and a release, a `stm` to memory and one to the command window. -/
theorem witness_IssueConditions :
    let o := { op with a := 4, fn := 15 }
    let ea (x : Word) := ((openRow [(4, x)]).reg o.ra + o.imm).toNat
    vaRegion (ea 64) ≠ 2 ∧ ea 0xFFFF8 < 2 ^ 20 ∧ o.fn.getLsbD 3 = true ∧ o.fn.getLsbD 6 = false ∧ ({ op with fn := 0x40 } : Operands).fn.getLsbD 6 = true
      ∧ (let q := { op with a := 4, fn := 7 }; q.fn.toNat % 16 = 7) ∧ ea 0x100000 = 0x100000 := by decide

/-- A pending operation that uses registers and rows. -/
def busyOp (rregs wregs rrows wrows : List Nat) : Pending := {
  op := .value 6 7, lah := 15, since := 0, pc := 0x40, len := 2, rregs := rregs, wregs := wregs, rrows := rrows, wrows := wrows, acquire := false, seq := 1 }

/-- `radd` of rows 6 and 7 into row 6: no hazard; register 5 written by a pending operation, and none below it; row 7 written, which
field B alone names; row 6 written, which D and A name, of which D comes first. -/
theorem witness_IssueConditions_hazards :
    let i := Instr.radd { op with d := 4, a := 4, b := 5 }
    let s := openRow [(4, 6), (5, 7)]
    let u := usesOf i s
    let register (ps : List Pending) (k : Nat) : Prop := ∃ p ∈ ps, ((k ∈ u.rregs ∨ k ∈ u.wregs) ∧ k ∈ p.wregs) ∨ (k ∈ u.wregs ∧ k ∈ p.rregs)
    let row (ps : List Pending) (x : Nat) : Prop :=
      ∃ p ∈ ps, ((x ∈ u.rrows.map (·.1) ∨ x ∈ u.wrows.map (·.1)) ∧ x ∈ p.wrows) ∨ (x ∈ u.wrows.map (·.1) ∧ x ∈ p.rrows)
    i.operands? = some { op with d := 4, a := 4, b := 5 } ∧ u.rregs = [4, 5, 4] ∧ u.rrows = [(6, 1), (7, 2)] ∧ u.wrows = [(6, 0)]
      ∧ (register [busyOp [] [9, 5] [] []] 5 ∧ ∀ j, j < 5 → ¬ register [busyOp [] [9, 5] [] []] j)
      ∧ (let ps := [busyOp [1] [8] [] [7]]; (∀ k, k < 32 → ¬ register ps k) ∧ row ps 7 ∧ ¬ row ps 6)
      ∧ (let ps := [busyOp [] [] [] [6]]; (∀ k, k < 32 → ¬ register ps k) ∧ row ps 6)
      ∧ (let ps := [busyOp [4] [31] [7] [40]]; (∀ k, k < 32 → ¬ register ps k) ∧ ¬ row ps 6 ∧ ¬ row ps 7 ∧ ¬ row ps 40) := by
  refine ⟨?_, ?_, ?_, ?_, ⟨?_, ?_⟩, ⟨?_, ?_, ?_⟩, ⟨?_, ?_⟩, ?_, ?_, ?_, ?_⟩ <;> decide

/-- The bytes of `lr` and `sr` in the own row and in another, aligned for their widths, and eight registers of `ldm`. -/
theorem witness_IssueConditions_uses :
    let o := { op with a := 4, fn := 6 }
    let ea (x : Word) := ((openRow [(4, x)]).reg o.ra + o.imm).toNat
    (ea 0xFFFF8 < 2 ^ 20 ∧ ea 0xFFFF8 / 256 ≠ (openRow []).curRow ∧ ea 0xFFFF8 % 8 = 0) ∧ (ea 0xF8 / 256 = (openRow []).curRow ∧ o.fn.toNat % 8 = 6)
      ∧ (let q := { op with fn := 3 }; ea 0x108 % 2 ^ (q.fn.toNat % 8) = 0 ∧ q.fn.toNat % 8 ≤ 3) ∧ ea 0xFFFC0 % 64 = 0
      ∧ ({ op with fn := 15 } : Operands).fn.toNat % 8 + 1 = 8 := by decide

/-- R142's relations; R143 at a field of the whole word, and at one of a single bit, the top one. -/
theorem witness_ComparesAndBitFields :
    (let o := { abd with fn := 5 }; o.fn.toNat % 8 < 6)
      ∧ (let o := { abd with imm22 := 64 * 64 }; 1 ≤ o.imm22.toNat / 64 % 128 ∧ o.imm22.toNat % 64 + o.imm22.toNat / 64 % 128 ≤ 64)
      ∧ (let o := { abd with imm22 := 63 + 64 }; 1 ≤ o.imm22.toNat / 64 % 128 ∧ o.imm22.toNat % 64 + o.imm22.toNat / 64 % 128 ≤ 64) := by
  decide

/-- A state whose partition 0 owns grove 0, and whose TLBs of stacks 0 and 1 hold the first 2 MiB of REGION 00. -/
def mapped (s : State) : State :=
  { s with
    parts := ⟨[(0, { PartSt.reset with groves := 1 })]⟩
    tlb := [0, 1].map (fun k =>
      { point := k, part := 0, region := 0, page := 0, size := 2 ^ 21, frame := 0, w := true, gen := 0 }) }

/-- A `hint.fetch` whose block can be fetched: the one at 0x100. -/
theorem witness_NoOperations :
    let s := mapped { openRow [] with fabric := { FabricSt.reset with nodeId := 0 } }
    let o := { op with fn := 1 }
    let blk := s.codeVa 0 (s.pc + o.imm.setWidth 32) / 32 * 32
    s.isLocal blk = true ∧ vaRegion blk ≠ 2 ∧ s.peek (s.partid 0) (s.canonVa blk) = some (dramKey 1 0) ∧ s.poisoned (dramKey 1 0) 32 = false := by
  decide

/-- Row 0 at 0x44 and row 1 at 0x40 of one block, both open; row 0 at a `hint.gather` that it began in cycle 0, where the grove is at n. -/
def gathers (began : Bool) (n : Nat) : State :=
  { openRow [] with
    mem := wordsMem [(slotKey 0 0 0, 0x0000103200000044#64), (slotKey 0 1 0, 0x0000103200000040#64)]
    cores := ⟨[(0, { CoreSt.reset with
      latches := [{ latchOf 0 [] with gather := if began then some (0, 0x44) else none }, latchOf 1 []] })]⟩
    groves := ⟨[(0, { GroveSt.reset with cc := n })]⟩ }

/-- `hint.gather` 0; with no row behind, and with one; begun and not; in the last cycle of its time and in the first after it. -/
theorem witness_NoOperations_gather :
    let latched (s : State) : Option (Nat × BitVec 32) := (s.latch? 0 0).bind (fun l => l.gather)
    ({ op with imm22 := 0x100 } : Operands).imm22.toNat % 256 = 0 ∧ ({ op with imm22 := 255 } : Operands).imm22.toNat % 256 = 255
      ∧ (openRow []).gatherBehind 0 0 = false ∧ (gathers false 0).gatherBehind 0 0 = true ∧ (gathers true 254).gatherBehind 0 0 = true
      ∧ (gathers true 254).pc = 0x44 ∧ latched (gathers false 0) = none ∧ latched (gathers true 254) = some (0, 0x44)
      ∧ ¬ 0 + 255 ≤ ((gathers true 254).grove 0).cc ∧ 0 + 255 ≤ ((gathers true 255).grove 0).cc := by decide

/-- Taken with a valid `bt`, taken with an invalid one, and not taken. -/
theorem witness_Branches :
    let o := { op with a := 4, b := 5, fn := 5 }
    let s (bt x : Word) := openRow [(2, bt), (4, x), (5, 5)]
    (o.fn.toNat % 8 < 6 ∧ condition o ((s 0x100000010 5).reg o.ra) ((s 0x100000010 5).reg o.rb) = true
        ∧ ((s 0x100000010 5).reg 2).getLsbD 32 = true)
      ∧ (condition o ((s 0x10 5).reg o.ra) ((s 0x10 5).reg o.rb) = true ∧ ((s 0x10 5).reg 2).getLsbD 32 = false)
      ∧ condition o ((s 0x10 4).reg o.ra) ((s 0x10 4).reg o.rb) = false := by decide

/-- The same for a branch with an immediate. -/
theorem witness_Branches_immediate :
    let o := { op with a := 4, fn := 5, imm22 := 5 }
    let s (bt x : Word) := openRow [(2, bt), (4, x)]
    (condition o ((s 0x100000010 5).reg o.ra) o.imm = true ∧ ((s 0x100000010 5).reg 2).getLsbD 32 = true)
      ∧ (condition o ((s 0x10 5).reg o.ra) o.imm = true ∧ ((s 0x10 5).reg 2).getLsbD 32 = false)
      ∧ condition o ((s 0x10 4).reg o.ra) o.imm = false := by decide

/-- A counter of 2 with a valid and with an invalid `bt`, a counter of 1, and one of 0, which wraps. -/
theorem witness_Branches_loop :
    let o := { op with d := 4 }
    let s (bt x : Word) := openRow [(2, bt), (4, x)]
    ((s 0x100000010 2).reg o.rd - 1 ≠ 0 ∧ ((s 0x100000010 2).reg 2).getLsbD 32 = true)
      ∧ ((s 0x10 2).reg o.rd - 1 ≠ 0 ∧ ((s 0x10 2).reg 2).getLsbD 32 = false)
      ∧ (s 0x10 1).reg o.rd - 1 = 0 ∧ (s 0x10 0).reg o.rd - 1 ≠ 0 := by decide

/-- Tables of waits: empty, and full. -/
def waitsFull (s : State) : State :=
  withCore s (fun x => { x with waits := List.replicate 64 { row := 1, on := .tagsAll 1, met := false } })

/-- `yield` without and with another READY row; a clasp armed and not; each wait met, not met, and not met with a full table. -/
theorem witness_YieldHaltAndWait :
    let s := openRow [(1, 0x100000000)]
    let ready := withCore s (fun x => { x with fifo := [{ row := 1, age := 0 }] })
    let m := s.reg op.ra ||| ({ op with imm22 := 8 } : Operands).imm
    (s.core 0).fifo.all (fun e => s.isShed (ctlClass (s.ctl 0 e.row))) = true
      ∧ (ready.core 0).fifo.all (fun e => ready.isShed (ctlClass (ready.ctl 0 e.row))) = false
      ∧ (s.reg 1).getLsbD 32 = true ∧ ((openRow []).reg 1).getLsbD 32 = false
      ∧ ((s.core 0).tags &&& (0 : Word) = 0) ∧ ¬ ((s.core 0).tags &&& m = m) ∧ (s.core 0).waits.length < 64
      ∧ 64 ≤ ((waitsFull s).core 0).waits.length
      ∧ ¬ (m = 0 ∨ (s.core 0).tags &&& m ≠ 0)
      ∧ (0 : Word) ≤ s.time ∧ ¬ ((1 : Word) ≤ s.time)
      ∧ (let acked := withCore s (fun x => { x with tags := 8, sysTags := 8 });
        (acked.core 0).tags &&& m = m ∧ ¬ ((acked.core 0).sysTags &&& m = 0) ∧ (s.core 0).sysTags &&& m = 0) := by decide

/-- A NaN, opposite and equal infinities, a zero by an infinity, a division by zero and one by an infinity, and the special operands of
`fsqrt`, among them the negative number of the least magnitude. -/
theorem witness_FloatArithmetic :
    fpNan 0x7FC00001#32 = true
      ∧ (fpInf 0x7F800000#32 = true ∧ fpInf 0xFF800000#32 = true
        ∧ ((0x7F800000#32).getLsbD 31 != (0xFF800000#32).getLsbD 31) = true ∧ ((0x7F800000#32).getLsbD 31 != (0x7F800000#32).getLsbD 31) = false)
      ∧ (fpZero 0x80000000#32 = true ∧ fpInf 0x7F800000#32 = true)
      ∧ (¬ fpNan 1#32 = true ∧ ¬ fpZero 1#32 = true ∧ fpZero 0#32 = true)
      ∧ (¬ fpNan 1#32 = true ∧ ¬ fpInf 1#32 = true ∧ fpInf 0xFF800000#32 = true)
      ∧ (¬ fpNan 0x80000001#32 = true ∧ ¬ fpZero 0x80000001#32 = true ∧ (0x80000001#32).getLsbD 31 = true)
      ∧ ((two 0x80000000 0).reg 4).setWidth 32 = 0x80000000#32 ∧ ((two 0x7F800000 0).reg 4).setWidth 32 = 0x7F800000#32
      ∧ ((two 1 1).latch? 0 0).isSome = true := by decide

/-- Each kind of `fcvt`. -/
theorem witness_FloatCompareAndConvert :
    (List.range 10).all (fun k => ({ abd with fn := BitVec.ofNat 8 k }).fn.toNat % 16 == k) = true := by decide

/-! ### Traps -/

/-- A state whose partition 0 owns grove 0, and whose gang 1 has a descriptor of one member more than it counts, with a handler. -/
def gangState (ws : List (Nat × Word)) (handler : Word) : State :=
  { mapped (openRow ws) with
    mem := wordsMem (rowWords 0 ((0, 0x0000103200000040#64) :: ws) ++ [(dramKey 0 64, 0x10003), (dramKey 0 80, handler)]) }

theorem handlerIs_of {s : State} {c r : Nat} {h : BitVec 32}
    (e : ((s.descriptor (s.partid c) (ctlGang (s.ctl c r))).1.map (fun d => d.handler)) = some h) : HandlerIs s c r h := by
  unfold HandlerIs
  cases hd : (s.descriptor (s.partid c) (ctlGang (s.ctl c r))).1 with
  | none => rw [hd] at e; simp at e
  | some d => exact ⟨d, rfl, by rw [hd] at e; simpa using e⟩

theorem drained_of {s : State} {c r : Nat} (h : s.pendingOf c r = []) (h' : s.outstanding c r = []) : Drained s c r := ⟨h, h'⟩

/-- A trap that waits for its row to drain. -/
def trapped (k : Cause) (s : State) : State :=
  let t : TrapInfo := { cause := k, pc := 0x40, code := 0, deferred := true, len := 2 }
  withCore s (fun x => { x with latches := x.latches.map (fun (l : Latch) => { l with intent := .trap t }) })

/-- The intent of row 0 of core 0. -/
def turned (k : Intent) (s : State) : State :=
  withCore s (fun x => { x with latches := x.latches.map (fun (l : Latch) => { l with intent := k }) })

/-- A row that drains to enter a trap and took a control request on the way, which sends it on or halts it. -/
theorem witness_TrapEntry_redirect :
    ∀ b : Bool, let y : TrapInfo := { cause := .align, pc := 0x40, code := 0, deferred := true, len := 2, redirect := some (0x80, b) }
      let u := turned (.trap y) (gangState [] 0x200)
      (u.latch? 0 0).map (fun l => l.intent) = some (.trap y) ∧ y.cause ≠ .lease ∧ y.cause ≠ .wdog ∧ u.pendingOf 0 0 = [] ∧ u.outstanding 0 0 = []
        ∧ (u.slot 0 0 3).getLsbD 40 = false := by decide

/-- At issue; after a drain; a pending ENGINE trap of a row that runs, and of one that stalls in `gbar`. -/
theorem witness_TrapEntry :
    let s := gangState [] 0x200
    (Drained s 0 0 ∧ (s.slot 0 0 3).getLsbD 40 = false ∧ HandlerIs s 0 0 0x200 ∧ (0x200 : BitVec 32) ≠ 0xFFFFFFFF#32
        ∧ 0 = s.curCore ∧ 0 = s.curRow)
      ∧ (let u := trapped .align s;
        Drained u 0 0 ∧ (u.slot 0 0 3).getLsbD 40 = false ∧ HandlerIs u 0 0 0x200
          ∧ (u.latch? 0 0).map (fun l => l.intent) = some (.trap { cause := .align, pc := 0x40, code := 0, deferred := true, len := 2 }))
      ∧ (let u := withCore s (fun x => { x with engTraps := [(0, 1)] });
        Drained u 0 0 ∧ (u.slot 0 0 3).getLsbD 40 = false ∧ HandlerIs u 0 0 0x200
          ∧ (u.latch? 0 0).map (fun l => l.intent) = some .run ∧ (u.core 0).engTraps.find? (fun e => e.1 == 0) = some (0, 1))
      ∧ (let u := turned .stalled (withCore s (fun x => { x with engTraps := [(0, 1)] }));
        Drained u 0 0 ∧ (u.slot 0 0 3).getLsbD 40 = false ∧ HandlerIs u 0 0 0x200
          ∧ (u.latch? 0 0).map (fun l => l.intent) = some .stalled ∧ (u.core 0).engTraps.find? (fun e => e.1 == 0) = some (0, 1)) := by
  refine ⟨⟨⟨?_, ?_⟩, ?_, handlerIs_of ?_, ?_, ?_, ?_⟩, ⟨⟨?_, ?_⟩, ?_, handlerIs_of ?_, ?_⟩, ⟨⟨?_, ?_⟩, ?_, handlerIs_of ?_, ?_, ?_⟩,
    ⟨?_, ?_⟩, ?_, handlerIs_of ?_, ?_, ?_⟩ <;> decide

theorem recordsDropped_of {s : State} {c low : Nat} (hs : (s.part (s.partid c)).saved = none)
    (h : s.lowCore (s.partid c) = some low) (h' : (s.ring low 0).2 = 0) : RecordsDropped s c := ⟨hs, low, h, h'⟩

/-- BUSY set; no handler; LEASE; WDOG. -/
theorem witness_RowEnds :
    (let s := gangState [(3, 0x10000000000)] 0x200;
      Drained s 0 0 ∧ RecordsDropped s 0 ∧ (s.slot 0 0 3).getLsbD 40 = true ∧ 0 = s.curCore ∧ 0 = s.curRow)
      ∧ (let s := gangState [] 0xFFFFFFFF;
        Drained s 0 0 ∧ RecordsDropped s 0 ∧ HandlerIs s 0 0 0xFFFFFFFF#32)
      ∧ (∀ k ∈ [Cause.lease, .wdog], let s := trapped k (gangState [] 0x200);
        Drained s 0 0 ∧ RecordsDropped s 0
          ∧ (s.latch? 0 0).map (fun l => l.intent) = some (.trap { cause := k, pc := 0x40, code := 0, deferred := true, len := 2 })) := by
  refine ⟨⟨⟨?_, ?_⟩, recordsDropped_of (low := 0) ?_ ?_ ?_, ?_, ?_, ?_⟩,
    ⟨⟨?_, ?_⟩, recordsDropped_of (low := 0) ?_ ?_ ?_, handlerIs_of ?_⟩, ?_⟩ <;> try decide
  intro k hk
  simp only [List.mem_cons, List.not_mem_nil, or_false] at hk
  rcases hk with rfl | rfl <;> refine ⟨⟨?_, ?_⟩, recordsDropped_of (low := 0) ?_ ?_ ?_, ?_⟩ <;> decide

/-- BUSY set and clear; without a register and with one; a row that left a stall in `gbar`, whose episode has not released, and one whose
episode has. -/
theorem witness_TrapReturn :
    let s := openRow [(3, 0x10000000000)]
    let left (met : Bool) := withCore s (fun x => { x with barred := [0], waits := [{ row := 0, on := .barrier 1 0, met := met }] })
    op.a = 0 ∧ ({ op with a := 4 } : Operands).a ≠ 0 ∧ (s.reg 3).getLsbD 40 = true ∧ ((openRow []).reg 3).getLsbD 40 = false ∧ 0 ∉ (s.core 0).barred
      ∧ (∀ b, 0 ∈ ((left b).core 0).barred)
      ∧ ((left false).core 0).waits.any (fun e => e.row == 0 && e.on.isBarrier && !e.met) = true
      ∧ ((left true).core 0).waits.any (fun e => e.row == 0 && e.on.isBarrier && !e.met) = false := by decide

/-! ### Memory, at issue -/

/-- The state of a row whose gang may use the first 2^57 bytes, in a device whose id is 0. -/
def leased (ws : List (Nat × Word)) : State :=
  { openRow ws with
    gangs := ⟨[(1, { GangSt.reset with lease := some [{ base := 0, bytes := 2 ^ 57, wr := true }] })]⟩
    fabric := { FabricSt.reset with nodeId := 0 } }

/-- A global load: misaligned, refused, allowed at this device, and allowed at another that a route leads to. -/
theorem witness_LoadsIssue :
    let o := { op with d := 6, a := 4, fn := 6 }
    let ea (s : State) := s.reg o.ra + o.imm
    let s := leased [(4, 8)]
    (s.latch? s.curCore s.curRow).isSome = true ∧ (ea (leased [(4, 7)])).toNat % 8 ≠ 0 ∧ (ea s).toNat % 8 = 0
      ∧ (openRow [(4, 8)]).senderRefusal (openRow [(4, 8)]).me 8 8 true false = some .xlate
      ∧ s.senderRefusal s.me (ea s) 8 true false = none ∧ s.isLocal (ea s).toNat = true
      ∧ (let far := leased [(4, 0x800000000000)];
        let u := { far with fabric := { far.fabric with route := ⟨[(1, 0)]⟩ } };
        u.senderRefusal u.me (ea u) 8 true false = none ∧ u.isLocal (ea u).toNat = false) := by decide

/-- The sender's checks: an address with bit 57 set, one of a device that no link leads to and one that a link leads to; the units at the ends
of the assigned ranges and those beside them; a lease whose last byte the access takes and one byte more; a right to write that is missing. -/
theorem witness_LoadsIssue_sender :
    let s := leased []
    let nowhere (s : State) (va : Nat) : Prop :=
      2 ^ 57 ≤ va ∨ (vaNode va ≠ 0x3FF ∧ vaNode va ≠ s.fabric.nodeId ∧ s.fabric.route.get 31 (vaNode va) = 31)
    let unit (u : Nat) : Nat := 0x3FF * 2 ^ 47 + 2 * 2 ^ 45 + u * 2 ^ 36
    let assigned (n : Nat) : Prop := n < 0x140 ∨ (0x180 ≤ n ∧ n < 0x188) ∨ n = 0x1F0 ∨ n = 0x1F1
    let covered (l : LRange) (va n : Nat) (w : Bool) : Prop := l.base ≤ va ∧ va + n ≤ l.base + l.bytes ∧ (w = true → l.wr = true)
    let l : LRange := { base := 4096, bytes := 4096, wr := false }
    (nowhere s (2 ^ 57) ∧ nowhere s (2 ^ 47) ∧ ¬ nowhere s (0x3FF * 2 ^ 47 + 2 ^ 45) ∧ ¬ nowhere s 64
        ∧ ¬ nowhere { s with fabric := { s.fabric with route := ⟨[(1, 0)]⟩ } } (2 ^ 47))
      ∧ (¬ nowhere s (unit 0x13F) ∧ vaRegion (unit 0x13F) = 2 ∧ assigned (vaUnit (unit 0x13F)) ∧ ¬ assigned (vaUnit (unit 0x140))
        ∧ ¬ assigned (vaUnit (unit 0x17F)) ∧ assigned (vaUnit (unit 0x187)) ∧ ¬ assigned (vaUnit (unit 0x188)) ∧ ¬ assigned (vaUnit (unit 0x1EF))
        ∧ assigned (vaUnit (unit 0x1F1)) ∧ ¬ assigned (vaUnit (unit 0x1F2)))
      ∧ (s.me.mode = false ∧ vaRegion 8184 ≠ 2 ∧ covered l 8184 8 false ∧ ¬ covered l 8184 8 true ∧ ¬ covered l 8185 8 false ∧ ¬ covered l 4095 1 false)
      ∧ (s.gang s.me.part s.me.gang).lease = some [{ base := 0, bytes := 2 ^ 57, wr := true }] ∧ ((openRow []).gang 0 1).lease = none
      ∧ (Ident.supervisor 0).mode = true := by
  refine ⟨⟨?_, ?_, ?_, ?_, ?_⟩, ⟨?_, ?_, ?_, ?_, ?_, ?_, ?_, ?_, ?_, ?_⟩, ⟨?_, ?_, ?_, ?_, ?_, ?_⟩, ?_, ?_, ?_⟩ <;> decide

/-- The checks of row space: a core of another partition; a supervisor; a user's row in the dirty log at its ends and beside it; the lowest
of two enabled ranges that hold the row, of the gang and of another, with and without each right; a row that none holds. -/
theorem witness_LoadsIssue_ranges :
    let id := (openRow []).me
    let s (b : Nat) (w : Word) := withCore (openRow []) (fun x => { x with rangeA := ⟨[(2, 0x00050005), (b, 0x00040005)]⟩, rangeB := ⟨[(2, 1), (b, w)]⟩ })
    let x := (s 1 9).core 0
    let logs (r : Nat) : Prop := ∃ k, k < 16 ∧ r = (x.dlogbase + k) % 4096
    let ranged (y : CoreSt) (i r : Nat) : Prop := (y.rangeB.get 0 i).getLsbD 0 = true ∧ bitsAt (y.rangeA.get 0 i) 0 12 ≤ r ∧ r ≤ bitsAt (y.rangeA.get 0 i) 16 12
    x.dlogbase < 4096 ∧ id.part = (s 1 9).partid 0 ∧ id.mode = false ∧ (Ident.supervisor 0).mode = true ∧ (Ident.supervisor 1).part ≠ (s 1 9).partid 0
      ∧ (logs 256 ∧ logs 271 ∧ ¬ logs 255 ∧ ¬ logs 272 ∧ ¬ logs 5)
      ∧ ranged ((s 3 9).core 0) 2 5 ∧ (∀ j, j < 2 → ¬ ranged ((s 3 9).core 0) j 5)
      ∧ (∀ i, i < 16 → ¬ ranged x i 6)
      ∧ (let y := withCore (openRow []) (fun x => { x with rangeA := ⟨[(0, 0x00050004)]⟩, rangeB := ⟨[(0, 0x109)]⟩ });
        ranged (y.core 0) 0 4 ∧ ranged (y.core 0) 0 5 ∧ ¬ ranged (y.core 0) 0 3 ∧ ¬ ranged (y.core 0) 0 6
          ∧ ((y.core 0).rangeB.get 0 0).getLsbD 3 = true ∧ bitsAt ((y.core 0).rangeB.get 0 0) 8 12 = id.gang
          ∧ ((y.core 0).rangeB.get 0 0).getLsbD 1 = false ∧ ((y.core 0).rangeB.get 0 0).getLsbD 2 = false) := by decide

/-- `ldm` of eight registers: misaligned, refused, allowed. -/
theorem witness_LoadsIssue_many :
    let s := leased [(4, 64)]
    (32 : Nat) % 64 ≠ 0 ∧ ({ op with fn := 15 } : Operands).fn.getLsbD 3 = true ∧ (64 : Nat) % 64 = 0
      ∧ s.senderRefusal s.me 64 64 true false = none ∧ (openRow []).senderRefusal (openRow []).me 64 64 true false = some .xlate := by decide

/-- Row space: past the unit, in the array but refused, in another row, and in the own latch at its last byte. -/
theorem witness_LoadsIssue_row :
    let s := openRow []
    let barred := withCore s (fun x => { x with rangeA := ⟨[(0, 0x0FFF0000)]⟩, rangeB := ⟨[(0, 1)]⟩ })
    2 ^ 21 ≤ (0x200000 : Word).toNat ∧ barred.rowRefusal barred.me 0x100 false = some .prot
      ∧ (s.rowRefusal s.me 0xFFFF8 false = none ∧ (0xFFFF8 : Word).toNat < 2 ^ 20 ∧ (0xFFFF8 : Word).toNat / 256 ≠ s.curRow)
      ∧ (s.rowRefusal s.me 0xF8 false = none ∧ (0xF8 : Word).toNat / 256 = s.curRow) := by decide

/-- The registers of the engine page, at their first and last addresses, and the refusals beside them. -/
theorem witness_LoadsIssue_engine :
    let o := { op with d := 6, a := 4, fn := 6 }
    let ea (x : Word) := ((openRow [(4, x)]).reg o.ra + o.imm).toNat
    ea 0x100040 = 0x100040 ∧ ea 0x100100 = 0x100100 + 64 * 0 ∧ ea 0x1001C8 = 0x100108 + 64 * 3 ∧ ea 0x1001D0 = 0x100110 + 64 * 3
      ∧ ea 0x1003F0 = 0x100200 + 16 * 31 ∧ ea 0x1003F8 = 0x100208 + 16 * 31
      ∧ (0x100000 ≤ ea 0x100038 ∧ ea 0x100038 < 0x100040 ∧ ea 0x100038 % 8 = 0)
      ∧ (0x100400 ≤ ea 0x1FFFF8 ∧ ea 0x1FFFF8 < 2 ^ 21 ∧ ea 0x1FFFF8 % 8 = 0) := by decide

/-- A global store: misaligned, refused and allowed; a header for this device's dispatch window, and one for another's. -/
theorem witness_StoresIssue :
    let s := leased [(4, 8)]
    (7 : Nat) % 2 ^ 3 ≠ 0 ∧ (8 : Nat) % 2 ^ 3 = 0 ∧ (32 : Nat) % 64 ≠ 0
      ∧ (openRow []).senderRefusal (openRow []).me 8 8 false true = some .xlate ∧ s.senderRefusal s.me 8 8 false true = none
      ∧ s.senderRefusal s.me 64 64 false true = none ∧ (openRow []).senderRefusal (openRow []).me 64 64 false true = some .xlate
      ∧ (let own := 0x3FF * 2 ^ 47 + 2 * 2 ^ 45 + 0x1F0 * 2 ^ 36;
        let far := 2 ^ 47 + 2 * 2 ^ 45 + 0x1F0 * 2 ^ 36;
        vaRegion own = 2 ∧ vaUnit own = 0x1F0 ∧ s.isLocal own = true ∧ vaRegion far = 2 ∧ vaUnit far = 0x1F0 ∧ s.isLocal far = false) := by
  decide

/-- Row space: another row that is refused, one that holds an error, one that is not busy, and one that is open, one that an older
access of its path or an earlier request holds; the own row at its first byte above slot 3, in slot 1 and in slot 0; a control request
to another context row that the sender checks refuse, and one that they allow, whose row holds an error, is open, or neither. -/
theorem witness_StoresIssue_row :
    let s := openRow []
    let barred := withCore s (fun x => { x with rangeA := ⟨[(0, 0x0FFF0000)]⟩, rangeB := ⟨[(0, 1)]⟩ })
    let busy := withCore s (fun x => { x with latches := x.latches ++ [latchOf 1 []] })
    RowExists s ∧ barred.rowRefusal barred.me 0x200 true = some .prot
      ∧ (s.rowRefusal s.me 0x108 true = none ∧ (8 ≤ 0x108 % 256 ∨ s.isContext 0 1 = false) ∧ 1 ≠ s.curRow)
      ∧ ({ s with poison := [8] }).partlyPoisoned 0x108 8 = true ∧ s.partlyPoisoned 0x108 8 = false ∧ s.rowBusy 0 1 = false
      ∧ busy.rowBusy 0 1 = true ∧ busy.rowRefusal busy.me 0x108 true = none
      ∧ s.rowRefusal s.me 32 true = none ∧ s.rowRefusal s.me 8 true = none ∧ (32 : Nat) / 256 = s.curRow
      ∧ (let p : Pending := {
          op := .load 4 8 false false 0x108 0, lah := 15, since := 0, pc := 0, len := 2, rregs := [], wregs := [4], rrows := []
          wrows := [], acquire := false, seq := 1 };
        let older := { withCore s (fun x => { x with latches := [latchOf 0 [p]] }) with seq := 2 };
        older.olderOnPath 0 0 true 2 = true ∧ s.olderOnPath 0 0 true s.seq = false)
      ∧ (let q (n : Nat) : RowReq :=
          { core := 0, row := 1, off := 8, data := List.replicate 8 1, ctl := false, id := s.me, rs := true, seq := n };
        let queued := { s with seq := 2, rowReqs := [q 1] };
        queued.rowReqs.any (fun x => x.alongside (q 2)) = true ∧ s.rowReqs = [])
      ∧ (let u := { s with mem := wordsMem [(0, 0x0000103200000040), (0x100, 0x0000103000000000)] };
        u.isContext 0 1 = true ∧ (u.controlRefusal u.me 0 1 0x100000000 true).isSome = true
          ∧ u.controlRefusal u.me 0 1 0x0000103100000040 true = none
          ∧ ({ u with poison := [8] }).partlyPoisoned 0x100 7 = true ∧ u.partlyPoisoned 0x100 7 = false)
      ∧ (s.controlRefusal s.me 0 0 0x100000000 true).isSome = true ∧ s.controlRefusal s.me 0 0 0x0000103400000040 true = none := by
  unfold RowExists; decide

/-- A dirty line of REGION 01. -/
def dirtyLine : SliceLine := { part := 0, line := 0x3FF * 2 ^ 41 + 2 ^ 39 + 1, dirty := true, key := cxlKey 0 64, data := 5, way := 0 }

/-- It is in the slice of grove 0, and the TLB of port 0 holds its translation. -/
def dirtied (s : State) : State :=
  { s with
    groves := ⟨[(0, { GroveSt.reset with lines := [dirtyLine] })]⟩
    tlb := [{ point := 8, part := 0, region := 1, page := 0, size := 2 ^ 21, frame := 0, w := true, gen := 0 }] }

theorem resident_of_one {s : State} {l : SliceLine} {k : Nat} (h : s.translate l.part (l.line * 64) false = (some k, s))
    (h' : ∀ i, i < 64 → s.physKey (k + i) = k + i) : Resident s [l] (fun _ => k) := by
  refine ⟨fun m hm => ?_, fun m hm q hq i j hi hj e => ?_⟩
  · obtain rfl := List.mem_singleton.mp hm; exact h
  · obtain rfl := List.mem_singleton.mp hm; obtain rfl := List.mem_singleton.mp hq
    have e : s.physKey (k + i) = s.physKey (k + j) := e
    rw [h' i hi, h' j hj] at e; exact ⟨rfl, by omega⟩

set_option maxRecDepth 20000 in
/-- A `pf` whose line can be read and for whose line a way is left, with no dirty line anywhere; a fence of W and R and one of neither; the dirty lines of the grove, and
those that a `wb` of its bytes picks, resident. -/
theorem witness_FencesAndSliceControl_lines :
    let s := mapped (leased [])
    let d := dirtied s
    (s.senderRefusal s.me 64 1 true false = none ∧ vaRegion 64 ≠ 2 ∧ s.isLocal 64 = true
        ∧ s.peek (s.partid 0) (s.canonVa 64 / 64 * 64) = some (dramKey 0 64) ∧ s.poisoned (dramKey 0 64) 64 = false
        ∧ (s.grove 0).lines = [] ∧ ((s.grove 0).fillWay 0 (s.canonVa 64 / 64)).isSome = true)
      ∧ ({ op with fn := 0x2A } : Operands).fn.getLsbD 1 = true ∧ ({ op with fn := 0x2A } : Operands).fn.getLsbD 3 = true
      ∧ op.fn.getLsbD 1 = false
      ∧ (d.grove 0).lines.filter (fun l => l.far && l.dirty) = [dirtyLine] ∧ Resident d [dirtyLine] (fun _ => cxlKey 0 64)
      ∧ (dirtyLine.part == d.partid 0 && decide (dirtyLine.line * 64 < d.canonVa (2 ^ 45 + 64) + 64)
          && decide (d.canonVa (2 ^ 45 + 64) < dirtyLine.line * 64 + 64)) = true := by
  refine ⟨⟨by decide, by decide, by decide, by decide, by decide, by decide, by decide⟩, by decide, by decide, by decide, rfl,
    resident_of_one ?_ ?_, ?_⟩ <;> decide

/-- An `unlock` of a line that its partition has pinned, and of one it has not; a `lock` allowed and refused; an address past the VA. -/
theorem witness_FencesAndSliceControl :
    let s := leased []
    let pinned := { s with groves := ⟨[(0, { GroveSt.reset with pins := [{ part := 0, line := 0x3FF * 2 ^ 41 + 1, way := 0 }] })]⟩ }
    let mine (p : Nat) (q : Pin) : Bool := q.part == p && q.line == s.canonVa 64 / 64
    ({ op with imm22 := 5 } : Operands).imm22.toNat % 8 = 5 ∧ ¬ op.imm22.toNat % 8 = 5
      ∧ (s.latch? s.curCore s.curRow).isSome = true ∧ s.senderRefusal s.me 64 1 true false = none
      ∧ (openRow []).senderRefusal (openRow []).me 64 1 true false = some .xlate
      ∧ 2 ^ 57 ≤ (0x200000000000000 : Word).toNat
      ∧ (pinned.grove 0).pins.any (mine (pinned.partid 0)) = true ∧ (s.grove 0).pins.any (mine (s.partid 0)) = false := by decide

/-- An atomic: misaligned, refused, allowed at this device; in row space past the array, on another row above and in slot 0 of a
context row, and on the own row in slots 0, 1 and 4. -/
theorem witness_AtomicsIssue :
    let s := leased []
    (s.latch? s.curCore s.curRow).isSome = true ∧ (4 : Nat) % 8 ≠ 0 ∧ (8 : Nat) % 8 = 0
      ∧ (openRow []).senderRefusal (openRow []).me 8 8 true true = some .xlate ∧ s.senderRefusal s.me 8 8 true true = none
      ∧ (abd.fn.getLsbD 7 = false ∧ (rs 0).fn.getLsbD 7 = true) ∧ 2 ^ 20 ≤ (0x100000 : Word).toNat
      ∧ s.rowDenied s.me 0 1 true = false ∧ s.rowDenied s.me 0 1 false = false ∧ s.rowDenied s.me 0 0 true = false
      ∧ (1 ≠ s.curRow ∧ s.isContext 0 1 = true ∧ s.isContext 0 2 = false)
      ∧ (atomicOf (.amoAdd (rs 0)) 1 0).isSome = true := by decide

end Sys2Proof.Tests
end

