-- ==== Sys2Proof/Tests/WitnessMachine.lean ====
section
/-! SUPPORT. Witnesses for the statements about completion, clasps, barriers, messages, the row ALU, a supervisor's instructions and
the scheduler. -/

namespace Sys2Proof.Tests

set_option Elab.async false
set_option maxRecDepth 20000

open Sys2Proof Sys2Proof.Machine Sys2Proof.Safety

/-- The state whose device has id 0, so that small addresses are its own, with translations of the first 2 MiB of REGION 00. -/
def homed (s : State) : State :=
  { s with
    fabric := { FabricSt.reset with nodeId := 0 }
    tlb := (List.range 8).map (fun k => { point := k, part := 0, region := 0, page := 0, size := 2 ^ 21, frame := 0, w := true, gen := 0 }) }

/-- A pending operation. -/
def pend (x : PendOp) : Pending := {
  op := x, lah := 0, since := 0, pc := 0x40, len := 2, rregs := [], wregs := [], rrows := [], wrows := [], acquire := false, seq := 1 }

/-- Row 0 with one pending operation. -/
def pends (s : State) (x : PendOp) : State := withCore s (fun y => { y with latches := [latchOf 0 [pend x]] })

/-- The value of an answer that is good. -/
def good {α : Type} (x : Acc α × State) : Option α :=
  match x.1 with
  | .ok v => some v
  | _ => none

/-- The address of byte o of unit u of REGION 10 of this device. -/
def unitVa (u o : Nat) : Nat := 0x3FF * 2 ^ 47 + 2 * 2 ^ 45 + u * 2 ^ 36 + o

/-- Eight words of a command, a record or a call that begins with some. -/
def eight (ws : List Word) : List Word := ws ++ List.replicate (8 - ws.length) 0

/-- A call of entry e. -/
def callOf (ws : List Word) (id : Ident) : Call := { words := eight ws, id := id, abort := false, late := false, run := CallRun.start, ended := none }

/-! ### Completion and acceptance -/

/-- A value; a row-space load of one and of eight bytes, whole and with an error; `ldm`; a load of this device's memory and of one of its
units; one that another device has answered. -/
theorem witness_LoadsComplete :
    let s := openRow []
    let e := leased []
    (((pends s (.value 6 7)).pendingOf 0 0)[0]?).map (fun p => p.op) = some (.value 6 7)
      ∧ (let u := pends s (.load 6 1 true false 0x1FF 0);
        (u.pendingOf 0 0)[0]? = some (pend (.load 6 1 true false 0x1FF 0)) ∧ u.rowSpaceHeld 0 0 1 1 = false ∧ u.poisoned 0x1FF 1 = false)
      ∧ (let u := { pends s (.load 6 8 true false 0x100 0) with poison := [8] };
        (u.pendingOf 0 0)[0]? = some (pend (.load 6 8 true false 0x100 0)) ∧ u.rowSpaceHeld 0 0 1 1 = false ∧ u.poisoned 0x100 8 = true
          ∧ (u.latch? 0 0).map (fun l => l.intent) = some .run)
      ∧ (let u := pends s (.loadMany 8 8 false 0x100);
        (u.pendingOf 0 0)[0]? = some (pend (.loadMany 8 8 false 0x100)) ∧ u.rowSpaceHeld 0 0 1 1 = false ∧ u.poisoned 0x100 64 = false)
      ∧ (let u := homed (pends s (.load 6 8 false true 64 5));
        (u.pendingOf 0 0)[0]? = some (pend (.load 6 8 false true 64 5)) ∧ u.globalHeld 0 0 1 64 8 = false ∧ u.isLocal 64 = true
          ∧ vaRegion 64 ≠ 2 ∧ ((good (u.loadMem (some 0) (u.partid 0) 64 8)).map List.length) = some 8)
      ∧ (let ea := 0x3FF * 2 ^ 47 + 2 * 2 ^ 45 + 0x200;
        let u := pends s (.load 6 8 false true ea 0);
        u.globalHeld 0 0 1 ea 8 = false ∧ u.isLocal ea = true ∧ vaRegion ea = 2
          ∧ (match u.unitLoad (u.ident 0 0) ea 8 false with | .ok bs => bs.length | _ => 0) = 8)
      ∧ (let m : Msg := {
          mkind := 3, cls := 1, chan := 0, via := 0, id := e.me, addr := 0x800000000000, aux := 0, data := [1, 2], count := none
          ackreq := false, acktag := 0, remote := true, inCore := false, sys := false, seq := 0 };
        let u := { pends e (.load 6 2 false true 0x800000000000 0) with msgs := [m] };
        u.globalHeld 0 0 1 0x800000000000 2 = false ∧ u.isLocal 0x800000000000 = false
          ∧ u.msgs.findIdx? (fun m => m.remote && m.mkind == 3 && m.chan == 0 && m.id.isRow 0 0 && m.addr == 0x800000000000) = some 0
          ∧ u.msgs[0]? = some m ∧ m.aux = 0 ∧ 1 ≤ m.data.length ∧ m.data.length ≤ 8) := by decide

/-- 0 for an answer that is good, 1 for a fault, 2 for one that waits. -/
def answerKind {α : Type} (x : Acc α) : Nat := match x with
  | .ok _ => 0
  | .fault _ => 1
  | .hold => 2

/-- The answer of another device to row 0's access of an address. -/
def answerOf (ea aux : Nat) (bs : List Byte) : Msg := {
  mkind := 3, cls := 1, chan := 0, via := 0, id := (leased []).me, addr := ea, aux := aux, data := bs, count := none
  ackreq := false, acktag := 0, remote := true, inCore := false, sys := false, seq := 0 }

/-- A global access that meets no translation, an error, a unit that refuses it, and another device's refusal; a row that still runs; `launch`
with its word and without; `ldm` of one and of eight registers from memory, from a unit and from another device. -/
theorem witness_LoadsComplete_global :
    let s := homed (pends (openRow []) (.load 6 8 false true 64 5))
    let kindAt (u : State) (ea n : Nat) : Nat := answerKind (u.loadMem (some 0) (u.partid 0) ea n).1
    let unit (o n : Nat) (multi : Bool) : Nat := answerKind (s.unitLoad (s.ident 0 0) (unitVa 0 o) n multi)
    let far := 0x800000000000
    let answered (aux : Nat) (bs : List Byte) : Bool :=
      let u := { s with msgs := [answerOf far aux bs] }
      !u.isLocal far && (u.msgs.findIdx? (fun m => m.remote && m.mkind == 3 && m.chan == 0 && m.id.isRow 0 0 && m.addr == far) == some 0)
    (s.globalHeld 0 0 1 64 8 = false ∧ kindAt s 64 8 = 0 ∧ kindAt { s with tlb := [] } 64 8 = 1 ∧ kindAt { s with poison := [dramKey 0 64 / 32] } 64 8 = 1
        ∧ (s.latch? 0 0).map (fun l => l.intent) = some .run)
      ∧ (unit 0x200 8 false = 0 ∧ unit 0x100000 8 false = 1 ∧ unit 0x200 64 true = 0 ∧ s.isLocal (unitVa 0 0x200) = true ∧ vaRegion (unitVa 0 0x200) = 2)
      ∧ (answered 0 [1] = true ∧ answered 8 [] = true)
      ∧ (∀ n ∈ [1, 8], let u := homed (pends (openRow []) (.loadMany 8 n true 64));
        ((u.pendingOf 0 0)[0]?).map (fun p => p.op) = some (.loadMany 8 n true 64) ∧ u.globalHeld 0 0 1 64 (8 * n) = false ∧ kindAt u 64 (8 * n) = 0)
      ∧ (((pends s (.launch 6 none)).pendingOf 0 0)[0]?).map (fun p => p.op) = some (.launch 6 none)
      ∧ (((pends s (.launch 6 (some 7))).pendingOf 0 0)[0]?).map (fun p => p.op) = some (.launch 6 (some 7)) := by
  refine ⟨⟨?_, ?_, ?_, ?_, ?_⟩, ⟨?_, ?_, ?_, ?_, ?_⟩, ⟨?_, ?_⟩, ?_, ?_, ?_⟩ <;> decide

/-- A pending `lock` of the line at 64, whose grove has some pins, ways of scratch and a TLB entry for the line. -/
def locking (pins : List Pin) (ways quota : Nat) (ps : List Pending) : State :=
  let s := homed (withCore (openRow []) (fun y => { y with latches := [latchOf 0 (pend (.lock 6 64) :: ps)] }))
  { s with
    parts := ⟨[(0, { PartSt.reset with groves := 1, lockquota := quota })]⟩
    groves := ⟨[(0, { GroveSt.reset with ways := ways, pins := pins })]⟩ }

/-- Pins of other lines of the set of the line at 64, in ways 0 to n − 1. -/
def pinsOf (n : Nat) : List Pin := (List.range n).map (fun w => { part := 0, line := 1 + 4096 * (w + 1), way := w })

/-- A `lock` whose byte can be read: of a line that is pinned; at its quota and below it; with one free way and with two; of another
device's line and of a unit's byte. -/
theorem witness_LoadsComplete_lock :
    let line (s : State) : Nat := s.canonVa 64 / 64
    let pinned (s : State) : Prop := ∃ q ∈ (s.grove 0).pins, q.part = 0 ∧ q.line = line s
    let free (s : State) : List Nat := (List.range (16 - (s.grove 0).ways)).filter (fun w =>
      !((s.grove 0).swapHeld && decide (w < 2)) && !(s.grove 0).pins.any (fun q => q.way == w && q.line % 4096 == line s % 4096))
    let spent (s : State) : Prop := (s.part 0).lockquota ≤ ((s.grove 0).pins.filter (fun q => q.part == 0)).length
    let s := locking [] 0 5 []
    ((s.pendingOf 0 0)[0]?).map (fun p => p.op) = some (.lock 6 64) ∧ answerKind (s.loadMem (some 0) 0 64 1).1 = 0 ∧ s.isLocal 64 = true ∧ vaRegion 64 ≠ 2
      ∧ (¬ pinned s ∧ ¬ spent s ∧ 2 ≤ (free s).length)
      ∧ pinned (locking [{ part := 0, line := line s, way := 3 }] 0 5 [])
      ∧ (¬ pinned (locking (pinsOf 5) 0 5 []) ∧ spent (locking (pinsOf 5) 0 5 [])) ∧ ¬ spent (locking (pinsOf 4) 0 5 [])
      ∧ (free (locking (pinsOf 3) 12 5 [])).length = 1 ∧ (free (locking (pinsOf 2) 12 5 [])).length = 2
      ∧ s.isLocal 0x800000000000 = false ∧ vaRegion (unitVa 0 0x200) = 2 := by decide

/-- A way that a pending `gresize` makes scratch; none, while none is pending. -/
theorem witness_LoadsComplete_leaves :
    let s := locking (pinsOf 4) 11 5 [pend (.gresize 7 12)]
    s.wayLeaves 0 (s.lockWayOf 0 1) = true ∧ ∀ w, (locking [] 0 5 []).wayLeaves 0 w = false := by
  refine ⟨?_, fun w => rfl⟩
  have e : (locking (pinsOf 4) 11 5 [pend (.gresize 7 12)]).lockWayOf 0 1 = 4 := by
    unfold State.lockWayOf
    rw [show ((locking (pinsOf 4) 11 5 [pend (.gresize 7 12)]).grove 0).freeWays 1 = [4] from by decide]
    simp only [List.length_singleton, Nat.mod_one]; rfl
  simp only [e]; decide

/-- A pending `gresize` that an earlier one comes before, and one that none does; of 12 ways and of 13; of the ways that it has; with a pin in
the lowest way that leaves, and in the highest that stays; the dirty lines of the ways that leave, resident. -/
theorem witness_LoadsComplete_gresize :
    let s (ways : Nat) (pins : List Pin) (ps : List Pending) : State := { locking pins ways 5 [] with
      cores := ⟨[(0, { CoreSt.reset with latches := [latchOf 0 [pend (.gresize 6 12)]], dlogbase := 256 }), (1, { CoreSt.reset with latches := [latchOf 0 ps] })]⟩ }
    let early (w : Pending) : Bool := decide (w.seq < 1) && (match w.op with | .gresize _ _ => true | _ => false)
    let first (s : State) : Prop := ∀ q, q < 4 → ∀ l ∈ (s.core (4 * 0 + q)).latches, ∀ w ∈ l.pending, early w = false
    let locked (s : State) (n : Nat) : Prop := ∃ q ∈ (s.grove 0).pins, 16 - n ≤ q.way
    ((s 0 [] []).pendingOf 0 0)[0]? = some (pend (.gresize 6 12)) ∧ first (s 0 [] []) ∧ ¬ first (s 0 [] [{ pend (.gresize 6 3) with seq := 0 }])
      ∧ (12 : Word).toNat ≤ 12 ∧ 12 < (13 : Word).toNat ∧ (12 : Word).toNat = ((s 12 [] []).grove 0).ways ∧ (12 : Word).toNat ≠ ((s 0 [] []).grove 0).ways
      ∧ locked (s 0 (pinsOf 5) []) 12 ∧ ¬ locked (s 0 (pinsOf 4) []) 12
      ∧ (let l := { dirtyLine with way := 15 };
        let u := { dirtied (s 0 [] []) with groves := ⟨[(0, { GroveSt.reset with lines := [l] })]⟩ };
        (u.grove 0).lines.filter (fun l => decide (16 - 12 ≤ l.way) && l.dirty) = [l] ∧ Resident u [l] (fun _ => cxlKey 0 64)) := by
  refine ⟨?_, ?_, ?_, ?_, ?_, ?_, ?_, ?_, ?_, ?_, resident_of_one ?_ ?_⟩ <;> decide

theorem witness_AtomicsComplete :
    let s := pends (openRow []) (.atomic (.amoAdd (rs 0)) 0x108 1 0)
    (s.pendingOf 0 0)[0]? = some (pend (.atomic (.amoAdd (rs 0)) 0x108 1 0)) ∧ 0x108 < 2 ^ 20 ∧ 0 ≠ 0x108 / 256 ∧ (rs 0).fn.getLsbD 7 = true
      ∧ s.rowSpaceHeld 0 0 1 (0x108 / 256) = false
      ∧ 8 ≤ 0x108 % 256 ∧ 0x108 % 8 = 0 ∧ s.poisoned 0x108 8 = false := by decide

/-- A pending global `amo.add`: at this device's memory with a translation, without, and with an error; at a unit that takes atomics and one that
refuses; answered by another device with a value and with a cause. -/
theorem witness_AtomicsComplete_global :
    let o := { op with fn := 0x10 }
    let i := Instr.amoAdd o
    let s := homed (pends (openRow []) (.atomic i 64 1 0))
    let kindAt (u : State) (va : Nat) : Nat := match atomicOf i 1 0 with
      | some a => answerKind (u.anyAtomic (u.ident 0 0) va a).1
      | none => 9
    let far := 0x800000000000
    let answered (aux : Nat) (bs : List Byte) : Bool :=
      let u := { s with msgs := [answerOf far aux bs] }
      !u.isLocal far && (u.msgs.findIdx? (fun m => m.remote && m.mkind == 3 && m.chan == 0 && m.id.isRow 0 0 && m.addr == far) == some 0)
    ((s.pendingOf 0 0)[0]?).map (fun p => p.op) = some (.atomic i 64 1 0) ∧ o.fn.getLsbD 7 = false ∧ s.globalHeld 0 0 1 64 8 = false ∧ i ∈ atomicForms o
      ∧ kindAt s 64 = 0 ∧ kindAt { s with tlb := [] } 64 = 1 ∧ kindAt { s with poison := [dramKey 0 64 / 32] } 64 = 1
      ∧ kindAt s (unitVa 0 0x200) = 0 ∧ kindAt s (unitVa 0x1F0 0) = 1 ∧ answered 0 [1, 0, 0, 0, 0, 0, 0, 0] = true ∧ answered 8 [] = true := by
  refine ⟨?_, ?_, ?_, ?_, ?_, ?_, ?_, ?_, ?_, ?_, ?_⟩ <;> decide

/-- An atomic in memory: a place that has a translation and one that has none; an error in its bytes; a log that has room, holds the block already,
and is full; no copy of its line, and a dirty one; the host's page; an `acas` that finds what it compares with, and one that does not. -/
theorem witness_AtomicsComplete_memory :
    let o := { op with fn := 0x10 }
    let s := homed (openRow [])
    let id := s.me
    let full (u : State) : Prop := (u.core 0).filter.contains 0 = false
      ∧ (u.slot 0 (((u.core 0).dlogbase + (u.core 0).dlogPos / 32) % 4096) ((u.core 0).dlogPos % 32)).getLsbD 0 = true
    let logged := { withCore s (fun x => { x with dlogbase := 1 }) with mem := wordsMem [(slotKey 0 0 0, 0x0000103200000040), (slotKey 0 1 0, 1)] }
    let line : SliceLine := { part := 0, line := s.canonVa 64 / 64, dirty := true, key := dramKey 0 64, data := 5, way := 0 }
    let hosted := { s with tlb := [{ point := 12, part := 0, region := 3, page := 0, size := 2 ^ 21, frame := 0, w := true, gen := 0 }] }
    (Instr.amoAdd o ∈ atomicForms o ∧ Instr.famoAdd o ∉ [Instr.amoAdd o, .amoSwap o, .acas o] ∧ vaRegion 64 = 0 ∧ vaRegion (3 * 2 ^ 45) = 3)
      ∧ ((s.translate 0 (s.canonVa 64) true).1 = some (dramKey 0 64) ∧ (({ s with tlb := [] } : State).translate 0 (s.canonVa 64) true).1 = none
        ∧ s.poisoned (dramKey 0 64) 8 = false ∧ ({ s with poison := [dramKey 0 64 / 32] } : State).poisoned (dramKey 0 64) 8 = true
        ∧ dramKey 0 64 % 8 = 0 ∧ (hosted.translate 0 (hosted.canonVa (3 * 2 ^ 45)) true).1.isSome = true)
      ∧ (s.logCore id = 0 ∧ ¬ full s ∧ full logged ∧ ¬ full (withCore logged (fun x => { x with filter := [0] })))
      ∧ ((s.grove 0).lines = [] ∧ id.slice = some 0 ∧ line.home = true ∧ line.key = dramKey 0 64 - dramKey 0 64 % 64 ∧ line.part = id.part)
      ∧ (atomicOf (.acas o) 5 7).map (fun a => a.new 5) = some (some 7) ∧ (atomicOf (.acas o) 6 7).map (fun a => a.new 5) = some none := by
  refine ⟨⟨?_, ?_, ?_, ?_⟩, ⟨?_, ?_, ?_, ?_, ?_, ?_⟩, ⟨?_, ?_, ?_, ?_⟩, ⟨?_, ?_, ?_, ?_, ?_⟩, ?_, ?_⟩ <;> decide

/-- An `acas` that finds what it compares with, and one that does not, on slot 2 of a context row whose stored bits [63:33] are set. -/
theorem witness_AtomicsComplete_acas :
    let o := { op with fn := 0x80 }
    let s := pends { openRow [] with mem := wordsMem [(slotKey 0 0 0, 0x0000103200000040#64), (slotKey 0 1 2, 0xFFFFFFFF00000010#64)] }
      (.atomic (.acas o) 0x110 0x100000010 0)
    let u := withCore s (fun x => { x with ctxmap := ⟨[(0, 3)]⟩ })
    let shown := natOfBytes ((List.range 8).map (fun j => trimmed (u.isContext 0 1) (0x110 % 256 + j) (u.mem.read (0x110 + j))))
    u.isContext 0 1 = true ∧ u.poisoned 0x110 8 = false ∧ BitVec.ofNat 64 shown = 0x100000010#64 ∧ ¬ BitVec.ofNat 64 shown = 0x10#64 := by
  decide

/-- One outstanding store of row 0 to an address. -/
def stored (s : State) (va : Nat) (bs : List Byte) (whole : Bool) : State :=
  { s with stores := [{
      id := s.me, va := va, data := bs, whole := whole, release := false, scope := 0, pc := 0x40, len := 2, seq := 0, age := 0
      sent := false }] }

/-- A state's first store. -/
def firstStore (s : State) (p : StoreReq → Bool) : Bool := s.stores[0]?.any (fun q => s.mayAccept 0 q && p q)

/-- A store to an array: of a foreign partition, barred by a range, and allowed at the last bytes of a row; to memory without a translation,
logged already, with room in the log and with none; to another device. -/
theorem witness_StoreAcceptance :
    let s := openRow []
    let va := unitVa 0 0x2F8
    let barred := withCore s (fun x => { x with rangeA := ⟨[(0, 0x0FFF0000)]⟩, rangeB := ⟨[(0, 1)]⟩ })
    let full := withCore s (fun x => { x with dlogbase := 1 })
    vaRegion va = 2 ∧ vaUnit va < 256 ∧ vaOff va < 2 ^ 20 ∧ 8 ≤ vaOff va % 256
      ∧ firstStore (stored s va [1, 2, 3, 4, 5, 6, 7, 8] false) (fun q => (stored s va [] false).classOf q == .plain) = true
      ∧ (s.me.part ≠ s.partid 4 ∨ s.me.part = s.partid 0) ∧ (s.part (s.partid 0)).shut 0 = false ∧ s.absent 0 = false
      ∧ s.asleep 0 = false ∧ barred.rowDenied barred.me 0 2 true = true ∧ s.rowDenied s.me 0 2 true = false ∧ s.partlyPoisoned 0x2F8 8 = false
      ∧ s.rowBusy 0 2 = false ∧ (withCore s (fun x => { x with latches := x.latches ++ [latchOf 2 []] })).rowBusy 0 2 = true
      ∧ s.me.slice = some 0 ∧ (Ident.supervisor 0).slice = none ∧ ((homed s).grove 0).lines = []
      ∧ (s.latch? 0 0).map (fun l => l.intent) = some .run
      ∧ firstStore (stored (leased []) 64 [1] false) (fun q => (leased []).classOf q == .plain) = true
      ∧ (leased []).translate 0 (s.canonVa 64) true = (none, leased [])
      ∧ ((homed s).translate 0 ((homed s).canonVa 64) true).1 = some (dramKey 0 64) ∧ (homed s).partlyPoisoned (dramKey 0 64) 1 = false
      ∧ (s.core 0).filter.contains (64 / 2 ^ 16) = false
      ∧ ((withCore s (fun x => { x with filter := [0] })).core 0).filter.contains (64 / 2 ^ 16) = true
      ∧ ((s.grove 0).fillWay 0 1).isSome = true ∧ (({ GroveSt.reset with ways := 14, swapHeld := true } : GroveSt).fillWay 0 1).isSome = false
      ∧ (s.slot 0 256 0).getLsbD 0 = false
      ∧ (({ full with mem := wordsMem [(slotKey 0 1 0, 1)] } : State).slot 0 1 0).getLsbD 0 = true
      ∧ firstStore (stored (leased []) 0x800000000000 [1] false) (fun q => (leased []).classOf q == .remote && !q.sent) = true := by
  decide

/-- A store of the host's to a row of core 0, whose partition is not the store's. -/
theorem witness_StoreAcceptance_foreign : (Ident.supervisor 1).part ≠ (openRow []).partid 0 := by decide

/-! ### Clasps, tags, guards, core registers and barriers -/

/-- A timed clasp with a full table; one whose deadline has passed, with an entry and without one; an arming that EXPECT alone decides,
with COUNT one below it and equal to it. -/
theorem witness_ClaspArm :
    let s := openRow [(1, 5)]
    let mine (e : WaitEntry) : Bool := e.row == 0 && e.on == .timedClasp
    let has := withCore s (fun x => { x with waits := [{ row := 0, on := .timedClasp, met := false }] })
    ({ op with a := 4 } : Operands).a ≠ 0 ∧ ((waitsFull s).core 0).waits.any mine = false ∧ 64 ≤ ((waitsFull s).core 0).waits.length
      ∧ (has.core 0).waits.any mine = true ∧ (s.core 0).waits.length < 64
      ∧ ¬ (6 ≤ bitsAt (s.reg 1) 0 16) ∧ 5 ≤ bitsAt (s.reg 1) 0 16 ∧ deadlinePassed s.time 0 = true
      ∧ deadlinePassed s.time 1 = false ∧ s.rowState 0 0 = 2 := by decide

/-- No tag of the mask, and the last tag alone. -/
theorem witness_TagsAndGuards :
    let s := withCore (openRow []) (fun x => { x with tags := 1#64 <<< 63 })
    let m := BitVec.allOnes 64
    ((openRow []).core 0).tags &&& m = 0 ∧ ((s.core 0).tags &&& m).getLsbD 63 = true
      ∧ (∀ j, j < 63 → ((s.core 0).tags &&& m).getLsbD j = false) := by decide

/-- User and supervisor mode, the reserved indexes at their ends, and the ends of the ranges of LATMAX, QUANTUM, AGELIM, a mailbox, a
context map that leaves the READY rows, a range, CODEBASE and DLOGBASE, and values one past them. -/
theorem witness_CoreRegisters :
    let s := openRow []
    let sup := { s with mem := wordsMem [(slotKey 0 0 0, 0x000010B200000040#64)] }
    let k (n : BitVec 22) : Nat := ({ op with imm22 := n } : Operands).imm22.toNat % 1024
    let mbx (v : Word) : Prop := v &&& ~~~0x0FFF0FFF#64 = 0 ∧ bitsAt v 16 12 ≠ 1 ∧ bitsAt v 0 12 + bitsAt v 16 12 ≤ 4096
    ctlMode (s.ctl 0 s.curRow) = false ∧ ctlMode (sup.ctl 0 sup.curRow) = true
      ∧ (0x010 ≤ k 0x010 ∧ k 0x0FF < 0x100 ∧ 0x163 ≤ k 0x163 ∧ 0x100 ≤ k 0x100 ∧ k 0x162 < 0x163)
      ∧ k 0x00F = 0x00F ∧ k 0x13F = 0x100 + 63 ∧ k 0x14F = 0x140 + 15 ∧ k 0x15F = 0x150 + 15 ∧ k 0x161 = 0x161
      ∧ (1 ≤ (1 : Nat) ∧ (8 : Nat) ≤ 8 ∧ ¬ (1 ≤ (0 : Nat) ∧ (0 : Nat) ≤ 8) ∧ ¬ (1 ≤ (9 : Nat) ∧ (9 : Nat) ≤ 8))
      ∧ (mbx 0x0FFF0001 ∧ mbx 0 ∧ ¬ mbx 0x00010000 ∧ ¬ mbx 0x0FFF0002)
      ∧ (∀ b, b < 64 → ((s.core 0).ctxmap.get 0 0).getLsbD b = (1 : Word).getLsbD b ∨ s.rowState 0 (64 * 0 + b) = 0)
      ∧ ¬ (∀ b, b < 64 → ((s.core 0).ctxmap.get 0 0).getLsbD b = (2 : Word).getLsbD b
        ∨ s.rowState 0 (64 * 0 + b) = 0 ∨ s.rowState 0 (64 * 0 + b) = 4 ∨ s.rowState 0 (64 * 0 + b) = 5)
      ∧ (0x0FFF0FFF#64 &&& ~~~0x0FFF0FFF#64 = 0 ∧ bitsAt 0x0FFF0FFF 0 12 ≤ bitsAt 0x0FFF0FFF 16 12 ∧ ¬ bitsAt 0x00000001 0 12 ≤ bitsAt 0x00000001 16 12)
      ∧ (0x01FFFFFFFFFFF000#64 &&& ~~~0x01FFFFFFFFFFF000#64 = 0 ∧ ¬ (0x800#64 &&& ~~~0x01FFFFFFFFFFF000#64 = 0))
      ∧ (0xFFF#64 &&& ~~~0xFFF#64 = 0 ∧ ¬ (0x1000#64 &&& ~~~0xFFF#64 = 0)) := by decide

/-- Room in the table, none, an entry whose episode has released and one whose has not, with and without a READY row. -/
theorem witness_BarrierArrivals :
    let s := openRow []
    let mine (e : WaitEntry) : Bool := e.row == 0 && e.on.isBarrier
    let entry (m : Bool) : WaitEntry := { row := 0, on := .barrier 1 0, met := m }
    let has (m : Bool) := withCore s (fun x => { x with waits := [entry m] })
    let ready (u : State) : Bool := !(u.core 0).fifo.all (fun e => u.isShed (ctlClass (u.ctl 0 e.row)))
    RowExists s ∧ ((s.core 0).waits.any mine = true ∨ (s.core 0).waits.length < 64)
      ∧ ¬ (((waitsFull s).core 0).waits.any mine = true ∨ ((waitsFull s).core 0).waits.length < 64)
      ∧ ((has true).core 0).waits.find? mine = some (entry true) ∧ ((has false).core 0).waits.find? mine = some (entry false)
      ∧ (s.core 0).waits.any mine = false
      ∧ ready s = false ∧ ready (withCore s (fun x => { x with fifo := [{ row := 1, age := 0 }] })) = true := by
  unfold RowExists; decide

/-! ### Messages and the dispatcher -/

/-- `send`: allowed to memory under a lease and to another device's dispatch window, refused without a lease, and refused by its clasp's
address; `post` and `sig` allowed at the last
core and refused by their alignment. -/
theorem witness_MessagesIssue :
    let s := leased []
    let row (o : Nat) : Word := BitVec.ofNat 64 (unitVa 255 o)
    let target (a : Word) := vaRegion a.toNat == 2 && vaUnit a.toNat < 0x100 && vaOff a.toNat < 256
    let far := { s with fabric := { s.fabric with route := ⟨[(1, 0)]⟩ } }
    let window : Word := BitVec.ofNat 64 (2 ^ 47 + 2 * 2 ^ 45 + 0x1F0 * 2 ^ 36)
    s.messageRefusal 64 (sendTarget 64 64 false) 64 64 true = none
      ∧ (vaRegion window.toNat = 2 ∧ vaUnit window.toNat = 0x1F0 ∧ s.isLocal window.toNat = false
        ∧ far.messageRefusal window (sendTarget window.toNat 64 true) 64 64 true = none)
      ∧ (openRow []).messageRefusal (BitVec.ofNat 64 (0x3FF * 2 ^ 47 + 64)) true 64 64 true = some .lease
      ∧ s.messageRefusal (row 0xFFF00) (claspTarget (row 0xFFF00).toNat) 256 1 false = none
      ∧ s.messageRefusal 64 (claspTarget 64) 256 1 false = some .prot
      ∧ s.messageRefusal (row 0) (target (row 0)) 256 64 false = none ∧ s.messageRefusal (row 8) (target (row 8)) 256 64 false = some .align
      ∧ s.messageRefusal (row 8) (claspTarget (row 8).toNat) 256 1 false = some .align := by decide

/-- Entries 31 and 32 of a core and 63 of a grove; ranges of the greatest and the least size, up to the end of the address space and past it;
a core of the partition, the last core of the package and one past it. -/
theorem witness_ResidencyTables :
    let s := gangState [] 0
    let stray (i : BitVec 22) : Prop := 32 ≤ i.toNat % 64 ∧ i.getLsbD 6 = false
    let bad (base size rows : Word) (grove : Bool) : Prop := base.toNat % 4096 ≠ 0 ∨ 2 ^ 57 ≤ base.toNat ∨ size = 0 ∨ 16383 < size.toNat
      ∨ 2 ^ 24 ≤ rows.toNat ∨ (grove = true ∧ rows ≠ 0) ∨ 2 ^ 57 < base.toNat + 4096 * size.toNat
    ¬ stray 31 ∧ stray 32 ∧ ¬ stray 127 ∧ ¬ bad 0 16383 0xFFFFFF false ∧ ¬ bad 0x1FFFFFFFFFFF000 1 0 true ∧ bad 0x1FFFFFFFFFFF000 2 0 true
      ∧ bad 0 0 0 false ∧ bad 0 16384 0 false ∧ 256 ≤ (256 : Word).toNat ∧ (255 : Word).toNat < 256
      ∧ s.inPart (s.partid 0) 3 = true ∧ s.inPart (s.partid 0) 255 = false ∧ (s.latch? 0 0).isSome = true := by decide

/-- `rowpool`: bad, of another partition, leaving, rows that do not fit, 256 rows and one more; `launch`: misaligned, refused, with an error,
with a full queue and with room. -/
theorem witness_LaunchAndPools :
    let s := gangState [] 0
    let idle := withCore s (fun x => { x with ctxmap := ⟨[(0, 0xFFFFFFFFFFFFFFFF)]⟩, latches := [latchOf 0 []] })
    let rowsOf (first count : Nat) : List Nat := (List.range count).map (fun j => first + j)
    let hdr : Hdr := { words := [], id := s.me, path := .window }
    let many := { s with parts := ⟨[(0, { PartSt.reset with groves := 1, hdrs := List.replicate 64 hdr })]⟩ }
    (256 ≤ (256 : Nat) ∧ ¬ (256 ≤ (0 : Nat) ∨ bitsAt (0x00020 + 2 ^ 12 * 2) 21 11 ≠ 0 ∨ bitsAt (0x20 + 2 ^ 12 * 2) 33 31 ≠ 0))
      ∧ s.inPart (s.partid 0) 0 = true ∧ s.inPart (s.partid 0) 4 = false ∧ 0xF00 + 256 ≤ 4096 ∧ (0x100000000 : Word).getLsbD 32 = true
      ∧ (∀ r ∈ rowsOf 1 63, idle.isContext 0 r = true ∧ idle.rowState 0 r = 0)
      ∧ ¬ (idle.isContext 0 0 = true ∧ idle.rowState 0 0 = 0)
      ∧ ¬ 256 < ((idle.core 0).pool ++ (rowsOf 1 63).map (fun r => ({ row := r, lent := false, leaving := false } : PoolRow))).length
      ∧ 256 < (List.replicate 200 ({ row := 70, lent := false, leaving := false } : PoolRow)
        ++ (rowsOf 1 63).map (fun r => ({ row := r, lent := false, leaving := false } : PoolRow))).length
      ∧ (32 : Nat) % 64 ≠ 0 ∧ s.rowRefusal s.me 0x100000 false = some .prot ∧ s.rowRefusal s.me 0x2C0 false = none
      ∧ ({ s with poison := [0x2C0 / 32] }).poisoned 0x2C0 64 = true ∧ s.poisoned 0x2C0 64 = false
      ∧ 64 ≤ (many.part 0).hdrs.length ∧ (s.part 0).hdrs.length < 64 ∧ (s.latch? 0 0).isSome = true := by decide +kernel

/-! ### The row ALU -/

/-- Operands whose rows the row may use, and one that names a context row. -/
theorem witness_RowAluIssue :
    let s := openRow [(4, 40), (5, 41), (6, 42), (7, 1)]
    let i := Instr.radd { op with d := 4, a := 5, b := 6 }
    let j := Instr.radd { op with d := 7, a := 5, b := 6 }
    let barred (r : Nat) (w : Bool) : Prop := s.rowDenied s.me s.curCore r w = true ∨ s.isContext s.curCore r = true
    (s.latch? s.curCore s.curRow).isSome = true ∧ (∀ x ∈ (usesOf i s).rrows, ¬ barred x.1 false) ∧ (∀ x ∈ (usesOf i s).wrows, ¬ barred x.1 true)
      ∧ (∃ x ∈ (usesOf j s).wrows, barred x.1 true) := by decide

/-- A pending form on rows 41 and 42 without errors, with every lane and with one. -/
theorem witness_RowAluResults :
    let x : PendOp := .rowAlu (.radd { op with d := 4, a := 5, b := 6 }) 40 41 42 0 []
    let p := { pend x with rrows := [41, 42], wrows := [40] }
    let s := withCore (openRow []) (fun y => { y with latches := [latchOf 0 [p]] })
    (s.pendingOf 0 0)[0]? = some p ∧ p.op = x ∧ s.aluHeld 0 0 p.seq = false ∧ (∀ r ∈ p.rrows, s.poisoned (0 * 2 ^ 20 + r * 256) 256 = false)
      ∧ (64 : Nat) ≤ 64 ∧ (1 : Nat) ≤ 64 ∧ (128 : Nat) = 2 * 64 := by decide

/-- The worked example of R200: 128 BF16 lanes of row 17 go to part 0 of row 30, with their scale bytes in row 40; blocks with numbers, of
zeros alone, and with a NaN. -/
theorem witness_RowAluResults_quant :
    let x : PendOp := .rowAlu (.rqnt { op with d := 9, a := 5, b := 6, c := 1, fn := 2 }) 30 17 40 0 []
    let p := { pend x with rrows := [17], wrows := [30, 40] }
    let s := withCore (openRow []) (fun y => { y with latches := [latchOf 0 [p]] })
    let v (c : Nat) : Val := decodeTy 1 c
    (s.pendingOf 0 0)[0]? = some p ∧ s.aluHeld 0 0 p.seq = false ∧ (∀ r ∈ p.rrows, s.poisoned (0 * 2 ^ 20 + r * 256) 256 = false)
      ∧ (128 : Nat) ≤ 256 ∧ (128 : Nat) % 32 = 0 ∧ (30 : Nat) ≠ 40
      ∧ (v 0x7FC0).special = true ∧ (v 0x42C8).special = false ∧ (v 0x42C8).log2 = some 6 ∧ (v 0xC040).log2 = some 1
      ∧ (v 0).log2 = none := by decide

/-! ### A supervisor's instructions -/

/-- A gang that has come to rest: number 2, without rows; gang 1, whose row runs; the same while the `gstop` of row 0 waits
for gang 2, and for every other gang. -/
theorem witness_GangStopAndResume :
    let s := gangState [] 0
    let wait (g : Option Nat) : StopWait := { row := 0, rows := 3, todo := [], gang := g }
    let waits (g : Option Nat) := withCore s (fun x => { x with gstops := [wait g] })
    let w3 := { s with mem := wordsMem [(slotKey 0 0 0, 0x0000103200000040#64), (slotKey 0 1 0, 0x0000223300000040#64)] }
    let stopped := { w3 with gangs := ⟨[(2, { GangSt.reset with swap := true })]⟩ }
    RowExists s ∧ 4096 ≤ (4096 : Word).toNat ∧ (1 : Nat) = ctlGang (s.ctl 0 0) ∧ (2 : Nat) ≠ ctlGang (s.ctl 0 0) ∧ (4095 : Word).toNat < 4096
      ∧ (s.core 0).gstops.find? (fun e => e.row == 0) = none
      ∧ (∀ g ∈ [some 1, some 2, none], ((waits g).core 0).gstops.find? (fun e => e.row == 0) = some (wait g))
      ∧ (s.setMark 0 2 .sup).gangAtRest 0 2 = true ∧ (waits (some 2)).gangAtRest 0 2 = true ∧ (waits (some 1)).gangAtRest 0 1 = false
      ∧ (s.setMark 0 1 .sup).gangAtRest 0 1 = false
      ∧ (w3.members 0 2 = [(0, 1)] ∧ w3.rowState 0 1 = 3 ∧ (w3.gang 0 2).stopped = false ∧ (stopped.gang 0 2).stopped = true) := by
  unfold RowExists; decide

/-- Row 0 of gang 1 runs, or stalls in `gbar`; row 1 is of another gang; the gang is not stopped, or stopped by another mark. -/
theorem witness_GangStopAndResume_mark :
    let s := gangState [] 0
    (0, 0) ∈ s.members 0 1 ∧ s.rowState 0 0 = 2 ∧ (s.latch? 0 0).map (fun l => l.intent) = some .run
      ∧ ((turned .stalled s).latch? 0 0).map (fun l => l.intent) = some .stalled ∧ (0, 1) ∉ s.members 0 1 ∧ (s.gang 0 1).stopped = false
      ∧ (({ s with gangs := ⟨[(1, { GangSt.reset with swap := true })]⟩ } : State).gang 0 1).stopped = true := by decide

/-- Words of a lease record at byte 4096 of the first page. -/
def leaseState (ws : List (Nat × Word)) (old : Option (List LRange)) : State :=
  let s := homed (gangState [] 0)
  { s with
    mem := wordsMem (rowWords 0 [(0, 0x0000103200000040#64)] ++ [(dramKey 0 64, 0x10003)] ++ ws.map (fun e => (dramKey 0 (512 + 8 * e.1), e.2)))
    gangs := ⟨[(1, { GangSt.reset with lease := old })]⟩ }

/-- A gang number past the last, a revocation in progress, an address past the VA, a record of 17 ranges, an empty one that takes nothing
away, and one that takes a right away. -/
theorem witness_LeaseInstruction :
    let none_ := leaseState [] none
    let bad := leaseState [(0, 17)] none
    let old : List LRange := [{ base := 0, bytes := 4096, wr := false }]
    let takes := leaseState [] (some old)
    let busy := { none_ with gangs := ⟨[(1, { GangSt.reset with revoking := some { ranges := [], after := [], target := .none, id := none_.me } })]⟩ }
    ¬ ((4096 : Word).toNat < 4096) ∧ ((1 : Word).toNat < 4096 ∧ (4096 : Word).toNat % 8 = 0) ∧ (busy.gang 0 1).revoking.isSome = true
      ∧ (none_.gang 0 1).revoking.isSome = false ∧ 2 ^ 57 ≤ (0x200000000000000 : Word).toNat ∧ none_.isLocal 4096 = true ∧ vaRegion 4096 = 0
      ∧ none_.isLocal (4096 + 5 * 2 ^ 47) = false ∧ none_.isLocal (4096 + 2 ^ 45) = true ∧ vaRegion (4096 + 2 ^ 45) ≠ 0
      ∧ (good (bad.memAt 0 4096 272)).map (fun bs => leaseBad (wordsOf bs)) = some true
      ∧ (good (none_.memAt 0 4096 272)).map (fun bs => leaseBad (wordsOf bs)) = some false
      ∧ (good ((none_.memAt 0 4096 272).2.setLeasePtr 0 1 4096)).isSome = true ∧ (none_.gang 0 1).lease.getD [] = []
      ∧ (good ((takes.memAt 0 4096 272).2.setLeasePtr 0 1 4096)).isSome = true
      ∧ (good (takes.memAt 0 4096 272)).map (fun bs => leaseRanges (wordsOf bs)) = some []
      ∧ (takes.gang 0 1).lease = some old ∧ (∃ l ∈ old, l.base ≤ 4095 ∧ 4095 < l.base + l.bytes)
      ∧ ¬ (∃ l ∈ ([] : List LRange), l.base ≤ 4095 ∧ 4095 < l.base + l.bytes) := by decide

/-- A record that can be read, one that has an error, and one of another device, that is not reachable and that is. -/
theorem witness_LeaseInstruction_read :
    let s := leaseState [] none
    let far := { s with
      mem := wordsMem [(slotKey 0 0 0, 0x000010B200000040#64)]
      fabric := { s.fabric with route := ⟨[(5, 0)]⟩ } }
    let ask (x : Acc (List Byte) × State) : Nat := match x.1 with
      | .ok _ => 0
      | .fault _ => 1
      | .hold => 2
    ask (s.readRecord 4096) = 0 ∧ ask (({ s with poison := [dramKey 0 512 / 32] } : State).readRecord 4096) = 1
      ∧ s.unreachable (4096 + 5 * 2 ^ 47) = true ∧ far.unreachable (4096 + 5 * 2 ^ 47) = false ∧ vaRegion (4096 + 5 * 2 ^ 47) = 0
      ∧ ask (far.readRecord (4096 + 5 * 2 ^ 47)) = 2 := by decide

/-- The greatest start address and one past it; operating points 7 and 8; services 0, 1 with 63 and with 64, 2 and 3. -/
theorem witness_TranslationsAndPower :
    (0x1FFFFFFFFFFFFFF : Word).toNat < 2 ^ 57 ∧ 2 ^ 57 ≤ (0x200000000000000 : Word).toNat ∧ (7 : Word).toNat < 8 ∧ 8 ≤ (8 : Word).toNat ∧ (63 : Word).toNat < 64 ∧ 64 ≤ (64 : Word).toNat
      ∧ ({ op with imm22 := 3 } : Operands).imm22.toNat % 256 = 3 := by decide

/-- No translation held, and page tables of REGION 00 at bytes 4096, 8192 and 12288 of stack 0, whose first entries are given. -/
def tables (es : List Word) : State :=
  let s := openRow []
  { s with
    mem := wordsMem ((slotKey 0 0 0, 0x0000103200000040#64) :: (List.range 3).map (fun k => (dramKey 0 (4096 * (k + 1)), es.getD k 0)))
    parts := ⟨[(0, { PartSt.reset with groves := 1, root00 := 0x1000 })]⟩ }

/-- The entries of a walk of byte 64: a table and a page of 2 MiB; two tables and a page of 64 KiB, whose A is set and clear; at each level
one that is not VALID, one with a reserved bit at either end of its ranges, one with an error, a page at the first level and no page at the
third, and a frame that is not aligned; a translation that is held, for reads alone. -/
theorem witness_TranslationsAndPower_walk :
    let va := 64
    let entry (s : State) (k : Nat) : Word := word (natOfBytes (s.homeRead k 8))
    let slot (e : Word) (i : Nat) : Nat := dramKey (bitsAt e 45 3) (bitsAt e 12 33 * 4096 + 8 * i)
    let k1 (s : State) : Nat := slot (s.part 0).root00 (va / 2 ^ 33 % 4096)
    let k2 (s : State) : Nat := slot (entry s (k1 s)) (va / 2 ^ 21 % 4096)
    let k3 (s : State) : Nat := slot (entry s (k2 s)) (va / 2 ^ 16 % 32)
    let valid (e : Word) : Prop := bitAt e 0 = true ∧ bitsAt e 6 6 = 0 ∧ bitsAt e 48 16 = 0
    let leaf (e : Word) : Prop := bitAt e 2 = true
    let s := tables [0x2001, 0x3001, 0x1000D]
    let big := tables [0x2001, 0x20000F]
    let sick (k : Nat) : State := { s with poison := [k / 32] }
    (k1 s = dramKey 0 4096 ∧ k2 s = dramKey 0 8192 ∧ k3 s = dramKey 0 12288 ∧ entry s (k1 s) = 0x2001 ∧ entry s (k2 s) = 0x3001 ∧ entry s (k3 s) = 0x1000D
        ∧ entry big (k2 big) = 0x20000F)
      ∧ (valid 0x2001 ∧ ¬ leaf 0x2001 ∧ ¬ valid 0x2000 ∧ ¬ valid 0x2041 ∧ ¬ valid 0x2801 ∧ valid 0x800000002001 ∧ ¬ valid 0x1000000002001 ∧ leaf 0x2005)
      ∧ (leaf 0x20000F ∧ bitsAt 0x20000F 12 9 = 0 ∧ bitsAt 0x20100F 12 9 ≠ 0 ∧ bitAt 0x20000F 1 = true)
      ∧ (leaf 0x1000D ∧ bitsAt 0x1000D 12 4 = 0 ∧ bitsAt 0x1100D 12 4 ≠ 0 ∧ bitAt 0x1000D 1 = false ∧ bitAt 0x1000D 3 = true ∧ bitAt 0x10005 3 = false)
      ∧ (∀ k ∈ [k1 s, k2 s, k3 s], s.poisoned k 8 = false ∧ (sick k).poisoned k 8 = true)
      ∧ s.tlb = []
      ∧ (((homed s).tlb.find? (fun e => e.point == va / 256 % 8 && e.part == 0 && e.region == 0 && e.page == va % 2 ^ 45 / e.size)).map (fun e => e.w) = some true) := by
  refine ⟨⟨?_, ?_, ?_, ?_, ?_, ?_, ?_⟩, ⟨?_, ?_, ?_, ?_, ?_, ?_, ?_, ?_⟩, ⟨?_, ?_, ?_, ?_⟩, ⟨?_, ?_, ?_, ?_, ?_, ?_⟩, ?_, ?_, ?_⟩ <;> decide

/-- A state whose core 0 has its log in rows 1 to 16, empty, and one with its first half full. -/
def logState : State := withCore (gangState [] 0) (fun x => { x with dlogbase := 1 })
def logFull : State := { logState with mem := ⟨(List.range 256).map (fun j => (slotKey 0 1 0 + 8 * j, 1))⟩ }
/-- VALID of entry j of a half. -/
def logEntry (u : State) (half j : Nat) : Bool := (u.slot 0 ((1 + (256 * half + j) / 32) % 4096) ((256 * half + j) % 32)).getLsbD 0

theorem witness_DirtyLogs : (List.range 256).all (fun j => !logEntry logState 1 j) = true := by decide +kernel
/-- The cell of entry j among those of entries m to m + n − 1. -/
theorem find_map (b : Nat) : ∀ (n m j : Nat), m ≤ j → j < m + n →
    ((List.range' m n).map (fun i => ((b + 8 * i, 1) : Host.Cell))).find? (fun e => e.1 == b + 8 * j) = some (b + 8 * j, 1) := by
  intro n
  induction n with
  | zero => intro m j h h'; omega
  | succ n ih =>
    intro m j h h'
    rw [List.range'_succ, List.map_cons, List.find?_cons]
    by_cases e : m = j
    · subst e; simp
    · have : (b + 8 * m == b + 8 * j) = false := by simp; omega
      rw [this]; exact ih (m + 1) j (by omega) (by omega)
seal Memory.loadNat in
theorem witness_DirtyLogs_full : ∀ j, j < 256 → logEntry logFull 0 j = true := by
  intro j hj
  unfold logEntry State.slot
  have k : slotKey 0 ((1 + (256 * 0 + j) / 32) % 4096) ((256 * 0 + j) % 32) = slotKey 0 1 0 + 8 * j := by
    unfold slotKey rowKey arrayKey; omega
  rw [k]
  have r : logFull.mem.read (slotKey 0 1 0 + 8 * j) = 1 := by
    unfold Memory.read logFull
    rw [List.range_eq_range']
    simp only [find_map _ 256 0 j (by omega) (by omega)]
  have : ∀ n, (logFull.mem.loadNat (n + 1) (slotKey 0 1 0 + 8 * j)) % 2 = 1 := by
    intro n; rw [show logFull.mem.loadNat (n + 1) (slotKey 0 1 0 + 8 * j) = _ from by unfold Memory.loadNat; rfl, r]; simp; omega
  have := this 7
  simp only [word, BitVec.getLsbD_ofNat, Nat.testBit_zero]
  simpa using this
theorem witness_DirtyLogs_harvest : (logState.coresOf 0).all (fun k => k != 0 || !logState.isLogRow 0 0) = true ∧ logState.curRow < 4096 := by
  decide +kernel

/-! ### The scheduler -/

/-- A core whose grove sleeps, and one whose does not. -/
theorem witness_Scheduling_asleep :
    ({ openRow [] with groves := ⟨[(0, { GroveSt.reset with idle := 1 })]⟩ } : State).asleep 0 = true ∧ (openRow []).asleep 0 = false := by
  decide

/-- Two READY rows of which the first is first; no READY row; no free latch; a row at its quantum, with and without an equal READY row;
one that has an ENGINE trap to take, and one that stalls in `gstop`. -/
theorem witness_Scheduling :
    let s := withCore (openRow []) (fun x => { x with fifo := [{ row := 1, age := 0 }, { row := 2, age := 5 }] })
    let due := withCore s (fun x => { x with latches := [{ latchOf 0 [] with count := 256 }] })
    let full := withCore s (fun x => { x with latmax := 1 })
    let trap := withCore due (fun x => { x with engTraps := [(0, 1)] })
    let eff (x : CoreSt) (e : FifoEntry) : Nat := if x.agelim ≤ e.age then 0 else ctlClass (s.ctl 0 e.row)
    ((s.core 0).fifo = [] ++ { row := 1, age := 0 } :: [{ row := 2, age := 5 }] ∧ s.isShed (ctlClass (s.ctl 0 1)) = false
        ∧ eff (s.core 0) { row := 1, age := 0 } ≤ eff (s.core 0) { row := 2, age := 5 })
      ∧ (s.core 0).latches.length < (s.core 0).latmax ∧ s.absent 0 = false ∧ s.poisoned (rowKey 0 1 0) 256 = false
      ∧ (∀ e ∈ ((openRow []).core 0).fifo, (openRow []).isShed (ctlClass ((openRow []).ctl 0 e.row)) = true)
      ∧ (full.core 0).latmax ≤ (full.core 0).latches.length
      ∧ ((due.latch? 0 0).map (fun l => (l.intent, decide (256 ≤ l.count))) = some (.run, true) ∧ due.trapDue 0 0 = false ∧ due.stallsNow 0 0 = false
        ∧ ∃ e ∈ (due.core 0).fifo, eff (due.core 0) e ≤ ctlClass (due.ctl 0 0))
      ∧ trap.trapDue 0 0 = true ∧ (s.latch? 0 0).any (fun l => decide (l.count < (s.core 0).quantum)) = true := by decide

/-- A row that closes into each state, with its gang stopped and not, with its wait met and not. -/
theorem witness_RowsClose :
    let at_ (s : State) (d : CloseTo) : State := withCore s (fun x => { x with latches := [{ latchOf 0 [] with intent := .close d }] })
    let s := gangState [(1, 0x100000000)] 0
    let stopped := { s with gangs := ⟨[(1, { GangSt.reset with sup := true })]⟩ }
    let met := withCore s (fun x => { x with waits := [{ row := 0, on := .tagsAll 1, met := true }] })
    (∀ d ∈ [CloseTo.ready, .wait 15 0x42, .halt 0x40, .stopped], Drained (at_ s d) 0 0
        ∧ ((at_ s d).latch? 0 0).map (fun l => l.intent) = some (.close d))
      ∧ s.poisoned (rowKey 0 0 0) 256 = false ∧ (s.gang 0 1).stopped = false ∧ (stopped.gang 0 1).stopped = true
      ∧ (!((openRow []).slot 0 0 1).getLsbD 32) = true ∧ (!(s.slot 0 0 1).getLsbD 32) = false
      ∧ (met.core 0).waits.any (fun e => e.row == 0 && e.met && e.on.isWait) = true
      ∧ (s.core 0).waits.any (fun e => e.row == 0 && e.met && e.on.isWait) = false
      ∧ (∀ q ∈ (s.core 0).pool, q.row ≠ 0) ∧ (s.latch? 0 0).map (fun l => l.intent) = some .run := by
  unfold Drained; decide

/-- A control request of row 0 for row 1, or a store into it. -/
def request (off : Nat) (w : Word) (ctl : Bool) (n : Nat) : RowReq :=
  { core := 0, row := 1, off := off, data := bytesOfNat 8 w.toNat, ctl := ctl, id := (openRow []).me, rs := true, seq := n }

/-- Row 1 in a state, with no latch, and one request that names it. -/
def asked (st : Nat) (w : Word) : State :=
  { gangState [] 0 with
    mem := wordsMem [(slotKey 0 0 0, 0x0000103200000040#64), (slotKey 0 1 0, BitVec.ofNat 64 (0x0000103000000040 + st * 2 ^ 32))]
    rowReqs := [request 0 w true 1] }

/-- A row in HALT, READY and FAULT; the OPEN row; a store above slot 0; a request that an earlier one of its path comes before, and one
that an older access of its row holds. -/
theorem witness_RequestsAndStores :
    let word (st : Nat) : Word := BitVec.ofNat 64 (0x0000103000000040 + st * 2 ^ 32)
    let same (s : State) (r : Nat) (w : Word) : Prop :=
      ctlClass w = ctlClass (s.ctl 0 r) ∧ ctlMode w = ctlMode (s.ctl 0 r) ∧ ctlGang w = ctlGang (s.ctl 0 r)
    (∀ e ∈ [(4, 1), (1, 4), (5, 4)], let s := asked e.1 (word e.2);
        s.rowReqs[0]? = some (request 0 (word e.2) true 1) ∧ s.latch? 0 1 = none ∧ s.rowState 0 1 = e.1 ∧ ctlState (word e.2) = e.2
          ∧ s.arrived (request 0 (word e.2) true 1) = true ∧ same s 1 (word e.2)
          ∧ (∀ q ∈ (s.core 0).pool, q.row ≠ 1) ∧ (∀ x ∈ (s.core 0).engTraps, x.1 ≠ 1))
      ∧ (let s := gangState [] 0;
        s.rowState 0 0 = 2 ∧ (s.latch? 0 0).map (fun l => l.intent) = some .run ∧ same s 0 (word 1) ∧ same s 0 (word 4))
      ∧ (asked 4 (word 1)).me.mode = false ∧ (8 : Nat) ≤ 8
      ∧ (request 8 1 false 1).alongside (request 0 (word 1) true 2) = true
      ∧ (let p : Pending := { pend (.load 6 8 true false 0x300 0) with seq := 0 };
        (withCore (gangState [] 0) (fun y => { y with latches := [latchOf 0 [p]] })).arrived (request 0 (word 1) true 1) = false) := by
  decide

theorem witness_RequestsAndStores_fault : RecordsDropped (asked 5 0x0000103400000040) 0 :=
  recordsDropped_of (low := 0) (by decide) (by decide) (by decide)

/-- One arrival of n at the clasp of row 1, whose `cl` is given, while row 1 waits for its clasp. -/
def arrived (cl : Word) (n : Nat) : State :=
  let s := gangState [] 0
  { s with
    mem := wordsMem [(slotKey 0 0 0, 0x0000103200000040#64), (slotKey 0 1 0, 0x0000113300000040#64), (slotKey 0 1 1, cl)]
    arrivals := [{ core := 0, row := 1, n := n, id := s.me, sys := false }] }

/-- An arrival that leaves COUNT one short, one that fires, one that saturates COUNT, one that reaches 65535; a deadline that has passed and one
that has not; a time that has come and one that has not. -/
theorem witness_ClaspsAndWakes :
    let s := arrived 0x100020001 1
    let t := arrived 0x100020000 1
    let timed := arrived 0x300010001 1
    let late : State := { s with time := 5 }
    (s.arrivals[0]? = some { core := 0, row := 1, n := 1, id := (gangState [] 0).me, sys := false } ∧ s.asleep 0 = false
        ∧ s.undeliverable (gangState [] 0).me 0 1 = none ∧ (s.undeliverable (gangState [] 0).me 0 100).isSome = true ∧ (∀ a ∈ s.arrivals.take 0, a.core = 0 → a.row ≠ 1))
      ∧ (bitAt (s.slot 0 1 1) 32 = true ∧ bitsAt (s.slot 0 1 1) 16 16 ≤ bitsAt (s.slot 0 1 1) 0 16 + 1 ∧ bitAt (s.slot 0 1 1) 33 = false)
      ∧ ¬ bitsAt (t.slot 0 1 1) 16 16 ≤ bitsAt (t.slot 0 1 1) 0 16 + 1
      ∧ s.rowState 0 1 = 3 ∧ ctlWait (s.ctl 0 1) = 1
      ∧ (bitsAt ((arrived 0xFFFE 1).slot 0 1 1) 0 16 + 1 ≤ 65535 ∧ 65535 < bitsAt ((arrived 0xFFFF 1).slot 0 1 1) 0 16 + 1
        ∧ bitAt ((arrived 0xFFFF 1).slot 0 1 1) 32 = false)
      ∧ (bitAt (timed.slot 0 1 1) 32 = true ∧ bitAt (timed.slot 0 1 1) 33 = true
        ∧ bitsAt (timed.slot 0 1 1) 16 16 ≤ bitsAt (timed.slot 0 1 1) 0 16 ∧ deadlinePassed timed.time (bitsAt (timed.slot 0 1 1) 35 29) = true)
      ∧ deadlinePassed s.time 1 = false ∧ (5 : Word) ≤ late.time ∧ ¬ (5 : Word) ≤ s.time := by decide

/-- A fire that consumes an arrival of system scope, of this step and of an earlier one; an arrival that may not be delivered, whose
partition drops its record. -/
theorem witness_ClaspsAndWakes_scope :
    let s := arrived 0x100020001 1
    (0 : Nat) ∈ ((withCore s (fun x => { x with sysClasps := [0] })).core 0).sysClasps ∧ 1 ∉ (s.core 0).sysClasps
      ∧ PartDrops s (gangState [] 0).me.part := by
  refine ⟨by decide, by decide, by decide, 0, by decide, by decide⟩

/-- Row 1, in a state, waits for tags 0 and 63, or for one of them, while tag 0 is set: the setting of tag 63 meets both waits, that of tag 1 the
second alone; tag 0 was set by an acknowledgement. -/
theorem witness_ClaspsAndWakes_tags :
    let m : Word := 0x8000000000000001
    let s (st : Nat) (on : WaitOn) : State :=
      withCore { gangState [] 0 with mem := wordsMem [(slotKey 0 0 0, 0x0000103200000040#64), (slotKey 0 1 0, BitVec.ofNat 64 (0x0000123000000040 + st * 2 ^ 32))] }
        (fun x => { x with tags := 1, sysTags := 1, waits := [{ row := 1, on := on, met := false }] })
    let tags (k : Nat) : Word := ((s 3 (.tagsAll m)).core 0).tags ||| 1#64 <<< k
    (tags 63 &&& m = m) ∧ ¬ (tags 1 &&& m = m) ∧ tags 1 &&& m ≠ 0 ∧ ((s 3 (.tagsAll m)).core 0).sysTags &&& m ≠ 0
      ∧ (∀ st ∈ [2, 3, 7], ∀ on ∈ [WaitOn.tagsAll m, .tagsAny m],
        (s st on).rowState 0 1 = st ∧ ((s st on).core 0).waits = [{ row := 1, on := on, met := false }]) := by
  refine ⟨?_, ?_, ?_, ?_, ?_⟩ <;> decide

/-- A timed clasp of a row in CTXMAP, whose core is there. -/
theorem witness_ClaspsAndWakes_deadline :
    let s := arrived 0x300010001 1
    s.isContext 0 1 = true ∧ s.swappedOut 0 = false ∧ s.absent 0 = false ∧ bitsAt (s.slot 0 1 1) 16 16 ≤ bitsAt (s.slot 0 1 1) 0 16 := by decide

theorem witness_ClaspsAndWakes_saturated : RecordsDropped (arrived 0xFFFF 1) 0 := recordsDropped_of (low := 0) (by decide) (by decide) (by decide)

/-- An episode that is due, while its class is shed and while it is not; one that is not due; a gang whose class has left SHED while it was
stopped, or had a held release, for shedding; a held descriptor with enough arrivals, and without;
a revocation whose members are quiet, with each target, and one whose are not. -/
theorem witness_ReleasesAndRevocations :
    let s := gangState [] 0
    let ep : Episode := { number := 0, t := 0, held := false }
    let due (e : Episode) : Bool := !e.held && decide (e.t ≤ s.time.toNat)
    let with_ (x : GangSt) : State := { s with gangs := ⟨[(1, x)]⟩ }
    let rev (t : Target) : State := { openRow [] with
      gangs := ⟨[(9, { GangSt.reset with revoking := some { ranges := [], after := [], target := t, id := s.me } })]⟩ }
    ((with_ { GangSt.reset with due := [ep] }).gang 0 1).due.find? due = some ep ∧ ((s.gang 0 1).due.find? due).isNone = true
      ∧ (s.gangClass 0 1 = some 3 ∧ s.isShed 3 = false ∧ ({ s with power := { PowerSt.reset with shed := 8 } }).isShed 3 = true)
      ∧ (s.leftShed 0 1 = false ∧ ∀ x ∈ [{ GangSt.reset with shed := true }, { GangSt.reset with due := [{ ep with held := true }] }],
        (with_ x).leftShed 0 1 = true ∧ (with_ x).leftShed 0 2 = false ∧ ((with_ x).descriptor 0 1).1.isSome = true)
      ∧ (s.gang 0 1).heldDesc = false ∧ (let u := with_ { GangSt.reset with heldDesc := true, arrivals := 2 };
        (u.gang 0 1).heldDesc = true ∧ (u.descriptor 0 1).1.any (fun d => decide (d.members < 2)) = true
          ∧ (u.descriptor 0 1).1.any (fun d => decide (1 ≤ d.members)) = true)
      ∧ (s.part 0).saved = none ∧ s.tagOpen (openRow []).me 0 = true
      ∧ (∀ t ∈ [Target.none, .tag 0 63], let u := rev t;
        ((u.gang 0 9).revoking.map (fun v => v.target)) = some t ∧ u.membersQuiet 0 9 = true ∧ u.oldWork 0 9 = false)
      ∧ s.membersQuiet 0 1 = false := by decide

/-- A call of the gang that has not begun and reads a byte that its lease lost, and one that has begun. -/
theorem witness_ReleasesAndRevocations_late :
    let lost : LRange := { base := 0, bytes := 2 ^ 57, wr := true }
    let s : State := { homed (openRow []) with
      gangs := ⟨[(1, { GangSt.reset with
        lease := some [lost]
        revoking := some { ranges := [lost], after := [], target := .none, id := (openRow []).me } })]⟩ }
    let q : Call := callOf [3, 64, 1, 0, 65534] s.me
    let late (q : Call) : Bool := q.id.inGang 0 1 && !q.abort && q.run == CallRun.start && q.ended.isNone && s.callTouches 0 q
    late q = true ∧ late { q with run := { CallRun.start with done := 1 } } = false := by decide

/-- A row that drains to enter a trap, and a request for it, to go on and to halt. -/
theorem witness_RequestsAndStores_trap :
    let y : TrapInfo := { cause := .align, pc := 0x40, code := 0, deferred := true, len := 2 }
    let s := turned (.trap y) (gangState [] 0x200)
    let word (st : Nat) : Word := BitVec.ofNat 64 (0x0000103000000080 + st * 2 ^ 32)
    (s.latch? 0 0).map (fun l => l.intent) = some (.trap y) ∧ s.rowState 0 0 = 2 ∧ ctlState (word 1) = 1 ∧ ctlState (word 4) = 4
      ∧ (∀ st ∈ [1, 4], ctlClass (word st) = ctlClass (s.ctl 0 0) ∧ ctlMode (word st) = ctlMode (s.ctl 0 0) ∧ ctlGang (word st) = ctlGang (s.ctl 0 0)) := by
  decide

end Sys2Proof.Tests
end

