-- ==== Sys2Proof/Tests/WitnessEngines.lean ====
section
/-! SUPPORT. Witnesses for the statements about the matrix unit, the copy channels, the stacks and the windows that reach them. -/

namespace Sys2Proof.Tests

set_option Elab.async false
set_option maxRecDepth 20000

open Sys2Proof Sys2Proof.Machine Sys2Proof.Safety

/-- Row 0 of core 0 open in gang 1, whose lease grants everything, in partition 0, which owns grove 0; memory words beside its own. -/
def engine (ws : List (Nat × Word)) : State :=
  let s := homed (gangState [] 0)
  { s with
    mem := wordsMem ((slotKey 0 0 0, 0x0000103200000040#64) :: ws)
    gangs := ⟨[(1, { GangSt.reset with lease := some [{ base := 0, bytes := 2 ^ 57, wr := true }] })]⟩ }

/-! ### The matrix unit -/

/-- A state with a matrix unit. -/
def withMx (s : State) (f : MatrixSt → MatrixSt) : State := withCore s (fun x => { x with mx := f x.mx })

/-- A command of row 0. -/
def cmdOf (ws : List Word) : MxCmd := {
  words := eight ws, id := (engine []).me, begun := false, started := false, injFrom := 0, idx := 0, run := 0, fault := none }

/-- A queue with k commands. -/
def queueOf (k : Nat) : State := withMx (engine []) (fun m => { m with queue := List.replicate k (cmdOf [6]) })

theorem withCore_core (s : State) (f : CoreSt → CoreSt) : (withCore s f).core 0 = f (s.core 0) := rfl

theorem queueOf_length (k : Nat) : ((queueOf k).core 0).mx.queue.length = k := by
  simp only [queueOf, withMx, withCore_core, List.length_replicate]

/-- Words that RESUME or FLUSH begins. -/
def controls (ws : List Word) : Bool :=
  bitsAt (ws.getD 0 0) 0 8 == 6 && (bitsAt (ws.getD 0 0) 20 2 == 1 || bitsAt (ws.getD 0 0) 20 2 == 2)

/-- Words that are RESUME or FLUSH and nothing else. -/
def plainly (ws : List Word) : Bool :=
  ws.getD 0 0 == BitVec.ofNat 64 (6 + bitsAt (ws.getD 0 0) 20 2 * 2 ^ 20) && (ws.drop 1).all (· == 0)

/-- The window's address; RESUME plain and with another bit. -/
theorem witness_MatrixCommandStores :
    let o := { op with d := 8, fn := 7, imm22 := 0x100000 }
    (o.fn.toNat % 16 = 7 ∧ ((engine []).reg o.ra + o.imm).toNat = 0x100000)
      ∧ controls (eight [6]) = false ∧ controls (eight [0x100006]) = true ∧ controls (eight [0x200006]) = true
      ∧ plainly (eight [0x100006]) = true ∧ plainly (eight [0x100106]) = false
      ∧ (0x100038 % 2 ^ 3 = 0 ∧ 0x100000 ≤ 0x100038 ∧ 0x100038 < 0x100040) := by decide

/-- A queue with room and one that is full. -/
theorem witness_MatrixCommandStores_room : ((queueOf 31).core 0).mx.queue.length < 32 ∧ 32 ≤ ((queueOf 32).core 0).mx.queue.length := by
  simp only [queueOf_length]; decide

/-- Row 0 in a stopped gang, and while the watchdog ends it. -/
def halted : State := { engine [] with gangs := ⟨[(1, { GangSt.reset with sup := true })]⟩ }
def ended : State := trapped .wdog (engine [])

/-- FLUSH of a queue whose commands signal nothing, tag 63, and a clasp, in a unit that is halted and in one that is not, where one that
has begun stays. -/
theorem witness_MatrixCommandStores_flush :
    let q := { cmdOf [0x1006] with begun := true }
    let tagged := cmdOf [0x0FD006]
    let out (m : MatrixSt) : List MxCmd := m.queue.filter (fun d => m.halt || !d.begun)
    let unit (h : Bool) (qs : List MxCmd) : State := withMx (engine []) (fun m => { m with halt := h, queue := qs })
    bitsAt (wordAt (eight [0x200006]) 0) 20 2 = 2 ∧ out ((unit true [q, tagged]).core 0).mx = [q, tagged]
      ∧ out ((unit false [q, tagged]).core 0).mx = [tagged] ∧ bitsAt (wordAt tagged.words 0) 12 2 = 1 ∧ bitsAt (wordAt tagged.words 0) 14 6 = 63
      ∧ (engine []).tagOpen tagged.id 0 = true ∧ bitsAt (wordAt (cmdOf [6]).words 0) 12 2 = 0 ∧ bitsAt (wordAt (cmdOf [0x2006]).words 0) 12 2 = 2
      ∧ ((unit true []).core 0).mx.frozen = false ∧ ((unit true []).core 0).mx.controls = [] := by
  decide

/-- A row whose gang is stopped, one that the watchdog has ended, and neither; a control command that has still to act, while the unit is
frozen and while it is not. -/
theorem witness_MatrixCommandStores_rows :
    (halted.idStopped halted.me = true ∧ halted.idEnded halted.me = false) ∧ ended.idEnded ended.me = true
      ∧ ((engine []).idStopped (engine []).me = false ∧ (engine []).idEnded (engine []).me = false)
      ∧ (∀ b, ((withMx (engine []) (fun m => { m with controls := [2], frozen := b })).core 0).mx.controls ≠ []
        ∧ ((withMx (engine []) (fun m => { m with controls := [2], frozen := b })).core 0).mx.frozen = b)
      ∧ bitsAt ((eight [6]).getD 0 0) 12 2 = 0 := by decide

/-- A command of another party through REGION 10. -/
theorem witness_MatrixCommandStores_device :
    firstStore (stored (engine []) (unitVa 0 0x100000) (bytesOfWords (eight [6])) true) (fun q =>
      q.data.length == 64 && q.whole && vaOff q.va == 0x100000 && q.id.node == 0x3FF && vaUnit q.va == 0) = true := by decide

/-- A target that is valid, none, and one that is not; an MSYNC that has begun. -/
theorem witness_MatrixQueueSteps_targets :
    let sync := { cmdOf [4] with begun := true }
    (mxTarget 0 (eight [0x1106])).isSome = true ∧ (mxTarget 0 (eight [0x106])).isSome = true ∧ (mxTarget 0 (eight [0x3106])).isNone = true
      ∧ bitsAt 0x3106 12 2 ≠ 0 ∧ mxRsvd (eight [0x3106]) = true
      ∧ sync.begun = true ∧ ((withMx (engine []) (fun m => { m with queue := [sync] })).core 0).mx.queue = [sync] := by decide

/-- MNOP and MSYNC with each guard; MSYNC with and without a C write on its way; a stray bit; RESUME and FLUSH at the head of the
controls; a frozen unit. -/
theorem witness_MatrixQueueSteps :
    let s := engine []
    let unit (w0 : Word) : State := withMx s (fun m => { m with queue := [cmdOf [w0]] })
    let guard (s : State) (slot : Nat) : Nat := if slot = 0 then 1 else bitsAt (s.core 0).guards (2 * slot) 2
    let guards := withCore s (fun x => { x with guards := 8 })
    let cw : CWrite := {
      row := 40, m := 0, acc := false, sums := [], id := s.me, run := 0, target := .none, last := false, cc := 0 }
    (((unit 6).core 0).mx.queue = [cmdOf [6]] ∧ (cmdOf [6]).begun = false ∧ ((unit 6).core 0).mx.frozen = false ∧ ((unit 6).core 0).mx.halt = false)
      ∧ bitsAt 6 0 8 = 6 ∧ bitsAt 4 0 8 = 4 ∧ guard s 0 = 1 ∧ guard s 1 = 0 ∧ guard guards 1 = 2
      ∧ mxRsvd (eight [6]) = false ∧ mxRsvd (eight [4]) = false ∧ mxRsvd (eight [6, 1]) = true ∧ bitsAt 6 12 2 = 0
      ∧ bitsAt 0x1106 8 4 = 1 ∧ bitsAt 0x1106 12 2 = 1
      ∧ ([cw] ≠ [] ∧ (s.core 0).mx.pipe = [])
      ∧ (s.me.host = false ∧ s.isContext s.me.core s.me.row = true ∧ s.rowState s.me.core s.me.row = 2)
      ∧ ((withMx s (fun m => { m with controls := [1] })).core 0).mx.controls.head? = some 1
      ∧ ((withMx s (fun m => { m with controls := [2] })).core 0).mx.controls.head? = some 2
      ∧ ((withMx s (fun m => { m with frozen := true })).core 0).mx.frozen = true
      ∧ s.tagOpen s.me 0 = true
      ∧ (let late := withMx s (fun m => { m with headFrom := 1 }); ¬ (late.core 0).mx.headFrom ≤ (late.grove 0).cc)
      ∧ (let held := withMx s (fun m => { m with controls := [2] }); ¬ (held.core 0).mx.controls = []) := by decide

/-- The dense BF16 set of R216 in rows 64 to 127, whose rows the party may read. -/
theorem witness_MatrixWholeCommands :
    let s := engine []
    let ws := (List.range 64).map (fun i => (64 + i) % 4096)
    mxRsvd (eight [0x100001, 0x1040]) = false ∧ mxSetOk (bitsAt 0x100001 20 4) (bitAt 0x100001 26) (128 * 2 ^ bitsAt 0x100001 24 2) = true
      ∧ (∀ r ∈ ws, s.isContext 0 r = false ∧ s.rowDenied s.me 0 r false = false ∧ s.poisoned (rowKey 0 r 0) 256 = false)
      ∧ mxRsvd (eight [0x1100001, 0x1040]) = false
      ∧ mxSetOk (bitsAt 0x1100001 20 4) (bitAt 0x1100001 26) (128 * 2 ^ bitsAt 0x1100001 24 2) = false
      ∧ mxRsvd (eight [3, 0x1028, 1]) = false ∧ mxRsvd (eight [3, 0x1000, 4096]) = false ∧ mxRsvd (eight [3, 0x1028, 0]) = false := by decide

/-- A sparse set of E4M3 with K 256 takes 8 metadata rows, each of whose nibbles names two places in ascending order. -/
theorem witness_MatrixWholeCommands_sparse :
    mxSetOk 2 true 256 = true
      ∧ (List.range 512).all (fun i => !nibbleBad (List.replicate 8 (BitVec.ofNat 2048 (4 * ((2 ^ 2048 - 1) / 15)))) i) = true := by
  decide +kernel

/-- MZERO of one row that the party may write, and of all 4096 rows by a supervisor whose core has no context rows. -/
theorem witness_MatrixWholeCommands_zero :
    let s := engine []
    s.isContext 0 40 = false ∧ s.rowDenied s.me 0 40 true = false ∧ (s.core 0).mx.pipe = []
      ∧ (List.range 4096).all (fun i => !State.reset.isContext 0 i && !State.reset.rowDenied (Ident.supervisor 0) 0 i true) = true := by
  decide +kernel

/-- MZERO of rows 40 and 41, of which the party may write the first alone; no ENGINE trap of its row is pending. -/
theorem witness_MatrixWholeCommands_stray :
    let s := withCore (engine []) (fun x => { x with rangeA := ⟨[(0, 0x00290029)]⟩, rangeB := ⟨[(0, 3)]⟩ })
    mxRsvd (eight [3, 0x1028, 2]) = false ∧ s.rowDenied s.me 0 40 true = false ∧ s.rowDenied s.me 0 41 true = true
      ∧ s.isContext 0 40 = false ∧ s.isContext 0 41 = false ∧ (∀ e ∈ (s.core 0).engTraps, e.1 ≠ 0) := by decide

/-- An MRUN and an MFILL of one and of 4096 injections; a valid set of the format's depth; a TIMED start that lies ahead and one that has
come; a granted injection that meets no fault. -/
theorem witness_MatrixRuns :
    let s := engine []
    let set (m : MatrixSt) : MatrixSt := { m with wvalid := true, wfmt := 1 }
    let q : MxCmd := { cmdOf [0x100002, 0x28001029, 2] with begun := true, started := true }
    let runs := { withMx s (fun m => { set m with queue := [q] }) with groves := ⟨[(0, { GroveSt.reset with slewAt := some 0, allowance := 1 })]⟩ }
    (mxRsvd (eight [0x100002, 0, 1]) = false ∧ mxRsvd (eight [0x100002, 0, 4096]) = false ∧ mxRsvd (eight [5, 0, 4096]) = false)
      ∧ (set (s.core 0).mx).wvalid = true ∧ some 128 = some (set (s.core 0).mx).depthP ∧ (s.core 0).mx.wvalid = false
      ∧ mxRsvd (eight [0x4100002, 0, 1, 1]) = false ∧ bitAt 0x4100002 26 = true ∧ ¬ ((1 : Word) ≤ s.time) ∧ (0 : Word) ≤ s.time
      ∧ (q.begun = true ∧ q.started = true ∧ q.idx < 2 ∧ runs.granted 0 = true ∧ runs.injFault 0 q ((runs.core 0).mx.injRows q) = none)
      ∧ (mxTarget 0 q.words).isSome = true ∧ q.fault = none
      ∧ s.granted 0 = false := by decide

/-- A C write 160 cycles after its injection, that adds to a row without errors, and that signals nothing or tag 63; a step boundary that has not
been taken. -/
theorem witness_MatrixResultsAndSlew :
    let s := { engine [] with groves := ⟨[(0, { GroveSt.reset with cc := 160 })]⟩ }
    let w : CWrite := {
      row := 4095, m := 0, acc := true, sums := [], id := s.me, run := 0, target := .none, last := true, cc := 0 }
    let u := withMx s (fun m => { m with pipe := [w] })
    (u.core 0).mx.pipe = w :: [] ∧ (u.core 0).mx.frozen = false ∧ w.cc + 160 ≤ (u.grove (0 / 4)).cc
      ∧ s.poisoned (rowKey 0 w.row 0) 256 = false ∧ w.target = .none ∧ (u.core 0).mx.queue = [] ∧ w.row < 4096
      ∧ (u.core 0).mx.controls = [] ∧ { w with target := .tag 0 63 }.target = .tag 0 63 ∧ w.last = true ∧ s.tagOpen w.id 0 = true
      ∧ (s.core 0).mx.pipe = [] ∧ (s.grove 0).cc % 4 = 0 ∧ (s.grove 0).slewAt ≠ some (s.grove 0).cc
      ∧ ({ GroveSt.reset with cc := 161 } : GroveSt).cc % 4 ≠ 0 := by decide

/-! ### Copy channels -/

/-- HEAD of channel 3 with a chain, STOP and 0; a call to stack 7 with 255 and 256 calls before it; the ends of the operand buffers; a
header of partition 0 with 63 and 64 before it. -/
theorem witness_UnitStores :
    let s := engine []
    let st (u o : Nat) (bs : List Byte) (w : Bool) : State := stored s (unitVa u o) bs w
    let is (t : State) (u o : Nat) : Bool := firstStore t (fun q => vaNode q.va == 0x3FF && vaRegion q.va == 2 && vaUnit q.va == u && vaOff q.va == o
      && q.id.node == 0x3FF)
    let chain : Word := 0x8000000000000200
    let ch (n : Nat) : State := withCore s (fun x => { x with chans := ⟨[(3, { Chan.reset with st := n })]⟩ })
    is (st 0 0x1001C0 (bytesOfNat 8 chain.toNat) false) 0 (0x100100 + 0x40 * 3) = true
      ∧ (s.me.part = s.partid 0 ∧ (s.part (s.partid 0)).shut 0 = false ∧ s.absent 0 = false ∧ s.asleep 0 = false)
      ∧ (chain ≠ 0 ∧ chain ≠ 0x4000000000000000#64 ∧ copyMalformed chain = false ∧ chain.toNat % 64 = 0)
      ∧ ((∀ n ∈ [0, 1, 2, 3], ((ch n).core 0).chan 3 = { Chan.reset with st := n }) ∧ (s.latch? 0 0).map (fun l => l.intent) = some .run)
      ∧ is (st 0x187 0 (bytesOfWords (eight [3])) true) 0x187 0 = true
      ∧ (callBad (eight [63]) = false ∧ s.entryStart 7 64 = 0xFF)
      ∧ (let b := { s with stackSts := ⟨[(7, { StackSt.reset with actbank := true })]⟩ };
        callBad (eight [3]) = false ∧ b.entryStart 7 3 ≠ 0xFF ∧ bitsAt (wordAt (eight [3]) 0) 0 8 ≤ 6)
      ∧ ((List.replicate 255 (callOf [3] s.me)).length < 256 ∧ 256 ≤ (List.replicate 256 (callOf [3] s.me)).length)
      ∧ (is (st 0x180 0x1FFF8 (bytesOfNat 8 1) false) 0x180 0x1FFF8 = true ∧ 0x1FFF8 + 8 ≤ 0x20000)
      ∧ is (st 0x1F0 0 (bytesOfWords (eight [])) true) 0x1F0 0 = true ∧ (s.part 0).saved = none
      ∧ (let p := { s with stackSts := ⟨[(7, { StackSt.reset with pendswap := true })]⟩ }; (p.stack 7).pendswap = true) := by decide

/-- A channel that runs at a record in row 2, with its words. -/
def copying (rec : List Word) (ws : List (Nat × Word)) : State :=
  let s := engine (((List.range 8).map (fun k => (arrayKey 0 512 + 8 * k, wordAt rec k))) ++ ws)
  withCore s (fun x => { x with chans := ⟨[(0, { Chan.reset with current := 0x8000000000000200, st := 1, id := s.me })]⟩ })

/-- The checks of `RowOpen`, for a read and for a write. -/
def rowOpens (s : State) (id : Ident) (c q : Nat) : Bool := !s.isContext c q && !s.absent c && !s.rowDenied id.supIf c q false
  && !s.rowDenied id.supIf c q true && !s.poisoned (rowKey c q 0) 256

theorem rowOpen_of {s : State} {id : Ident} {c q : Nat} {wr : Bool}
    (h : rowOpens s id c q = true) : RowOpen s id c q wr := by
  simp only [rowOpens, Bool.and_eq_true, Bool.not_eq_true'] at h
  exact ⟨h.1.1.1.1, h.1.1.1.2, by cases wr; exacts [h.1.1.2, h.1.2], h.2⟩

theorem namesRowByte_of {a : Word} {off : Nat} (h : (bitAt a 63 && bitsAt a 20 43 == 0 && bitsAt a 0 20 == off) = true) : NamesRowByte a off := by
  simpa [NamesRowByte, and_assoc] using h

/-- A record that is there, with a guard that is PEND, FALSE and TRUE; no OWN; no KIND; pending stops; a record with an error. -/
theorem witness_CopyRecords :
    let s := copying [0x11] []
    let x := (s.core 0).chan 0
    let guards (w : Word) (slot : Nat) : Nat := if slot = 0 then 1 else bitsAt w (2 * slot) 2
    let sick := { s with poison := [16] }
    (x.st = 1 ∧ x.record = [] ∧ x.begun = false ∧ x.done = 0 ∧ x.ahead = [] ∧ x.ended = none ∧ x.stopReq = false ∧ x.gangStop = false ∧ x.revoked = false)
      ∧ (NamesRowByte x.current 512 ∧ 512 % 64 = 0 ∧ RowOpen s x.id 0 (512 / 256) true)
      ∧ (bitAt 0x11 4 = true ∧ bitsAt 0x11 0 4 = 1 ∧ bitAt 0x1 4 = false ∧ bitsAt 0x15 0 4 ∉ [1, 2, 3, 4, 6, 7] ∧ bitsAt 0x15 10 2 = 0)
      ∧ (guards 0 (bitsAt 0x51 6 4) = 0 ∧ guards 8 (bitsAt 0x51 6 4) = 2 ∧ guards 0 (bitsAt 0x11 6 4) = 1 ∧ recEndsBad (eight [0x51]) = false)
      ∧ (x.id.host = false ∧ x.id.row < 4096 ∧ s.isContext x.id.core x.id.row = true ∧ s.rowState x.id.core x.id.row = 2)
      ∧ (s.isContext 0 (512 / 256) = false ∧ s.rowDenied x.id.supIf 0 (512 / 256) false = false ∧ s.absent 0 = false
        ∧ sick.poisoned (arrayKey 0 512) 64 = true ∧ 512 + 64 ≤ 2 ^ 20) := by
  refine ⟨?_, ⟨namesRowByte_of ?_, ?_, rowOpen_of ?_⟩, ?_, ?_, ?_, ?_⟩ <;> decide

theorem bytesOpen_of {s : State} {id : Ident} {c off n : Nat} {wr : Bool} (hn : off + n ≤ 2 ^ 20)
    (h : (List.range ((off + n - 1) / 256 + 1)).all (fun q => decide (q < off / 256) || rowOpens s id c q) = true) :
    BytesOpen s id c off n wr := by
  refine ⟨hn, fun q h1 h2 => rowOpen_of ?_⟩
  have := List.all_eq_true.mp h q (List.mem_range.mpr (by omega))
  simpa [show ¬ q < off / 256 by omega] using this

/-- LINEAR: eight bytes from row 3 to the end of row 4. -/
theorem witness_CopyEffects_linear :
    let s := copying [0x11, 0, 0x8000000000000300, 0x80000000000004F8, 8] []
    let id := ((s.core 0).chan 0).id
    let ws := wordsOf (s.mem.loadBytes 64 (arrayKey 0 512))
    (bitsAt (wordAt ws 0) 0 24 = 1 + 16 ∧ wordAt ws 6 = 0 ∧ wordAt ws 7 = 0 ∧ copyMalformed (wordAt ws 1) = false ∧ (wordAt ws 1).toNat % 64 = 0)
      ∧ NamesRowByte (wordAt ws 2) 0x300 ∧ NamesRowByte (wordAt ws 3) 0x4F8 ∧ wordAt ws 4 = BitVec.ofNat 64 8 ∧ wordAt ws 5 = 0
      ∧ Apart 0x300 8 0x4F8 8 ∧ Apart 0x4F8 8 512 64 ∧ BytesOpen s id 0 0x300 8 false ∧ BytesOpen s id 0 0x4F8 8 true := by
  refine ⟨?_, namesRowByte_of ?_, namesRowByte_of ?_, ?_, ?_, Or.inl ?_, Or.inr ?_, bytesOpen_of ?_ ?_, bytesOpen_of ?_ ?_⟩ <;> decide

/-- TENSOR: a layout record at row 3 whose window is one element of one line, in bounds, and one that is out of bounds with FILL 1. -/
theorem witness_CopyEffects_tensor :
    let layout (org : Word) : List (Nat × Word) := [(arrayKey 0 0x300, 0x0000000700001015), (arrayKey 0 0x308, 0x1000), (arrayKey 0 0x310, 4),
      (arrayKey 0 0x338, 1 + org * 4096), (arrayKey 0 0x350, 5)]
    let s (org : Word) := copying [0x12, 0, 0x8000000000000300] (layout org)
    let l (org : Word) := layoutOf (wordsOf ((s org).mem.loadBytes 96 (arrayKey 0 0x300)))
    let ok (org : Word) (f : Layout → Bool) : Bool := match l org with
      | .ok x => f x
      | .error _ => false
    let party := (s 3).chanWork 0 0 false
    NamesRowByte (wordAt (wordsOf ((s 3).mem.loadBytes 64 (arrayKey 0 512))) 2) 0x300 ∧ 0x300 % 32 = 0
      ∧ BytesOpen (s 3) ((s 3).core 0 |>.chan 0).id 0 0x300 96 false ∧ RowOpen (s 4) ((s 4).core 0 |>.chan 0).id 0 5 true
      ∧ ok 3 (fun x => x.lines == 1 && (x.drow + x.rowOff 0) % 4096 == 5 && x.sizeAt 0 == 1 && x.inBounds (x.coords 0 0)
          && (match (s 3).elemRead party x (x.clamp (x.coords 0 0)) with
            | (.ok _, t) => rowOpens t ((s 3).core 0 |>.chan 0).id 0 5 && rowOpens t ((s 3).core 0 |>.chan 0).id 0 2
            | (.error _, _) => false)) = true
      ∧ ok 4 (fun x => x.lines == 1 && !x.inBounds (x.coords 0 0) && x.fill == 1) = true := by
  refine ⟨namesRowByte_of ?_, ?_, bytesOpen_of ?_ ?_, rowOpen_of ?_, ?_, ?_⟩ <;> decide

/-- The words of a GATHER or SCATTER of one item of `isize` bytes between row 4 and a place in row 5, with its index 1 in row 3. -/
def itemWords (k isize w4 bound : Nat) : List Word :=
  [BitVec.ofNat 64 (k + 16), 0, 0x8000000000000500, BitVec.ofNat 64 (3 + 4 * 2 ^ 12 + 2 ^ 24), BitVec.ofNat 64 (64 + isize * 2 ^ 32 + w4), BitVec.ofNat 64 bound]

/-- GATHER and SCATTER of eight bytes, in bounds and at the bound with OOBZ; SCATTER with the combination COP 0 and COP 3. -/
theorem witness_CopyEffects_items :
    let s (k w4 bound : Nat) := copying (itemWords k 8 w4 bound) [(arrayKey 0 0x300, 1)]
    let ws (k w4 bound : Nat) := wordsOf ((s k w4 bound).mem.loadBytes 64 (arrayKey 0 512))
    let q (k w4 bound : Nat) := itemsOf (ws k w4 bound)
    let id := ((s 3 0 0).core 0 |>.chan 0).id
    let v := (s 3 0 0).mem.loadNat 4 (arrayKey 0 0x300)
    (itemsCheck (ws 3 0 0) false = none ∧ itemsCheck (ws 4 0 0) true = none ∧ (q 3 0 0).base.rs = true ∧ (q 3 0 0).n = 1)
      ∧ v = 1 ∧ ¬ ((q 3 0 0).bound ≠ 0 ∧ (q 3 0 0).bound ≤ v) ∧ ¬ ((q 3 0 2).bound ≠ 0 ∧ (q 3 0 2).bound ≤ v)
      ∧ ((q 3 (2 ^ 48) 1).bound ≠ 0 ∧ (q 3 (2 ^ 48) 1).bound ≤ v ∧ (q 3 (2 ^ 48) 1).oobz = true ∧ itemsCheck (ws 3 (2 ^ 48) 1) false = none)
      ∧ (q 3 0 0).base.off + v * (q 3 0 0).pitch = 0x540
      ∧ BytesOpen (s 3 0 0) id 0 0x300 4 false ∧ BytesOpen (s 3 0 0) id 0 0x400 8 true ∧ BytesOpen (s 3 0 0) id 0 0x540 8 true
      ∧ (itemsCheck (ws 4 (2 ^ 49) 0) true = none ∧ (q 4 (2 ^ 49) 0).mode = true ∧ itemsCheck (ws 4 (2 ^ 49 + 3 * 2 ^ 50) 0) true = none
        ∧ (q 4 (2 ^ 49 + 3 * 2 ^ 50) 0).cop = 3 ∧ 0x540 % 8 = 0) := by
  refine ⟨?_, ?_, ?_, ?_, ?_, ?_, bytesOpen_of ?_ ?_, bytesOpen_of ?_ ?_, bytesOpen_of ?_ ?_, ?_⟩ <;> decide

/-- EXPAND: 64 elements of one group of INT4 codes, to row 5. -/
theorem witness_CopyEffects_expand :
    let s := copying [0x16, 0, 64, 5, BitVec.ofNat 64 (1 + 64 * 2 ^ 8 + 34 * 2 ^ 32)] []
    let ws := wordsOf (s.mem.loadBytes 64 (arrayKey 0 512))
    let party := s.chanWork 0 0 false
    let d := decodeStream (fun off n (u : State) => u.workLoad party ((globalAddr 64).plus off) n) 1 34 1 0 1 s
    (bitsAt (wordAt ws 0) 0 24 = 6 + 16 ∧ bitsAt (wordAt ws 3) 12 52 = 0 ∧ bitsAt (wordAt ws 4) 4 4 = 0 ∧ wordAt ws 5 = 0 ∧ (wordAt ws 2).toNat = 64)
      ∧ bitsAt (wordAt ws 4) 0 4 = 1 ∧ vaRegion 64 = 0 ∧ s.isLocal 64 = true ∧ bitsAt (wordAt ws 4) 8 24 = 64 ∧ bitsAt (wordAt ws 4) 32 32 = 34
      ∧ d.groups.map List.length = [64] ∧ d.stop = none ∧ RowOpen d.state ((s.core 0).chan 0).id 0 5 true
      ∧ ∀ wr, RowOpen d.state ((s.core 0).chan 0).id 0 (512 / 256) wr := by
  refine ⟨?_, ?_, ?_, ?_, ?_, ?_, ?_, ?_, rowOpen_of ?_, fun wr => rowOpen_of ?_⟩ <;> decide

/-- REPL: eight bytes of row 3 to the last bytes of the buffers of stack 7, and of every stack. -/
theorem witness_CopyEffects_repl :
    let s (w3 : Nat) := copying [0x17, 0, 0x8000000000000300, BitVec.ofNat 64 (w3 + 0xFFF8 * 2 ^ 16), 8] []
    let ws (w3 : Nat) := wordsOf ((s w3).mem.loadBytes 64 (arrayKey 0 512))
    NamesRowByte (wordAt (ws 7) 2) 0x300 ∧ bitsAt (wordAt (ws 7) 3) 4 12 = 0 ∧ bitsAt (wordAt (ws 7) 3) 32 32 = 0
      ∧ bitsAt (wordAt (ws 7) 4) 17 47 = 0 ∧ wordAt (ws 7) 5 = 0 ∧ bitsAt (wordAt (ws 7) 3) 16 16 + bitsAt (wordAt (ws 7) 4) 0 17 ≤ 65536
      ∧ bitAt (wordAt (ws 7) 3) 3 = false ∧ (bitAt (wordAt (ws 8) 3) 3 = true ∧ bitsAt (wordAt (ws 8) 3) 0 3 = 0)
      ∧ BytesOpen (s 7) ((s 7).core 0 |>.chan 0).id 0 0x300 8 false := by
  refine ⟨namesRowByte_of ?_, ?_, ?_, ?_, ?_, ?_, ?_, ?_, bytesOpen_of ?_ ?_⟩ <;> decide

/-! ### Bank engines -/

/-- Stack 0 in bank B, whose dispatch table gives every entry a start, with one call of row 0. -/
def calling (call : List Word) (ws : List (Nat × Word)) : State :=
  let s := engine ws
  { s with stackSts := ⟨[(0, { StackSt.reset with actbank := true, calls := [callOf call s.me] })]⟩ }

theorem rowServes_of {s : State} {id : Ident} {d r : Nat} (hd : d < numCores) (hr : r < 4096)
    (h : (id.part == s.partid d && !(s.part (s.partid d)).shut 0 && !s.readsRefused id d && !s.absent d && !s.asleep (d / 4)
      && !s.isContext d r && !s.rowBusy d r && !s.rowDenied id d r true && !s.rowDenied id d r false && !s.poisoned (rowKey d r 0) 256) = true) : RowServes s id d r := by
  simp only [Bool.and_eq_true, Bool.not_eq_true', beq_iff_eq] at h
  obtain ⟨⟨⟨⟨⟨⟨⟨⟨⟨h1, h2⟩, h0⟩, h3⟩, h4⟩, h5⟩, h6⟩, h7⟩, h8⟩, h9⟩ := h
  exact ⟨hd, hr, h1, h2, h0, h3, h4, h5, h6, fun wr => by cases wr <;> assumption, h9⟩

/-- GEMV of one output of 64 elements in BF16, to row 5 of core 0, and its accumulating and batched forms. -/
theorem witness_BankEntries_gemv :
    let ws (e : Nat) : List Word := [BitVec.ofNat 64 e, BitVec.ofNat 64 (7 * 2 ^ 57), 1, BitVec.ofNat 64 (64 * 2 ^ 32), 0, 0x500]
    let s (e : Nat) := calling (ws e) []
    let q := callOf (ws 0) (s 0).me
    let a := gemvArgs (eight (ws 0))
    let d := decodeStream (fun off n (u : State) => State.streamRead (callWork 0 q.id false) a.wva 0 [] (n + 1) off n u) a.fmt (2 ^ 60) (a.ks / 64) 0
      (a.ks / 64) (s 0)
    (∀ e ∈ [0, 1, 2], callBad (eight (ws e)) = false ∧ (s e).gemvCheck (eight (ws e)) = none ∧ (s e).entryStart 0 e ≠ 0xFF
        ∧ (s e).callTouches 0 (callOf (ws e) (s e).me) = false ∧ ((s e).stack 0).loaded = false ∧ (callOf (ws e) (s e).me).late = false)
      ∧ a.n = 1 ∧ a.nv = 1 ∧ a.fmt = 7 ∧ d.stop = none ∧ d.state = s 0 ∧ d.groups.map List.length = [64] ∧ RowServes (s 0) q.id 0 5 := by
  refine ⟨?_, ?_, ?_, ?_, ?_, ?_, ?_, rowServes_of ?_ ?_ ?_⟩ <;> decide

/-- AXPY of one element at byte 64, with the last element of the buffers; GATHER-ROWS of one row. -/
theorem witness_BankEntries_axpy :
    let ws : List Word := [3, 64, 1, 0, 65534]
    let s := calling ws []
    let ok (x : Wk Unit) : Bool := match x.1 with
      | .ok _ => true
      | .error _ => false
    let gather : List Word := [4, 0, BitVec.ofNat 64 (1 + 256 * 2 ^ 32), BitVec.ofNat 64 (256 + 2 ^ 32), 65532, 0x500]
    let g := calling gather []
    (callBad (eight ws) = false ∧ s.callTouches 0 (callOf ws s.me) = false ∧ vaRegion 64 = 0 ∧ s.isLocal 64 = true ∧ 64 / 256 % 8 = 0)
      ∧ decide ((s.workRead (callWork 0 s.me false) (globalAddr 64) 4).2 = s) = true ∧ s.pause = none ∧ ok (s.workWrite (callWork 0 s.me false) (globalAddr 64) [0, 0, 0, 0]) = true
      ∧ (callBad (eight gather) = false ∧ g.callTouches 0 (callOf gather g.me) = false ∧ g.mem.loadNat 4 (bufferKey 0 65532) < 1)
      ∧ (match g.workLoad (callWork 0 g.me false) (globalAddr 0) 256 with
        | (.ok bs, t) => decide (bs.length = 256 ∧ t = g)
        | (.error _, _) => false) = true ∧ RowServes g g.me 0 5 := by
  refine ⟨?_, ?_, ?_, ?_, ?_, ?_, rowServes_of ?_ ?_ ?_⟩ <;> decide

/-- EXPAND of one group at stream byte 0, to byte 2048 of REGION 00; REDUCE-MAX of 64 elements on one stack. -/
theorem witness_BankEntries_expand :
    let ws : List Word := [5, BitVec.ofNat 64 (1 * 2 ^ 57), BitVec.ofNat 64 (64 + 34 * 2 ^ 32), 2048]
    let s := calling ws []
    let d := decodeStream (fun off n (v : State) => State.streamRead (callWork 0 s.me false) 0 0 [] (n + 1) off n v) 1 34 1 0 1 s
    let ok (x : Wk Unit) : Bool := match x.1 with
      | .ok _ => true
      | .error _ => false
    let max : List Word := [6, 256, 64, 0, 0, 0x500]
    let m := calling max []
    (callBad (eight ws) = false ∧ s.callTouches 0 (callOf ws s.me) = false ∧ d.stop = none ∧ d.state = s ∧ d.groups.map List.length = [64]
        ∧ ok (s.workStore (callWork 0 s.me false) (globalAddr 2048) (d.groups.flatten.flatMap (fun c => bytesOfNat 2 c))) = true)
      ∧ (callBad (eight max) = false ∧ m.callTouches 0 (callOf max m.me) = false ∧ m.isLocal 256 = true ∧ 256 % 4 = 0)
      ∧ (List.range 64).all (fun i => (256 + 4 * i) / 256 % 8 != 0) = true ∧ RowServes m m.me 0 5 := by
  refine ⟨?_, ?_, ?_, rowServes_of ?_ ?_ ?_⟩ <;> decide

/-- Entry 7, which the table starts at a micro-word that ends with status 5; entry 3 in a bank that was loaded in service; a reserved value; a
call that was stored under a revocation; a call to abort. -/
theorem witness_BankEntries_micro :
    let ws : List Word := [7, 0, 0, 0, 0, 0, 64]
    let s := { calling ws [] with mem := ⟨(calling ws []).mem.cells ++ [(bankKey 0 true 1, 3), (bankKey 0 true 8, 0x28)]⟩ }
    let w := s.microWord 0 (s.entryStart 0 7)
    let ok (x : Wk Unit) : Bool := match x.1 with
      | .ok _ => true
      | .error _ => false
    callBad (eight ws) = false ∧ wordAt (eight ws) 6 ≠ 0 ∧ s.entryStart 0 7 = 0 ∧ microBad w = false ∧ w / 2 ^ 8 % 4 = 3 ∧ w / 2 ^ 67 % 64 = 5
      ∧ (s.stack 0).pendswap = false ∧ s.pause = none
      ∧ w / 2 ^ 14 % 16 ∉ [2, 3] ∧ w / 2 ^ 31 % 16 ≠ 4 ∧ w / 2 ^ 39 % 16 ≤ 1 ∧ w / 2 ^ 73 % 2 = 0 ∧ microBad (2 ^ 79) = true
      ∧ ({ StackSt.reset with actbank := true, imageB := true } : StackSt).loaded = true ∧ (s.stack 0).loaded = false
      ∧ ok (s.workWrite (callWork 0 s.me false) (globalAddr 64) (bytesOfNat 8 (8 + 7 * 2 ^ 8))) = true
      ∧ (let late := { callOf ws s.me with late := true }; late.late = true ∧ late.abort = false ∧ late.run = CallRun.start ∧ late.ended = none)
      ∧ ok (s.workWrite (callWork 0 s.me false) (globalAddr 64) (bytesOfNat 8 (5 + 7 * 2 ^ 8))) = true
      ∧ ({ callOf ws s.me with abort := true } : Call).abort = true := by decide

/-- REDUCE-MAX of one element on its stack, with a NaN and with a number; no start; an abort with and without a status address; a swap. -/
theorem witness_BankEntries_others :
    let max : List Word := [6, 64, 1, 0, 0, 0x500]
    let at_ (v : Word) := calling max [(dramKey 0 64, v)]
    let code (v : Word) : Option (List Byte) := match (at_ v).workRead (callWork 0 (at_ v).me false) (globalAddr 64) 4 with
      | (.ok bs, t) => if t = at_ v then some bs else none
      | (.error _, _) => none
    let ok (x : Wk Unit) : Bool := match x.1 with
      | .ok _ => true
      | .error _ => false
    (64 + 4 * 0) / 256 % 8 = 0 ∧ code 0x7FC00001 = some (bytesOfNat 4 0x7FC00001) ∧ fpNan 0x7FC00001#32 = true ∧ code 0xBF800000 = some (bytesOfNat 4 0xBF800000)
      ∧ fpNan 0xBF800000#32 = false ∧ fpBelow 0xBF800000#32 0xBF800000#32 = false
      ∧ (callBad (eight [64]) = false ∧ (calling [64] []).entryStart 0 64 = 0xFF)
      ∧ (callBad (eight [3, 0, 0, 0, 0, 0, 64]) = false
        ∧ ok ((calling [3] []).workWrite (callWork 0 (calling [3] []).me false) (globalAddr 64) (bytesOfNat 8 (14 + 3 * 2 ^ 8))) = true) := by
  decide

end Sys2Proof.Tests
end

