-- ==== Sys2Proof/Tests/WitnessFabric.lean ====
section
/-! SUPPORT. Witnesses for the statements about the fabric, the registers that the host writes, power, placement, swapping, service and
the machine as a whole. -/

namespace Sys2Proof.Tests

set_option Elab.async false
set_option maxRecDepth 20000

open Sys2Proof Sys2Proof.Machine Sys2Proof.Safety

/-- The cause of an access that faults. -/
def cause {α : Type} (x : Acc α × State) : Option Cause :=
  match x.1 with
  | .fault c => some c
  | _ => none

/-! ### Messages -/

/-- A message of row 0, or of the same row of device 5. -/
def msgOf (kind addr : Nat) (data : List Byte) (there : Bool) : Msg := {
  mkind := kind, cls := 1, chan := 0, via := 0, id := if there then { (engine []).me with node := 5 } else (engine []).me
  addr := addr, aux := 0, data := data, count := none, ackreq := false, acktag := 0, remote := false, inCore := false, sys := false, seq := 0 }

/-- A state to which one message has come; device 5 is admitted as partition 0, or not; row 8 of core 0 heads its ring 1. -/
def inbox (admits : Bool) (m : Msg) : State :=
  let s := withCore (engine []) (fun x => { x with mbx := ⟨[(1, BitVec.ofNat 64 (8 + 2 * 2 ^ 16))]⟩ })
  { s with
    msgs := [m]
    fabric := { s.fabric with admission := ⟨if admits then [(5, 1)] else []⟩ } }

/-- The message of a state has its turn here and is admitted. -/
def received (admits : Bool) (m : Msg) : Bool :=
  let s := inbox admits m
  s.msgs[0]? == some m && !m.remote && s.msgTurn 0 m && s.isLocal m.addr
    && (m.id.node == 0x3FF || bitAt (word (s.fabric.admission.get 0 m.id.node)) 0) && !s.gone m.id m.addr m.seq

/-- A WRITE with a count word and without, a READ with a translation and without one, of this device and of another. -/
theorem witness_FabricMessages_memory :
    (∀ there ∈ [false, true],
      (let m := msgOf 1 0x100 (bytesOfNat 8 7) there
        let s := inbox true m
        let x := s.anyStore m.id m.addr m.data false m.seq
        received true m = true ∧ s.unitOff m.addr = false ∧ s.headerBarred m = false ∧ m.addr % 64 + m.data.length ≤ 64 ∧ s.sendDenied m.id m = none ∧ good x = some ()
          ∧ x.2.dataWaits m.id m.addr = false ∧ vaRegion m.addr % 2 = 0)
        ∧ (let m := msgOf 2 0x100 (bytesOfNat 8 0) there
          received true m = true ∧ (inbox true m).unitOff m.addr = false ∧ (inbox true m).engineBarred m = false
            ∧ good ((inbox true m).anyLoad m.id m.addr 8 false) = some (bytesOfNat 8 0))
        ∧ (let m := { msgOf 2 (2 * 2 ^ 45) (bytesOfNat 8 0) there with cls := 2 }
          received true m = true ∧ (inbox true m).unitOff m.addr = false ∧ (inbox true m).engineBarred m = true)
        ∧ (let m := msgOf 2 0x80000000 (bytesOfNat 8 0) there
          received true m = true ∧ cause ((inbox true m).anyLoad m.id m.addr 8 false) = some .xlate))
      ∧ (let v := BitVec.ofNat 64 (0x3FF + 1 * 2 ^ 30)
        let m := { msgOf 1 0x100 (bytesOfNat 8 7) false with count := some v }
        let s := inbox true m
        let x := s.anyStore m.id m.addr m.data false m.seq
        received true m = true ∧ good x = some () ∧ bitsAt v 0 10 = 0x3FF ∧ bitsAt v 10 8 < 256
          ∧ bitsAt v 18 12 < 4096 ∧ x.2.undeliverable m.id (bitsAt v 10 8) (bitsAt v 18 12) = none) := by decide

/-- A `send` of this device and of another to row 8, to slot 0 of row 1, which has a context, and to slot 0 of a row that the range check
bars, whose partition drops its record. -/
theorem witness_FabricMessages_send :
    let at_ (o : Nat) (there : Bool) : Msg := msgOf 1 (2 * 2 ^ 45 + o) (bytesOfNat 8 0x0000103100000040) there
    let barred (s : State) : State := withCore s (fun x => { x with rangeA := ⟨[(0, 0x0FFF0000)]⟩, rangeB := ⟨[(0, 1)]⟩ })
    let turned (s : State) (m : Msg) : Bool := s.msgs[0]? == some m && s.msgTurn 0 m && s.isLocal m.addr
    (∀ there ∈ [false, true], ∀ o ∈ [0x808, 0x100],
      let m := at_ o there
      let s := inbox true m
      received true m = true ∧ s.unitOff m.addr = false ∧ m.addr % 64 + 8 ≤ 64 ∧ vaRegion m.addr = 2 ∧ vaUnit m.addr < 256
        ∧ vaOff m.addr < 2 ^ 20 ∧ s.asleep 0 = false ∧ (m.id.node = 0x3FF ∨ ({ m with ackreq := true } : Msg).ackreq = true)
        ∧ m.id.part = s.partid 0 ∧ s.rowDenied m.id 0 (o / 256) true = false ∧ s.partlyPoisoned o 8 = false)
      ∧ (vaOff (at_ 0x100 false).addr % 256 < 8 ∧ (inbox true (at_ 0x100 false)).isContext 0 1 = true ∧ ¬ vaOff (at_ 0x808 false).addr % 256 < 8)
      ∧ (let m := at_ 0x100 false
        let s := barred (inbox true m)
        turned s m = true ∧ s.rowDenied m.id 0 1 true = true ∧ s.lowCore (s.partid 0) = some 0 ∧ (s.part (s.partid 0)).saved = none) := by decide

theorem witness_FabricMessages_refused :
    let m := msgOf 1 (2 * 2 ^ 45 + 0x100) (bytesOfNat 8 0x0000103100000040) false
    let s := withCore { engine [] with msgs := [m] } (fun x => { x with rangeA := ⟨[(0, 0x0FFF0000)]⟩, rangeB := ⟨[(0, 1)]⟩ })
    PartDrops s (s.partid 0) := ⟨by decide, 0, by decide, by decide⟩

/-- A WRITE, a COUNT and a POST whose count waits for its clasp: while it is on its way, and once it has come. -/
theorem witness_FabricMessages_counts :
    (let v := BitVec.ofNat 64 (0x3FF + 1 * 2 ^ 30)
      let m := { msgOf 1 0x100 (bytesOfNat 8 7) true with count := some v, aux := 2 }
      let s := inbox true m
      let a : Arrival := { core := 0, row := 0, n := 1, id := { m.id with part := 0 }, sys := true }
      received true m = true ∧ s.countOnWay { m.id with part := 0 } (countVa v) = false
        ∧ ({ s with arrivals := [a] }).countOnWay { m.id with part := 0 } (countVa v) = true)
      ∧ (let m := { msgOf 5 (2 * 2 ^ 45) [] true with count := some (BitVec.ofNat 64 (2 ^ 30)), aux := 2 }
        let s := inbox true m
        let a : Arrival := { core := 0, row := 0, n := 1, id := m.id, sys := true }
        received true m = true ∧ s.countOnWay m.id m.addr = false ∧ ({ s with arrivals := [a] }).countOnWay m.id m.addr = true)
      ∧ (let v : Word := BitVec.ofNat 64 (0x3FF + 2 ^ 30)
        let m := { msgOf 6 (2 * 2 ^ 45) (List.replicate 64 1) false with aux := 2, count := some v }
        let s := inbox true m
        let a : Arrival := { core := 0, row := 0, n := 1, id := m.id, sys := false }
        received true m = true ∧ s.countOnWay m.id (countVa v) = false ∧ ({ s with arrivals := [a] }).countOnWay m.id (countVa v) = true) := by
  decide

/-- An ATOMIC to memory and one of an engine to a context row, a COUNT, a POST into a ring with room, whose ring counts for its OWNER and
does not, and into one that is full, and a READ of a device that is not admitted. -/
theorem witness_FabricMessages_units :
    (let m := { msgOf 4 0x100 (bytesOfNat 8 7) true with aux := 16 }
      let s := inbox true m
      received true m = true ∧ (messageOp m.aux m.data (Config.famoMessage s.draws)).map (fun a => a.size) = some 8
        ∧ ((messageOp m.aux m.data (Config.famoMessage s.draws)).bind (fun a =>
          good (State.anyAtomic { s with draws := s.draws + 1 } m.id m.addr a))) = some 0 ∧ s.unitOff m.addr = false ∧ s.engineBarred m = false
        ∧ (inbox true { m with addr := 2 * 2 ^ 45 + 0x108, cls := 2 }).engineBarred { m with addr := 2 * 2 ^ 45 + 0x108, cls := 2 } = true)
      ∧ (let m := { msgOf 5 (unitVa 0 0) [] true with count := some (BitVec.ofNat 64 (2 ^ 30)), addr := 2 * 2 ^ 45 }
        let s := inbox true m
        received true m = true ∧ vaRegion m.addr = 2 ∧ vaUnit m.addr < 256 ∧ vaOff m.addr < 2 ^ 20 ∧ s.undeliverable m.id 0 0 = none)
      ∧ (∀ full ∈ [false, true],
        let m := msgOf 6 (2 * 2 ^ 45) (List.replicate 64 1) true
        let u := inbox true m
        let s := if full then { u with mem := wordsMem [(slotKey 0 0 0, 0x0000103200000040#64), (slotKey 0 8 1, 4)] } else u
        received true m = true ∧ s.msgs = u.msgs ∧ m.id.part = s.partid 0 ∧ (s.ring 0 m.cls).2 ≠ 0 ∧ s.absent 0 = false ∧ (s.part (s.partid 0)).shut m.seq = false
          ∧ bitAt (s.slot 0 8 2) 12 = false ∧ bitAt (({ s with mem := wordsMem [(slotKey 0 8 2, 0x1000)] } : State).slot 0 8 2) 12 = true
          ∧ s.asleep 0 = false ∧ s.poisoned (rowKey 0 (s.ring 0 m.cls).1 0) 32 = false ∧ s.ringRoom 0 m.cls = !full
          ∧ s.undeliverable m.id 0 (bitsAt (s.slot 0 (s.ring 0 m.cls).1 2) 0 12) = none)
      ∧ (let m := msgOf 2 0x100 [0] true
        (inbox false m).msgs[0]? = some m ∧ (inbox false m).msgTurn 0 m = true ∧ (inbox false m).isLocal m.addr = true
          ∧ m.id.host = false ∧ m.id.node ≠ 0x3FF ∧ bitAt (word ((inbox false m).fabric.admission.get 0 m.id.node)) 0 = false) := by decide

/-- An answer that has come from device 5 for row 0 of core 0, with a request of the row, of a channel, or without one. -/
def answered (kind aux : Nat) (q : Option Msg) : State :=
  let m := { msgOf kind (0x3FF * 2 ^ 47) [] true with aux := aux }
  { engine [] with msgs := m :: q.toList }

/-- The request of a message that has left for device 5. -/
def asks (kind chan : Nat) (ackreq : Bool) : Msg := {
  msgOf kind (5 * 2 ^ 47) [] false with chan := chan, remote := true, ackreq := ackreq, acktag := 3 }

theorem witness_FabricAnswers :
    let oldest (s : State) (kinds : List Nat) : Option Nat := match s.msgs[0]? with
      | some m => s.msgs.findIdx? (fun q => q.remote && kinds.contains q.mkind && q.cls == m.cls && vaNode q.addr == m.id.node
          && (if q.id.host then 0xFF else q.id.core) == m.id.core && q.id.row == m.id.row && q.addr % 2 ^ 47 == m.addr % 2 ^ 47)
      | none => none
    let turn (s : State) : Bool := s.msgs[0]?.any (fun m => !m.remote && s.msgTurn 0 m && s.isLocal m.addr)
    (∀ k ∈ [3, 7], turn (answered k 0 none) = true ∧ oldest (answered k 0 none) [1, 2, 4, 5, 6] = none)
      ∧ (turn (answered 3 0 (some (asks 2 0 false))) = true ∧ oldest (answered 3 0 (some (asks 2 0 false))) [2, 4] = some 1)
      ∧ (∀ q ∈ [asks 1 17 false, asks 1 14 false, asks 1 15 false, asks 6 0 false, asks 6 0 true, asks 1 0 false],
        turn (answered 7 0 (some q)) = true ∧ oldest (answered 7 0 (some q)) [1, 5, 6] = some 1 ∧ (answered 7 0 (some q)).msgs[1]? = some q)
      ∧ (turn (answered 3 0 (some (asks 2 15 false))) = true ∧ oldest (answered 3 0 (some (asks 2 15 false))) [2, 4] = some 1)
      ∧ (answered 7 0 (some (asks 1 0 false))).stores.findIdx? (fun x => x.sent && x.seq == (asks 1 0 false).seq) = none
      ∧ (let u := { answered 7 6 (some (asks 1 0 false)) with stores := [{
          id := (engine []).me, va := 5 * 2 ^ 47, data := [1], whole := false, release := false, scope := 0, pc := 0x40, len := 2, seq := 0
          age := 0, sent := true }] };
        u.stores.findIdx? (fun x => x.sent && x.seq == (asks 1 0 false).seq) = some 0 ∧ (u.latch? 0 0).map (fun l => l.intent) = some .run
          ∧ Cause.code .prot = 6) := by decide

/-! ### Links -/

/-- A head flit that is whole. -/
def flitAt (seq : Nat) (m : Msg) : Flit := {
  payload := (((engine []).flitsOf m).headD []) ++ List.replicate (64 - (((engine []).flitsOf m).headD []).length) 0
  seq := seq, ack := 0, vl := m.cls, fkind := 1, last := true, cred := 2, credvl := 0 }

/-- The flit in order and out of order that carries a READ; bytes with an error. -/
theorem witness_LinksAndBeacons_flits :
    let f := flitAt 1 (msgOf 2 0x100 [0] false)
    let l := (engine []).link 0
    (f.payload.length = 64 ∧ f.seq < 4096 ∧ f.ack < 4096 ∧ f.vl < 4 ∧ f.fkind ≤ 4 ∧ f.cred < 256 ∧ f.credvl < 4)
      ∧ f.seq = (l.rxSeq + 1) % 4096 ∧ (flitAt 0 (msgOf 2 0x100 [0] false)).seq ≠ (l.rxSeq + 1) % 4096
      ∧ l.retrain = false ∧ (messageOf 0 f.vl 0 f.payload).isSome = true ∧ (engine []).fabric.nextRoute = []
      ∧ (flitOf (bytesOfNat 80 0)).isNone = true := by decide

theorem witness_LinksAndBeacons_bits :
    flitOf (bytesOfNat 80 (flitAt 0 (msgOf 2 0x100 [0] false)).encode.toNat) = some (flitAt 0 (msgOf 2 0x100 [0] false)) := by decide +kernel

/-- A NAK to answer; room for a beacon; a beacon that has come on the link of the parent, with and without a step of TIME due and rows that
run; a timebase that is stale, and one that is not yet; a message for device 5 on a link with credits and without them. -/
theorem witness_LinksAndBeacons :
    let s := engine []
    let beacon (parent : Nat) (step : Bool) (u : State) : State :=
      { u with
        links := ⟨[(0, { LinkSt.reset with beacon := some [100, 0, 0, 120, 7] })]⟩
        fabric := { u.fabric with tparent := parent, step := step } }
    let runs (u : State) : Bool := u.allRows.any (fun x => running (u.rowState x.1 x.2))
    let m := msgOf 2 (5 * 2 ^ 47) [0] false
    let leaves (c : Nat) : State :=
      { s with
        msgs := [m], links := ⟨[(0, { LinkSt.reset with credits := ⟨[(1, c)]⟩ })]⟩, fabric := { s.fabric with route := ⟨[(5, 0)]⟩ } }
    (s.link 0).resend = false ∧ ({ LinkSt.reset with resend := true }).resend = true
      ∧ ((s.link 0).retrain = false ∧ (s.link 0).replay.length < 512)
      ∧ (s.link 0).beacon = none ∧ (∀ p ∈ [0, 1], ∀ b ∈ [false, true], ((beacon p b s).link 0).beacon = some [100, 0, 0, 120, 7]
        ∧ (beacon p b s).fabric.tparent = p ∧ (beacon p b s).fabric.step = b)
      ∧ runs (beacon 0 true s) = true ∧ runs (beacon 0 true State.reset) = false
      ∧ (let u := { beacon 0 false s with time := 100000 }
        u.fabric.tparent ≠ 31 ∧ u.fabric.stale = false ∧ 100000 ≤ (u.time - u.fabric.lastBeacon).toNat)
      ∧ ¬ 100000 ≤ (s.time - s.fabric.lastBeacon).toNat
      ∧ (∀ c ∈ [0, 1], (leaves c).msgs[0]? = some m ∧ m.remote = false ∧ (leaves c).msgTurn 0 m = true ∧ (leaves c).isLocal m.addr = false
        ∧ m.via = 0 ∧ m.mkind ∈ [1, 2, 4, 5, 6] ∧ (leaves c).fabric.route.get 31 (vaNode m.addr) = 0 ∧ ((leaves c).link 0).retrain = false
        ∧ (leaves c).fabric.nextRoute = [] ∧ ((leaves c).flitsOf m).length = 1 ∧ ((leaves c).link 0).credits.get 128 m.cls = c)
      ∧ (s.logLeaving m).isSome = true := by decide

/-- A WRITE to memory of another device, whose block is logged first, and that waits while its log is full; one to a row of another. -/
theorem witness_LinksAndBeacons_logs :
    let s := engine []
    let m := msgOf 1 (5 * 2 ^ 47) [0] false
    let full := { withCore s (fun x => { x with dlogbase := 1 }) with mem := wordsMem [(slotKey 0 1 0, 1)] }
    (s.logLeaving m).isSome = true ∧ (full.logLeaving m).isNone = true
      ∧ vaRegion (5 * 2 ^ 47 + 2 * 2 ^ 45) = 2 ∧ vaRegion (5 * 2 ^ 47 + 3 * 2 ^ 45) = 3 := by decide

/-- A message that waits for the buffer of a core, and none before it. -/
theorem witness_LinksAndBeacons_place :
    let s := engine []
    (s.bufferOf { msgOf 5 (2 * 2 ^ 45) [] true with via := 1 }).isSome = true ∧ (s.bufferOf (msgOf 2 0x100 [0] true)).isNone = true ∧ s.msgs = [] := by decide

/-! ### Registers that the host writes -/

/-- A link's number and a value that is none; a route whose link has flits of messages on their way, and one whose link has none; a partition
whose rows rest, and one with a row that is open; values at the ends of their ranges; each cause for which GROVES is refused. -/
theorem witness_DeviceRegisters :
    let s := engine []
    let isLink (v : Word) : Prop := v.toNat < 18 ∨ v.toNat = 31
    let rest (s : State) (p : Nat) : Bool := (s.part p).saved.isSome
      || s.allRows.all (fun y => !s.inPart p y.1 || [0, 4, 5].contains (s.rowState y.1 y.2))
    isLink 17 ∧ isLink 31 ∧ ¬ isLink 18 ∧ s.fabric.nextRoute = [] ∧ 18 ≤ s.fabric.route.get 31 5
      ∧ ((0x3FE : Word).toNat < 0x3FF ∧ 0x3FF ≤ (0x3FF : Word).toNat)
      ∧ ((0x7F : Word).toNat < 0x80 ∧ ¬ (0x80 : Word).toNat < 0x80)
      ∧ rest s 0 = false ∧ rest s 1 = true ∧ ((0x1000 : Word).toNat % 4096 = 0 ∧ (0x1000 : Word).toNat < 2 ^ 57)
      ∧ ((16384 : Word).toNat ≤ 16384 ∧ (2 : Word).toNat < 3 ∧ (s.part 0).swapop = 0)
      ∧ (vaRegion 0x600000000000 = 3 ∧ 0x600000000000 % 8 = 0 ∧ (0x7FF : Word).toNat < 2 ^ 11)
      ∧ blockStoreOk 0x0010 0xFFFFF = true ∧ blockStoreOk 0x0010 0x100000 = false
      ∧ ((s.part 0).groves &&& 1 ≠ 0 ∧ (0 : Nat) < 16 ∧ (0 : Nat) ≠ 1)
      ∧ (let u := { s with groves := ⟨[(2, { GroveSt.reset with disabled := true })]⟩ };
        bitAt (4 : Word) 2 = true ∧ (u.grove 2).disabled = true)
      ∧ ((s.part 0).saved = none ∧ s.owns 0 0 = true ∧ bitAt (2 : Word) 0 = false ∧ s.contextRows 0 ≠ [])
      ∧ (∀ q ∈ List.range 16, q = 0 ∨ (s.part q).groves &&& 3 = 0) ∧ (∀ g ∈ List.range 64, (s.grove g).disabled = false) ∧ bitAt (3 : Word) 0 = true
      ∧ (0x1F0 * 2 ^ 21 / 2 ^ 21 < 512 ∧ 0x1F0 * 2 ^ 21 / 2 ^ 21 ≠ 0x1F1 ∧ 0x1F0 * 2 ^ 21 % 64 = 0 ∧ (List.replicate 64 (0 : Byte)).length = 64) := by
  decide

/-- A route with a message queued for its node, and with one for another; a grove that leaves without context rows whose partition holds a
lease, and holds none. -/
theorem witness_DeviceRegisters_queued :
    let s := engine []
    let queued (node : Nat) : State := { s with
      seq := 1, msgs := [msgOf 2 (node * 2 ^ 47) [0] false], fabric := { s.fabric with route := ⟨[(5, 0)]⟩ } }
    let blocks (u : State) : Bool := u.msgs.any (fun m => !m.remote && !u.isLocal m.addr && vaNode m.addr == 5 && decide (m.seq < u.seq))
    (blocks (queued 5) = true ∧ blocks (queued 6) = false ∧ (queued 5).fabric.route.get 31 5 < 18 ∧ ((queued 6).link 0).replay = [])
      ∧ (let u := withCore s (fun x => { x with ctxmap := ⟨[]⟩ });
        u.contextRows 0 = [] ∧ u.gangs.items.any (fun e => e.1 / 4096 == 0 && !(e.2.lease.getD []).isEmpty) = true)
      ∧ (gangState [] 0).gangs.items.any (fun e => !(e.2.lease.getD []).isEmpty) = false := by decide

theorem witness_DeviceRegisters_busy : flitKind (flitAt 0 (msgOf 2 0x100 [0] false)).encode = 1 := by decide +kernel

/-! ### Power, telemetry and temperature -/

/-- A telemetry frame with SEQ and FLAGS, and with its CRC. -/
def frame (seq flags : Nat) : List Byte :=
  let body := bytesOfNat 28 (0xA57E + seq * 2 ^ 16 + 50000000 * 2 ^ 32 + flags * 2 ^ 128)
  body ++ bytesOfNat 4 (crc32 body)

/-- A frame that is usable, a test frame, and one whose CRC is wrong. -/
theorem witness_Telemetry_frames :
    (∀ flags ∈ [0, 2, 5], (frame 1 flags).length = 32 ∧ frameSync (frame 1 flags) = true ∧ frameGood 0 (frame 1 flags) = true
        ∧ frameNat (frame 1 flags) 16 1 = flags)
      ∧ frameGood 1 (frame 1 0) = false ∧ frameSync (List.replicate 32 0) = false := by decide +kernel

/-- Stores of a supervisor to REPLAY while it is set, TCTL and COMMIT; a staged set that is sound, and one without a curve; telemetry that is
late and that is not. -/
theorem witness_Telemetry :
    let s := engine []
    let block (off : Nat) (bs : List Byte) (whole : Bool) : State := stored { s with power := { s.power with regs := ⟨[(0, 1)]⟩ } } (unitVa 0x1F1 off) bs whole
    let sup (u : State) : State := { u with stores := u.stores.map (fun q => { q with id := { q.id with mode := true } }) }
    let is (u : State) (off : Nat) : Bool := firstStore u (fun q => vaNode q.va == 0x3FF && vaRegion q.va == 2 && vaUnit q.va == 0x1F1
      && vaOff q.va == off && q.id.mode)
    is (sup (block 0x40 (frame 1 0) true)) 0x40 = true ∧ bitAt ((block 0 [] false).power.reg 0) 0 = true ∧ bitAt (s.power.reg 0) 0 = false
      ∧ is (sup (block 0 (bytesOfNat 8 3) false)) 0 = true ∧ is (sup (block 0x68 (bytesOfNat 8 1) false)) 0x68 = true
      ∧ s.power.stagedOk = true ∧ ({ s.power with regs := ⟨[(0x01C0, 0)]⟩ }).stagedOk = false
      ∧ ((sup (block 0x68 (bytesOfNat 8 1) false)).latch? 0 0).map (fun l => l.intent) = some .run
      ∧ (s.power.stale = false ∧ s.power.lastUsable + 200000 ≤ ({ s with time := 200000 }).time.toNat)
      ∧ ¬ s.power.lastUsable + 200000 ≤ ({ s with time := 199999 }).time.toNat := by decide

/-- A class in SHED whose deadline has come, with a gang that is not quiet, and one that has not; a grove that changes its point, warm and not;
a grove that is quiet, with each idle state; a reading that reaches HOT, one that falls below, and one that stays. -/
theorem witness_PowerActions :
    let s := gangState [] 0
    let shed : State := { s with
      power := { s.power with shed := 8, mark := ⟨[(3, some 0)]⟩ }
      time := BitVec.ofNat 64 (bitsAt (s.power.now 0x0248) 0 32) }
    let warm : State := { s with power := { s.power with temps := ⟨[(0, (0, 1))]⟩ } }
    let idle (w : Word) : State := { State.reset with power := { PowerSt.reset with regs := ⟨[(0x0800, w)]⟩ } }
    (shed.power.mark.get none 3 = some 0 ∧ shed.power.sheds 3 = true ∧ 0 + bitsAt (shed.power.now 0x0248) 0 32 ≤ shed.time.toNat
        ∧ 1 ∈ shed.gangKeys ∧ shed.gangClass 0 1 = some 3 ∧ shed.membersQuiet 0 1 = false)
      ∧ s.power.mark.get none 3 = none ∧ ({ shed with time := 0 }).time.toNat < 0 + bitsAt (shed.power.now 0x0248) 0 32
      ∧ 1 ≤ warm.levelOf 0 ∧ (List.range 96).all (fun n => decide (s.levelOf n = 0)) = true
      ∧ (∀ e ∈ [((20 : Word), 1), (1500, 2), (30000, 3)], (idle e.1).idleState 0 = e.2 ∧ ((idle e.1).grove 0).idle = 0)
      ∧ (∀ c ∈ List.range 4, (idle 20).coreQuiet c = true ∧ (idle 20).arriving c = false) ∧ s.coreQuiet 0 = false := by decide

/-- A grove that may enter each idle state by LATTOL, at its limit and one below; a timed wait as far as each wake and one tick nearer; a grove that
has context rows, scratch ways or a pin; a wait for a time that has passed, and a timed clasp. -/
theorem witness_PowerActions_idle :
    let x (w : Word) : State := { State.reset with power := { PowerSt.reset with regs := ⟨[(0x0800, w)]⟩ } }
    let waits (on : WaitOn) : State := { x 30000 with cores := ⟨[(0, { CoreSt.reset with waits := [{ row := 1, on := on, met := false }] })]⟩ }
    let wake (k : Nat) : Nat := [0, 20, 1500, 30000].getD k 0
    let fits (s : State) (k : Nat) : Bool := decide (wake k ≤ bitsAt (s.power.reg 0x0800) 0 32)
      && (List.range 4).all (fun c => (s.waitTimes c).all (fun d => decide (wake k ≤ d)))
    let bare (s : State) : Bool := (List.range 4).all (fun c => (s.core c).ctxmap.items.all (fun e => e.2 == 0)) && (s.grove 0).ways == 0 && (s.grove 0).pins == []
    (fits (x 30000) 3 = true ∧ fits (x 29999) 3 = false ∧ fits (x 1500) 2 = true ∧ fits (x 1499) 2 = false ∧ fits (x 20) 1 = true ∧ fits (x 19) 1 = false)
      ∧ (fits (waits (.time 30000)) 3 = true ∧ fits (waits (.time 29999)) 3 = false ∧ fits (waits (.time 29999)) 2 = true ∧ fits (waits (.time 19)) 1 = false)
      ∧ (waits (.time 0)).waitTimes 0 = [0] ∧ (waits .timedClasp).waitTimes 0 = [0]
      ∧ bare (x 30000) = true ∧ bare { x 30000 with cores := ⟨[(3, { CoreSt.reset with ctxmap := ⟨[(0, 1)]⟩ })]⟩ } = false
      ∧ bare { x 30000 with groves := ⟨[(0, { GroveSt.reset with ways := 1 })]⟩ } = false
      ∧ bare { x 30000 with groves := ⟨[(0, { GroveSt.reset with pins := [{ part := 0, line := 1, way := 0 }] })]⟩ } = false := by decide

/-- A grove that sleeps while a READY row may issue, while a timed clasp is near, and without a cause. -/
theorem witness_PowerActions_wake :
    let s := { State.reset with
      groves := ⟨[(0, { GroveSt.reset with idle := 1 })]⟩
      cores := ⟨[(0, { CoreSt.reset with fifo := [{ row := 1, age := 0 }] })]⟩ }
    let idle := { s with cores := ⟨[]⟩ }
    (s.grove 0).idle ≠ 0 ∧ s.eligible 0 ≠ [] ∧ (s.grove 1).idle = 0
      ∧ (idle.heldAt 0 = false ∧ ({ idle with knocks := [0] } : State).heldAt 0 = true ∧ ∀ c ∈ List.range 4, idle.eligible c = [] ∧ idle.waitTimes c = [])
      ∧ (let near := { idle with cores := ⟨[(0, { CoreSt.reset with waits := [{ row := 1, on := .time 1, met := false }] })]⟩ };
        ∃ d ∈ near.waitTimes 0, d ≤ wakeTime 1) := by decide

/-- The thresholds of a sensor as integers, in units of a reading. -/
theorem witness_PowerActions_sensor :
    let x := State.reset.power
    let at_ (i : Nat) : Int := (BitVec.ofNat 16 (bitsAt (x.reg 0x0810) (16 * (i - 1)) 16)).toInt
    (∀ i ∈ [1, 2, 3], at_ i ≤ at_ i ∧ ∀ j ∈ [1, 2, 3], i < j → at_ i < at_ j) ∧ (∀ j ∈ [1, 2, 3], (0 : BitVec 16).toInt < at_ j)
      ∧ (0 : BitVec 16).toInt < at_ 1 - bitsAt (x.reg 0x0810) 48 8 := by decide

/-! ### Placement, repair, the watchdog, swapping and service -/

/-- A header in partition 0's queue; gang 1 has a descriptor of class 3 with a watchdog budget, core 0 a pool with row 1. -/
def placing (w0 : Word) (path : HdrPath) : State :=
  let s := gangState [] 0
  { withCore s (fun x => { x with pool := [{ row := 1, lent := false, leaving := false }] }) with
    mem := wordsMem [(slotKey 0 0 0, 0x0000103200000040#64), (dramKey 0 64, 0x10003), (dramKey 0 104, 5)]
    gangs := ⟨[(1, { GangSt.reset with lease := some [{ base := 0, bytes := 2 ^ 57, wr := true }], wdcnt := 5 })]⟩
    parts := ⟨[(0, { PartSt.reset with
      groves := 1, hdrs := [{ words := eight [w0], id := { s.me with mode := true }, path := path }] })]⟩ }

/-- What becomes of the head of the queue: its row, or the code of its refusal. -/
def placed (s : State) : Option (Nat × Nat) ⊕ Nat :=
  match (s.part 0).hdrs with
  | [] => .inl none
  | h :: rest => match (State.place (s.setPart 0 { s.part 0 with hdrs := rest }) 0 h).1 with
    | .ok x => .inl (some x)
    | .error n => .inr n

/-- A header that is placed, awake and asleep, and one that is refused, by a launch and through the window. -/
theorem witness_Management_placement :
    (∀ path ∈ [HdrPath.launch 0 0, .window],
      let s := placing 0x1300000040 path
      placed s = .inl (some (0, 1)) ∧ (s.part 0).saved = none ∧ s.asleep 0 = false ∧ (s.gang 0 1).stopped = false
        ∧ ({ s with groves := ⟨[(0, { GroveSt.reset with idle := 1 })]⟩ }).asleep 0 = true
        ∧ placed (placing 0x1B00000040 path) = .inr 3)
      ∧ ((engine []).part 0).hdrs = [] := by decide

/-- Core 0 with a free row of its pool in use or lent, and core 1 with rows 2 and 5 free, with READY rows and a resident tile. -/
def pooled (ready : Nat) (tile : Bool) : State :=
  let s := placing 0x1300000040 .window
  { s with
    cores := ⟨[(0, { s.core 0 with pool := [{ row := 1, lent := false, leaving := false }] }),
      (1, { CoreSt.reset with
        pool := [{ row := 5, lent := false, leaving := false }, { row := 1, lent := true, leaving := false }, { row := 2, lent := false, leaving := false }]
        fifo := (List.range ready).map (fun k => { row := 9 + k, age := 0 })
        res := if tile then ⟨[(0, ⟨1, 1 + 2 ^ 45⟩)]⟩ else ⟨[]⟩ })]⟩ }

/-- A header with the words of its tiles. -/
def hdrOf (w0 : Word) (ts : List Word) : Hdr := {
  words := eight ([w0, 0, 0, 0] ++ ts), id := { (gangState [] 0).me with mode := true }, path := .window }

/-- A header that is malformed in each way and one that is not; a gang without a descriptor; another gang's or a lower class from user mode; a tile
that the lease holds to its last byte and one beyond; a right that is being revoked; no free row; equal cores, one with a READY row, one with
the tile in its array and one with PINCORE. -/
theorem witness_Management_place :
    let s := pooled 0 false
    let tile (page n : Nat) : Word := BitVec.ofNat 64 (page + n * 2 ^ 45)
    let malformed (t : Word) : Prop := bitsAt t 59 5 ≠ 0 ∨ (bitsAt t 45 14 * 4096 = 0 ∧ bitsAt t 0 45 ≠ 0)
      ∨ 2 ^ 57 < bitsAt t 0 45 * 4096 + bitsAt t 45 14 * 4096
    let answer (s : State) (h : Hdr) : Option (Nat × Nat) ⊕ Nat := match (s.place 0 h).1 with
      | .ok x => .inl (some x)
      | .error n => .inr n
    let revoking := { s with gangs := ⟨[(1, { s.gang 0 1 with
      revoking := some { ranges := [{ base := 0x3FF * 2 ^ 47, bytes := 4096, wr := false }], after := [], target := .none, id := s.me } })]⟩ }
    (malformed 0x0800000000000000 ∧ malformed (tile 1 0) ∧ ¬ malformed (tile 0 0) ∧ ¬ malformed (tile (2 ^ 45 - 1) 1) ∧ malformed (tile (2 ^ 45 - 1) 2))
      ∧ (bitAt 0x1B00000040 35 = true ∧ bitsAt 0x4001300000040 50 6 = 1 ∧ bitsAt 0x0100001300000040 56 8 = 1 ∧ bitAt 0x0100001300000040 48 = false)
      ∧ (s.descriptor 0 1).1.isSome = true ∧ (({ s with tlb := [] } : State).descriptor 0 1).1.isNone = true
      ∧ ((hdrOf 0 []).id.gang = 1 ∧ ctlClass (s.ctl 0 0) = 3)
      ∧ (let l : LRange := { base := 0, bytes := 2 ^ 57, wr := true };
        (s.gang 0 1).lease = some [l] ∧ s.canonVa 4096 + 4095 < l.base + l.bytes)
      ∧ (revoking.gang 0 1).revoking.isSome = true
      ∧ answer s (hdrOf 0x1300000040 []) = .inl (some (0, 1)) ∧ answer s { hdrOf 0x2300000040 [] with id := s.me } = .inr 4
      ∧ answer (pooled 0 true) (hdrOf 0x1300000040 [tile 1 1]) = .inl (some (1, 2)) := by
  refine ⟨⟨?_, ?_, ?_, ?_, ?_⟩, ⟨?_, ?_, ?_, ?_⟩, ?_, ?_, ⟨?_, ?_⟩, ⟨?_, ?_⟩, ?_, ?_, ?_, ?_⟩ <;> decide

/-- A row placed for a gang that is stopped, and in a partition that swaps out or is being reset. -/
theorem witness_Management_stopped :
    let s := placing 0x1300000040 .window
    (({ s with gangs := ⟨[(1, { s.gang 0 1 with sup := true })]⟩ } : State).gang 0 1).stopped = true
      ∧ ((s.setPart 0 { s.part 0 with swapping := true }).part 0).swapping = true ∧ (s.part 0).swapping = false
      ∧ ((s.setPart 0 { s.part 0 with flr := true }).part 0).flr = true ∧ (s.part 0).flr = false := by decide

/-- A watchdog check on which no release falls, one on which one falls, and one of a partition that is swapped out. -/
theorem witness_Management_watchdog :
    let s := placing 0x1300000040 .window
    let due (held : Bool) : State := { s with gangs := ⟨[(1, { s.gang 0 1 with due := [{ number := 0, t := 0, held := held }] })]⟩ }
    (∀ e ∈ ((due true).gang 0 1).due, e.held = true ∨ s.time.toNat < e.t) ∧ (s.gang 0 1).due = []
      ∧ ((due false).gang 0 1).due.any (fun e => !e.held && decide (e.t ≤ s.time.toNat)) = true
      ∧ (((due false).releaseDue 0 1).gang 0 1).wdcnt = 0
      ∧ ((({ s with parts := ⟨[(0, { PartSt.reset with saved := some { cores := [], groves := [], hdrs := [] } })]⟩ } : State).releaseDue 0 1).part
        0).saved.isSome = true := by decide

/-- A held record of each kind with room in the supervisor's ring, and a ring that is disabled. -/
theorem witness_Management_records :
    let s := withCore (engine []) (fun x => { x with mbx := ⟨[(0, BitVec.ofNat 64 (8 + 2 * 2 ^ 16))]⟩ })
    s.lowCore 0 = some 0 ∧ (s.ring 0 0).2 ≠ 0 ∧ (s.part 0).saved = none ∧ s.ringRoom 0 0 = true ∧ s.poisoned (rowKey 0 8 0) 32 = false
      ∧ s.absent 0 = false ∧ s.asleep 0 = false ∧ ({ s with groves := ⟨[(0, { GroveSt.reset with idle := 1 })]⟩ } : State).asleep 0 = true
      ∧ (eight [8]).length = 8
      ∧ s.undeliverable (Ident.supervisor 0) 0 (bitsAt (s.slot 0 8 2) 0 12) = none ∧ ((engine []).ring 0 0).2 = 0 := by decide

/-- An atom that is not in the map, one that is, and one beyond the stack; a budget that has run out, one that has not, and a descriptor
that cannot be read; a row that the expiry ends; a store to TAILVA. -/
theorem witness_Management :
    let s := placing 0x1300000040 .window
    let m := { s with stackSts := ⟨[(7, { StackSt.reset with remap := [5] })]⟩ }
    let d (u : State) : Option Nat := (u.descriptor 0 1).1.map (fun d => d.wdbudget)
    let e : State := { s with
      mem := wordsMem [(slotKey 0 0 0, 0x0000103100000040#64), (slotKey 0 1 0, 0x0000200000000000#64)]
      gangs := ⟨[(1, { GangSt.reset with expired := true })]⟩ }
    let t : State := { homed s with
      parts := ⟨[(0, { PartSt.reset with groves := 1, tailva := 64 })]⟩
      stores := [{
        id := { s.me with mode := true }, va := 64, data := bytesOfNat 8 1, whole := false, release := true, scope := 5, pc := 0x40
        len := 2, seq := 0, age := 0, sent := false }] }
    ((6 : Nat) ∉ (m.stack 7).remap ∧ (m.stack 7).remap.length < 4096 ∧ 6 < 2 ^ 31) ∧ 5 ∈ (m.stack 7).remap ∧ ¬ 2 ^ 31 < 2 ^ 31
      ∧ (d s = some 5 ∧ 5 ≤ (s.gang 0 1).wdcnt ∧ s.gangLive 0 1 = true)
      ∧ ({ s with gangs := ⟨[]⟩ }).gang 0 1 = GangSt.reset ∧ GangSt.reset.wdcnt < 5
      ∧ d { s with tlb := [] } = none
      ∧ ((e.gang 0 1).expired = true ∧ e.members 0 1 = [(0, 0)] ∧ e.partid 0 = 0 ∧ e.rowState 0 0 = 1
        ∧ ∀ c ∈ List.range 4, (e.core c).mx.queue = [])
      ∧ (s.gang 0 1).expired = false
      ∧ (t.stores[0]?.any (fun q => t.mayAccept 0 q && t.isLocal q.va && vaRegion q.va != 2 && q.release && q.scope == 5 && q.id.mode
        && !q.id.host && q.id.node == 0x3FF && q.va == (t.part 0).tailva.toNat && (good (t.anyStore q.id q.va q.data q.whole q.seq)).isSome)) = true
      := by decide

theorem witness_Management_expiry : RecordsDropped (placing 0x1300000040 .window) 0 := recordsDropped_of (low := 0) (by decide) (by decide) (by decide)

/-- A state of partition 0 with a request to swap, and what it has saved; its rows at rest, with SWAP set on its gangs, or running. -/
def swaps (rests : Bool) (n : Nat) (swapping : Bool) (v : Option Saved) : State :=
  let s := gangState [] 0
  { s with
    mem := if rests then wordsMem [(slotKey 0 0 0, 0x0000103400000040#64), (slotKey 0 1 0, 0x0000103400000040#64)] else s.mem
    cores := if rests then ⟨[(0, { CoreSt.reset with ctxmap := ⟨[(0, 3)]⟩ })]⟩ else s.cores
    parts := ⟨[(0, { PartSt.reset with groves := 1, swapop := n, swapping := swapping, saved := v })]⟩
    gangs := ⟨[(0, { GangSt.reset with swap := swapping }), (1, { GangSt.reset with swap := swapping })]⟩ }

/-- What a swapped-out partition of one row saved on a grove, with an image of the version that runs, or of another. -/
def savedOn (g : Nat) (im : List Word) : Saved := {
  cores := [{ core := 4 * g, rows := [(0, 0)], state := CoreSt.reset, image := im }]
  groves := [{ grove := g, ways := 0, pins := [], gres := ⟨[]⟩, last := 3 }], hdrs := [] }

/-- Row 0 of core 0 has 225 rows to save. -/
def crowded : State :=
  let s := swaps true 1 false none
  { s with cores := ⟨[(0, { CoreSt.reset with ctxmap := ⟨(List.range 4).map (fun k => (k, BitVec.allOnes 64))⟩ })]⟩ }

/-- A request to swap out: new, of a partition that is saved already, of one with too many rows and of one whose ways are held; one in
progress that is at rest, one that is not; one to restore onto the groves saved, and onto others, onto a grove that has failed, and from
an image of each version. -/
theorem witness_SwapAndReset :
    let fits (u : State) : Bool := (u.coresOf 0).all (fun c => decide ((u.savedRows c).length ≤ 224) && !(u.grove (c / 4)).swapHeld)
    let new := swaps true 1 false none
    (((swaps true 0 false none).part 0).swapop ≠ 1 ∧ ((swaps true 0 false none).part 0).swapop ≠ 2)
      ∧ ((new.part 0).swapop = 1 ∧ (new.part 0).swapping = false ∧ (new.part 0).saved = none ∧ fits new = true)
      ∧ ((swaps true 1 false (some (savedOn 0 []))).part 0).saved.isSome = true
      ∧ fits { new with groves := ⟨[(0, { GroveSt.reset with swapHeld := true })]⟩ } = false
      ∧ (let u := swaps true 1 true none; (u.part 0).swapping = true ∧ (u.part 0).shutAt = none ∧ (u.swapStop 0).swapQuiet 0 = true)
      ∧ (let v := swaps true 1 true none;
        let u := v.setPart 0 { v.part 0 with shutAt := some 0 };
        (u.part 0).shutAt.isSome = true ∧ (u.swapStop 0).swapQuiet 0 = true ∧ (u.swapStop 0).msgs = [])
      ∧ (let u := swaps false 1 true none; (u.swapStop 0).swapQuiet 0 = false)
      ∧ ((swaps true 2 false none).part 0).saved = none
      ∧ (∀ e ∈ [(0, true), (1, false)], let u := swaps true 2 false (some (savedOn e.1 []));
        (u.part 0).swapop = 2 ∧ (u.part 0).saved = some (savedOn e.1 [])
          ∧ ((List.range 64).all (fun g => u.owns 0 g == (savedOn e.1 []).groves.any (fun x => x.grove == g))) = e.2)
      ∧ ((new.grove 0).failed = false ∧ ({ GroveSt.reset with failed := true } : GroveSt).failed = true)
      ∧ (bitsAt (wordAt [BitVec.ofNat 64 (1 + 1024 * 2 ^ 16)] 0) 0 32 = new.mxVersion % 2 ^ 16 + 1024 * 2 ^ 16
        ∧ bitsAt (wordAt [] 0) 0 32 ≠ new.mxVersion % 2 ^ 16 + 1024 * 2 ^ 16) := by decide

theorem witness_SwapAndReset_crowded : 224 < (crowded.savedRows 0).length := by decide +kernel

/-- A Function Level Reset of a partition whose gangs are at rest once they are stopped, of one whose row still runs, and of one that is
saved. -/
theorem witness_SwapAndReset_reset :
    let u (s : State) : State := (s.setPart 0 { s.part 0 with flr := true }).stopAll 0 .sup
    let rests (s : State) : Bool := ((u s).gangsOf 0).all (fun g => (u s).gangAtRest 0 g)
    rests (swaps true 0 false none) = true ∧ rests (swaps false 0 false none) = false
      ∧ ((swaps true 0 false (some (savedOn 0 []))).part 0).saved.isSome = true
      ∧ (∀ c ∈ (swaps true 0 false none).coresOf 0, ((u (swaps true 0 false none)).core c).mx.queue = []) := by decide

/-- A command of the partition's own row and one of another partition's; a revocation that signals a clasp of the partition, and one of another; ways
that the partition's swap holds, and another's. -/
theorem witness_SwapAndReset_mine :
    let s := swaps true 0 false (some (savedOn 0 []))
    let mine (id : Ident) : Prop := id.host = false ∧ id.node = 0x3FF ∧ id.part = 0
    let a := unitVa 0 0
    mine s.me ∧ ¬ mine { s.me with part := 1 } ∧ (s.isLocal a = true ∧ vaRegion a = 2 ∧ s.inPart 0 (vaUnit a) = true)
      ∧ s.inPart 0 (vaUnit (unitVa 4 0)) = false
      ∧ (({ s with groves := ⟨[(0, { GroveSt.reset with swapHeld := true })]⟩ } : State).grove 0).swapHeld = true
      ∧ (∃ e ∈ (savedOn 0 []).groves, e.grove = 0) ∧ ∀ e ∈ (savedOn 1 []).groves, e.grove ≠ 0 := by decide

/-- A message that came for the partition before it closed its admission: one that can be performed, and a post that waits for room. -/
theorem witness_SwapAndReset_waits :
    let at_ (m : Msg) : State :=
      let v := { swaps true 1 true none with msgs := [m], seq := 1 }
      v.setPart 0 { v.part 0 with shutAt := some 1 }
    (at_ (msgOf 5 (0x3FF * 2 ^ 47 + 2 * 2 ^ 45) [] false)).inbound 0 (msgOf 5 (0x3FF * 2 ^ 47 + 2 * 2 ^ 45) [] false) = true
      ∧ ((at_ (msgOf 5 (0x3FF * 2 ^ 47 + 2 * 2 ^ 45) [] false)).swapStop 0).swapStuck 0 = false
      ∧ ((at_ (msgOf 6 (0x3FF * 2 ^ 47 + 2 * 2 ^ 45) [] false)).swapStop 0).swapStuck 0 = true := by decide

/-- Four translations of the whole of REGION 01, one at each port. -/
def ported : State :=
  { State.reset with
    tlb := (List.range 4).map (fun k => { point := 8 + k, part := 0, region := 1, page := 0, size := 2 ^ 45, frame := 0, w := true, gen := 0 }) }

/-- The key of the i-th line of a range that begins REGION 01. -/
def portKey (i : Nat) : Nat := cxlKey (64 * i / 4096 % 4) (64 * i / 16384 * 4096 + 64 * i % 4096)

theorem portKey_apart {i k : Nat} (h : k ≠ i) (hi : i < 2 ^ 33) (hk : k < 2 ^ 33) : Apart (portKey i) 64 (portKey k) 64 := by
  unfold Apart portKey cxlKey
  have hp : 64 * i / 4096 % 4 < 64 * k / 4096 % 4 ∨ 64 * i / 4096 % 4 = 64 * k / 4096 % 4 ∨ 64 * k / 4096 % 4 < 64 * i / 4096 % 4 := by omega
  have hx : 64 * i / 16384 * 4096 + 64 * i % 4096 < 2 ^ 38 := by omega
  have hy : 64 * k / 16384 * 4096 + 64 * k % 4096 < 2 ^ 38 := by omega
  rcases hp with hp | hp | hp
  · generalize 64 * i / 16384 * 4096 + 64 * i % 4096 = x at *
    generalize 64 * k / 16384 * 4096 + 64 * k % 4096 = y at *
    omega
  · rw [hp]
    have hl : i / 256 < k / 256 ∨ i / 256 = k / 256 ∨ k / 256 < i / 256 := by omega
    rcases hl with hl | hl | hl <;> omega
  · generalize 64 * i / 16384 * 4096 + 64 * i % 4096 = x at *
    generalize 64 * k / 16384 * 4096 + 64 * k % 4096 = y at *
    omega

/-- A range of REGION 01 whose every line has a translation, each to a place of its own outside the DRAM. -/
theorem witness_ServiceActions_checkpoint :
    let base : Word := BitVec.ofNat 64 (0x3FF * 2 ^ 47 + 2 ^ 45)
    vaRegion base.toNat = 1 ∧ base.toNat % 64 = 0 ∧ ported.poison = [] ∧
      ∀ i, i < 2 ^ 33 → ∃ e,
        let va := ported.canonVa (base.toNat + 64 * i)
        vaRegion va ≠ 0 ∧ ported.tlbHit 0 va = some e ∧ e.w = true
          ∧ ported.frameKey (vaRegion va) e.frame (va % e.size) = some (portKey i) ∧ 2 ^ 48 ≤ portKey i
          ∧ ∀ k, k < 2 ^ 33 → k ≠ i → Apart (portKey i) 64 (portKey k) 64 := by
  refine ⟨by decide, by decide, by decide, fun i hi => ?_⟩
  have hb : ((BitVec.ofNat 64 (0x3FF * 2 ^ 47 + 2 ^ 45) : Word)).toNat = 0x3FF * 2 ^ 47 + 2 ^ 45 := by decide
  have hc : ported.canonVa (0x3FF * 2 ^ 47 + 2 ^ 45 + 64 * i) = 0x3FF * 2 ^ 47 + 2 ^ 45 + 64 * i := by
    have hn : vaNode (0x3FF * 2 ^ 47 + 2 ^ 45 + 64 * i) = 0x3FF := by unfold vaNode; omega
    unfold State.canonVa
    rw [hn]
    rfl
  have hr : vaRegion (0x3FF * 2 ^ 47 + 2 ^ 45 + 64 * i) = 1 := by unfold vaRegion; omega
  refine ⟨{ point := 8 + 64 * i / 4096 % 4, part := 0, region := 1, page := 0, size := 2 ^ 45, frame := 0, w := true, gen := 0 }, ?_⟩
  simp only [hb, hc, hr]
  have hm : (0x3FF * 2 ^ 47 + 2 ^ 45 + 64 * i) % 2 ^ 45 = 64 * i := by omega
  have hp : pointOf (0x3FF * 2 ^ 47 + 2 ^ 45 + 64 * i) = 8 + 64 * i / 4096 % 4 := by
    unfold pointOf
    rw [hr]
    show 8 + (0x3FF * 2 ^ 47 + 2 ^ 45 + 64 * i) / 4096 % 4 = _
    omega
  refine ⟨by decide, ?_, trivial, ?_, ?_, fun k hk hne => portKey_apart hne hi hk⟩
  · unfold State.tlbHit
    rw [hp, hr]
    have h4 : 64 * i / 4096 % 4 < 4 := Nat.mod_lt _ (by decide)
    generalize 64 * i / 4096 % 4 = q at h4
    match q, h4 with
    | 0, _ => simp [ported, List.range, List.range.loop]
    | 1, _ => simp [ported, List.range, List.range.loop]
    | 2, _ => simp [ported, List.range, List.range.loop]
    | 3, _ => simp [ported, List.range, List.range.loop]
  · rw [hm]
    have hl : 0 * 16384 + 64 * i / 16384 * 4096 + 64 * i % 4096 < 2 ^ 41 := by omega
    have hd : ∀ q, (ported.port q).trained = true ∧ min (ported.port q).bytes (2 ^ 41) = 2 ^ 41 := fun _ => ⟨rfl, rfl⟩
    simp only [State.frameKey, (hd _).1, (hd _).2, hl, decide_true, Bool.and_self, if_true]
    unfold portKey
    simp
  · unfold portKey cxlKey
    omega

/-- An image that has the form of R405, with the largest VERSION and a signature of zeros. -/
def image (kind : Nat) (body : List Byte) : List Byte :=
  bytesOfNat 16 (0x47563846 + kind * 2 ^ 32 + (2 ^ 32 - 1) * 2 ^ 64 + body.length * 2 ^ 96) ++ List.replicate 112 0 ++ body

/-- Nothing but its VERSION and its signature can refuse such an image, and its form alone refuses one that is too short. -/
theorem witness_ServiceActions_images :
    (∀ kind ∈ [1, 2], Config.minVersion kind ≤ 2 ^ 32 - 1 →
        Config.verify (Config.sha512 (((image kind [7]).take 64) ++ [7])) 0 = true → imageRefused kind (image kind [7]) = false)
      ∧ imageRefused 1 [] = true ∧ (State.reset.stack 0).pendswap = false := by
  refine ⟨fun kind hk hv hs => ?_, by decide, by decide⟩
  have e : ∀ k ∈ [1, 2], (image k [7]).drop 128 = [7] ∧ frameNat (image k [7]) 0 4 = 0x47563846 ∧ frameNat (image k [7]) 4 2 = k
      ∧ frameNat (image k [7]) 6 2 = 0 ∧ frameNat (image k [7]) 12 4 = 1 ∧ frameNat (image k [7]) 16 48 = 0
      ∧ frameNat (image k [7]) 8 4 = 2 ^ 32 - 1 ∧ BitVec.ofNat 512 (frameNat (image k [7]) 64 64) = 0 ∧ ¬ (image k [7]).length < 128 := by decide
  obtain ⟨h1, h2, h3, h4, h5, h6, h7, h8, h9⟩ := e kind hk
  generalize image kind [7] = im at *
  simp only [imageRefused, h1, h2, h3, h4, h5, h6, h7, h8, hs, h9]
  simpa using hv

/-- A spare of another die, one that its die has given to another grove, one that is free; a grove of no partition, one of a partition that
is there, that leaves, and that is saved; a checkpoint on another device that is not reachable, and on one that is. -/
theorem witness_ServiceActions :
    let s := gangState [] 0
    let saved : Saved := { cores := [], groves := [], hdrs := [] }
    let puts (n : Nat) (v : Option Saved) : State := { s with parts := ⟨[(0, { PartSt.reset with groves := 1, swapop := n, saved := v })]⟩ }
    let used (g : Nat) : State := { s with groves := ⟨[(g, { GroveSt.reset with spare := true })]⟩ }
    ((1 : Nat) ≠ 0 / 16 ∧ (1 : Nat) = 16 / 16) ∧ (∀ p ∈ List.range 16, s.owns p 16 = false) ∧ s.owns 0 0 = true
      ∧ (s.grove 0).disabled = false ∧ (∀ h ∈ List.range 64, (s.grove h).spare = false) ∧ ((used 1).grove 1).spare = true
      ∧ (((puts 0 (some saved)).part 0).saved.isSome = true ∧ ((puts 0 (some saved)).part 0).swapop = 0)
      ∧ ((s.part 0).saved = none ∧ (s.part 0).swapop = 0) ∧ ((puts 1 none).part 0).swapop ≠ 0
      ∧ (([] : List Byte).length ≠ 32 ∧ (List.replicate 32 (0 : Byte)).length = 32)
      ∧ (let base := 5 * 2 ^ 47 + 2 ^ 45
        let far := { s with fabric := { s.fabric with route := ⟨[(5, 0)]⟩ } }
        vaRegion base = 1 ∧ s.unreachable base = true ∧ s.isLocal base = false ∧ far.unreachable base = false) := by decide

/-- A load image of one gang and one context row, in a partition whose first 2 MiB of REGION 00 are mapped, and images that are refused. -/
theorem witness_ServiceActions_load :
    let s := engine [(dramKey 0 0, 0x8001), (dramKey 0 0x8000, 0x27)]
    let y : ImageCtx := { row := 17, pc := 0, state := 1, gang := 1, mode := false, regs := [(4, 7)] }
    let x : ImageGang := {
      gang := 1, cls := 3, members := none, lease := none, handler := none, aperiod := none, aoffset := none, alead := none
      wdbudget := none }
    let im : Image := {
      part := 0, codeBase := 0x1000, code := [4, 0, 0, 0], ptes := [], data := [], gangs := [x]
      cores := [{ core := 0, rows := [], ctxs := [y], ksets := [] }] }
    im.part < 16 ∧ s.imageOk im = true ∧ s.imageMapped im = true ∧ (s.gang 0 1).stopped = false ∧ im.code.length ≤ 2 ^ 18
      ∧ (∃ y ∈ ({ im with part := 1 }).cores, s.inPart 1 y.core = false) ∧ ({ im with codeBase := 1 }).codeBase.toNat % 4096 ≠ 0 := by decide

/-! ### Words, decoding and the machine as a whole -/

/-- An instruction of each length that fits its block, at the last place that holds it. -/
theorem witness_DecodeOfEncode :
    (∀ e ∈ [(Len.w64, 24), (.w96, 20), (.w128, 16)],
      WellFormed (.li { op with len := e.1, d := 6 }) ∧ (Instr.li { op with len := e.1, d := 6 }).operands? = some { op with len := e.1, d := 6 }
        ∧ e.2 + e.1.bytes ≤ 32)
      ∧ ((Instr.li op).opcode?.any (fun x => decide (x.toNat < 0xC0))) = true := by decide

/-- A pad word, sound and not; a word that crosses its block; an opcode that is not defined, a length that is not allowed, a supervisor's
instruction, and an instruction that decodes. -/
theorem witness_DecodeChecks :
    let bytes (w : Nat) : List Byte := bytesOfNat 16 w
    let op (w : Nat) : Nat := ((BitVec.ofNat 64 (leNat ((bytes w).take 8)) : Word).extractLsb' 2 8).toNat
    (bytes 4).length = 16 ∧ leNat ((bytes 3).take 4) % 4 = 3 ∧ leNat ((bytes 7).take 4) % 4 = 3
      ∧ (leNat ((bytes 4).take 4) % 4 ≠ 3 ∧ 32 < 28 + 4 * (2 + leNat ((bytes 4).take 4) % 4) ∧ 24 + 4 * (2 + leNat ((bytes 4).take 4) % 4) ≤ 32)
      ∧ opDefined (op 0x3FC) = false
      ∧ (opDefined (op 6) = true ∧ Len.units .w128 = 2 + leNat ((bytes 6).take 4) % 4 ∧ lenAllowed (op 6) .w128 = false)
      ∧ (opDefined (op 0x308) = true ∧ lenAllowed (op 0x308) .w64 = true ∧ 0xC0 ≤ op 0x308 ∧ op 0x308 ≤ 0xC7)
      ∧ decodeBytes true 24 (bytes 4) = .ok (.instr (.nop { Tests.op with len := .w64 })) := by decide

/-- Row 0 with the words of a block in its grove's instruction cache. -/
def fetched (w : Nat) (ps : List Pending) : State :=
  let s := withCore (openRow []) (fun x => { x with latches := [latchOf 0 ps] })
  { s with
    agenda := [.issue 0 0]
    groves := ⟨[(0, { GroveSt.reset with icache := [{ part := 0, codebase := 0, va := 0x100, data := BitVec.ofNat 256 w }] })]⟩ }

/-- An instruction that may issue, one that may not, one that reads a register which a pending load writes, and bytes that do not decode. -/
theorem witness_StepRunsDecodedInstruction :
    let wr : Pending := { pend (.value 6 7) with lah := 3, wregs := [6] }
    let add : Instr := .add { op with d := 6, a := 6, fn := 0xC0, imm22 := 0x3FFFFF }
    let ready (s : State) (b : ICBlock) : Prop :=
      Canonical s ∧ s.agenda = [.issue 0 0] ∧ s.mgmt.powered = true ∧ (s.latch? 0 0).map (fun l => l.intent) = some .run ∧ s.rowState 0 0 = 2
        ∧ (s.core 0).engTraps = [] ∧ s.quantumDue 0 0 = false ∧ (∀ p ∈ s.pendingOf 0 0, p.since < p.lah)
        ∧ (s.grove 0).icache.find? (fun k => k.part == s.partid 0 && k.codebase == (s.core 0).codebase
          && k.va == s.codeVa 0 (s.rowPc 0 0) / 32 * 32) = some b
    let block (w : Nat) : ICBlock := { part := 0, codebase := 0, va := 0x100, data := BitVec.ofNat 256 w }
    (∀ e ∈ [(0x4, []), (0xFFFFFF0000318040, [wr]), (0x3FC, []), (0x18C, [wr])], ready (fetched e.1 e.2) (block e.1))
      ∧ decodeBytes true 0 (bytesOfNat 32 0x4) = .ok (.instr (.nop op)) ∧ mayIssue (.nop op) (fetched 4 []) = true
      ∧ hazardCode (.nop op) (fetched 4 []) [] = none
      ∧ decodeBytes true 0 (bytesOfNat 32 0xFFFFFF0000318040) = .ok (.instr add) ∧ mayIssue add (fetched 4 [wr]) = true
      ∧ (hazardCode add (fetched 4 [wr]) [wr]).isSome = true
      ∧ decodeBytes true 0 (bytesOfNat 32 0x3FC) = .error .undefinedOpcode
      ∧ decodeBytes true 0 (bytesOfNat 32 0x18C) = .ok (.instr (.gbar op)) ∧ mayIssue (.gbar op) (fetched 4 [wr]) = false
      ∧ (WellFormed (.mnop 0) ∧ (Instr.mnop 0).operands? = none) := by
  simp only [Canonical]
  decide

/-- A pad word, with an instruction behind it in the same block. -/
theorem witness_StepRunsDecodedInstruction_pad :
    let s := fetched 0x400000003 []
    let bytes := bytesOfNat 32 0x400000003
    decodeBytes true 0 bytes = .ok .pad ∧ s.codeVa 0 (s.rowPc 0 0) = 0x100 ∧ 0x100 % 32 + 4 < 32 ∧ s.codeVa 0 (s.rowPc 0 0 + 1) = 0x100 + 4
      ∧ decodeBytes true 4 (bytes.drop 4) = .ok (.instr (.nop op)) ∧ mayIssue (.nop op) (s.setRowPc 0 0 0x41) = true := by decide

/-- A latch that is able, after which no other comes first, and one that comes after it. -/
theorem witness_StepRunsDecodedInstruction_passed :
    let s := withCore (fetched 0x4 []) (fun x => { x with last := 7, latches := x.latches ++ [{ latchOf 1 [] with idx := 3 }] })
    let u := { s with
      curCore := 0, curRow := 0
      mem := wordsMem [(slotKey 0 0 0, 0x0000103200000040#64), (slotKey 0 1 0, 0x0000103200000040#64)] }
    u.passedOver 0 0 = false ∧ (fetched 0x4 []).passedOver 0 0 = false ∧ ({ u with
      cores := ⟨[(0, { u.core 0 with latches := (u.core 0).latches.map (fun (l : Latch) => { l with block := some 0x100 }) })]⟩ }).passedOver
        0 3 = true := by decide

theorem witness_StepKeepsMemoryCanonical :
    Canonical (fetched 4 []) ∧ (match step (fetched 4 []) with
      | .next t => t.rowPc 0 0 == 0x42
      | _ => false) = true := by
  simp only [Canonical]
  decide

end Sys2Proof.Tests
end

section
/-! PROOF. Fields of an instruction and words as bit vectors: the model's arithmetic on numbers as the statements' on bits. -/

namespace Sys2Proof.Machine

open Sys2Proof.Safety

/-! ### Fields of an instruction -/

theorem fnAt_one_eq (o : Operands) (k : Nat) : (o.fnAt k 1 == 1) = o.fn.getLsbD k := by
  rw [← BitVec.testBit_toNat, Nat.testBit_eq_decide_div_mod_eq]
  rfl

@[simp] theorem Operands.useImm_eq (o : Operands) : o.useImm = o.fn.getLsbD 7 := fnAt_one_eq o 7
@[simp] theorem Operands.is32_eq (o : Operands) : o.is32 = o.fn.getLsbD 6 := fnAt_one_eq o 6
@[simp] theorem Operands.fn0_eq (o : Operands) : o.fn0 = o.fn.getLsbD 0 := fnAt_one_eq o 0

/-- The low n bits of FN. -/
theorem fnAt_zero (o : Operands) (n : Nat) : o.fnAt 0 n = o.fn.toNat % 2 ^ n := by
  simp [Operands.fnAt]

@[simp] theorem Operands.cc_eq (o : Operands) : o.cc = o.fn.toNat % 8 := fnAt_zero o 3

@[simp] theorem Operands.rm_eq (o : Operands) : o.rm = o.fn.toNat / 32 := by
  have := o.fn.isLt
  simp only [Operands.rm, Operands.fnAt]
  omega

@[simp] theorem State.intB_eq (s : State) (o : Operands) : s.intB o = operandB s o := by
  simp [State.intB, operandB]

@[simp] theorem Operands.intWidth_eq (o : Operands) : Operands.intWidth o = if o.fn.getLsbD 6 then 32 else 64 := by
  simp [Operands.intWidth]

/-! ### Words -/

@[simp] theorem bitAt_eq (w : Word) (i : Nat) : bitAt w i = w.getLsbD i := by
  rw [← BitVec.testBit_toNat, Nat.testBit_eq_decide_div_mod_eq]
  rfl

theorem word_getLsbD (n k : Nat) : (word n).getLsbD k = (decide (k < 64) && n.testBit k) := BitVec.getLsbD_ofNat ..

/-- A number of n bits as a word: the n-bit vector, zero-extended. -/
theorem word_eq_setWidth {n v : Nat} (h : v < 2 ^ n) : word v = (BitVec.ofNat n v).setWidth 64 := by
  apply BitVec.eq_of_toNat_eq
  rw [word_toNat, BitVec.toNat_setWidth, BitVec.toNat_ofNat, Nat.mod_eq_of_lt h]

theorem ofNat_msb (n x : Nat) : (BitVec.ofNat n x).msb = decide (2 ^ (n - 1) ≤ x % 2 ^ n) := by
  rw [BitVec.msb_eq_decide, BitVec.toNat_ofNat]

theorem sextNat_eq {n : Nat} (h64 : n ≤ 64) (x : Nat) : sextNat n x = (BitVec.ofNat n x).signExtend 64 := by
  have hlt : x % 2 ^ n < 2 ^ n := Nat.mod_lt _ (Nat.two_pow_pos n)
  have hle : 2 ^ n ≤ 2 ^ 64 := Nat.pow_le_pow_right (by omega) h64
  apply BitVec.eq_of_toNat_eq
  rw [BitVec.toNat_signExtend, ofNat_msb, BitVec.toNat_setWidth, BitVec.toNat_ofNat, Nat.mod_eq_of_lt (b := 2 ^ 64) (by omega), sextNat]
  by_cases hs : x % 2 ^ n < 2 ^ (n - 1)
  · rw [if_pos hs, if_neg (by simpa using hs), word_toNat]
    omega
  · rw [if_neg hs, if_pos (by simpa using hs), word_toNat]
    omega

/-- The low n bits of a number, read as signed. -/
theorem signedNat_eq (n x : Nat) : signedNat n x = (BitVec.ofNat n x).toInt := by
  have hlt : x % 2 ^ n < 2 ^ n := Nat.mod_lt _ (Nat.two_pow_pos n)
  have hhalf : x % 2 ^ n < 2 ^ (n - 1) ↔ 2 * (x % 2 ^ n) < 2 ^ n := by
    cases n with
    | zero => simp [Nat.mod_one]
    | succ n => rw [Nat.add_sub_cancel, Nat.pow_succ]; omega
  rw [BitVec.toInt_eq_toNat_cond, BitVec.toNat_ofNat, signedNat]
  simp only [hhalf]
  rfl

/-- The result of an integer form: the n-bit vector, sign-extended. -/
theorem intResult_eq (b : Bool) (x : Nat) :
    intResult (if b then 32 else 64) x = if b then (BitVec.ofNat 32 x).signExtend 64 else BitVec.ofNat 64 x := by
  cases b
  · rfl
  · exact sextNat_eq (by omega) x

/-! ### The ends of an instruction, as answers -/

/-- An instruction that ends with `finish` writes D and changes nothing else but PC. -/
theorem answers_of_finish {i : Instr} {s : State} {o : Operands} {v w : Word} (he : exec i s = .next (s.finish o v)) (hv : v = w) :
    Answers i s (fun t => WritesRegister s t o o.rd w) :=
  ⟨_, he, hv ▸ s.finish_writes o v⟩

/-- An instruction that ends with `pend`, of a row that has a latch, becomes pending with its operation. -/
theorem answers_of_pend {i j : Instr} {s : State} {o : Operands} {v w : Word}
    (he : exec i s = .next (s.pend j o (.value o.rd v) false)) (hv : v = w) (hl : (s.latch? s.curCore s.curRow).isSome = true) :
    Answers i s (fun t => BecomesPending s t o (.value o.rd w) false) :=
  ⟨_, he, hv ▸ s.pend_becomes j o (.value o.rd v) false hl⟩

end Sys2Proof.Machine
end

section
/-! PROOF. Compares, selects, addresses and bit fields (R134, R142 to R144). -/

namespace Sys2Proof.Machine

open Sys2Proof.Safety

/-! ### Compares and addresses (R142) -/

/-- `Cond` of R134 is the relation of its code on the operands at their width. -/
theorem intCond_eq_relation (c : Nat) (w : Bool) (x y : Word) :
    intCond c w x y = relation c (x.setWidth (if w then 32 else 64)) (y.setWidth (if w then 32 else 64)) := by
  generalize hn : (if w then 32 else 64 : Nat) = n
  have hu : ∀ z : Word, z.toNat % 2 ^ n = (z.setWidth n).toNat := fun z => (BitVec.toNat_setWidth ..).symm
  have hs : ∀ z : Word, signedNat n z.toNat = (z.setWidth n).toInt := fun z => by
    rw [signedNat_eq, BitVec.ofNat_toNat]
  unfold intCond
  simp only [hn, hu, hs]
  generalize x.setWidth n = a
  generalize y.setWidth n = b
  match c with
  | 0 => simp [relation, Bool.beq_eq_decide_eq, BitVec.toNat_inj]
  | 1 => simp [relation, bne, Bool.beq_eq_decide_eq, BitVec.toNat_inj]
  | 2 => exact BitVec.slt_eq_decide.symm
  | 3 => exact BitVec.sle_eq_decide.symm
  | 4 => exact BitVec.ult_eq_decide.symm
  | _ + 5 => exact BitVec.ule_eq_decide.symm

theorem intCond_eq_condition (o : Operands) (x y : Word) : intCond o.cc o.is32 x y = condition o x y := by
  rw [intCond_eq_relation, Operands.cc_eq, Operands.is32_eq, condition]
  cases o.fn.getLsbD 6 <;> simp

/-- Multiplying by a power of two shifts. -/
theorem mul_word_two_pow (x : Word) (k : Nat) : x * word (2 ^ k) = x <<< k := by
  rw [← BitVec.mul_twoPow_eq_shiftLeft]
  congr 1
  apply BitVec.eq_of_toNat_eq
  rw [word_toNat, BitVec.toNat_twoPow]

/-! ### Bit fields (R143) -/

theorem immAt_pos (o : Operands) : o.immAt 0 6 = o.imm22.toNat % 64 := by
  simp [Operands.immAt]

theorem immAt_len (o : Operands) : o.immAt 6 7 = o.imm22.toNat / 64 % 128 := rfl

/-- Bit k of what `bext` gives for the field of `len` bits from `pos`, zero- or sign-extended. -/
theorem bext_getLsbD (x : Word) {pos len k : Nat} (sgn : Bool) (h1 : 1 ≤ len) (h64 : pos + len ≤ 64) (hk : k < 64) :
    (if sgn then sextNat len (x.toNat / 2 ^ pos % 2 ^ len) else word (x.toNat / 2 ^ pos % 2 ^ len)).getLsbD k =
      if k < len then x.getLsbD (pos + k) else (sgn && x.getLsbD (pos + len - 1)) := by
  have hbit : ∀ j, (x.toNat / 2 ^ pos % 2 ^ len).testBit j = (decide (j < len) && x.getLsbD (pos + j)) := fun j => by
    rw [Nat.testBit_mod_two_pow, Nat.testBit_div_two_pow, BitVec.testBit_toNat, Nat.add_comm]
  cases sgn with
  | false =>
    rw [if_neg (by decide), word_getLsbD, hbit]
    by_cases hl : k < len <;> simp only [hk, hl, decide_true, decide_false, Bool.true_and, Bool.false_and, if_true, if_false]
  | true =>
    have htop : pos + len - 1 = pos + (len - 1) := by omega
    rw [if_pos rfl, sextNat_eq (by omega), BitVec.getLsbD_signExtend, BitVec.msb_eq_getLsbD_last, BitVec.getLsbD_ofNat,
      BitVec.getLsbD_ofNat, hbit, hbit, htop]
    by_cases hl : k < len <;> simp [hk, hl, show len - 1 < len by omega]

/-- Bit k of what `bins` gives: the low `len` bits of y from `pos` on, the bits of x elsewhere. -/
theorem bins_getLsbD (x y : Word) {pos len k : Nat} (hk : k < 64) :
    let mask := word ((2 ^ len - 1) * 2 ^ pos)
    ((x &&& ~~~mask) ||| ((y * word (2 ^ pos)) &&& mask)).getLsbD k =
      if pos ≤ k ∧ k < pos + len then y.getLsbD (k - pos) else x.getLsbD k := by
  intro mask
  have hmask : mask.getLsbD k = decide (pos ≤ k ∧ k < pos + len) := by
    rw [word_getLsbD, Nat.testBit_mul_two_pow, Nat.testBit_two_pow_sub_one]
    by_cases hp : pos ≤ k <;> simp [hk, hp]; omega
  rw [mul_word_two_pow, BitVec.getLsbD_or, BitVec.getLsbD_and, BitVec.getLsbD_and, BitVec.getLsbD_not, BitVec.getLsbD_shiftLeft, hmask]
  by_cases hf : pos ≤ k ∧ k < pos + len
  · simp [hf, hk, Nat.not_lt.2 hf.1]
  · simp [hf, hk]

/-! ### Counts of bits (R144) -/

/-- Bits below the operand width are those of the register. -/
theorem testBit_toNat_mod (x : Word) {n k : Nat} (hk : k < n) : (x.toNat % 2 ^ n).testBit k = x.getLsbD k := by
  rw [Nat.testBit_mod_two_pow, BitVec.testBit_toNat, decide_eq_true hk, Bool.true_and]

/-- The test of a bit by which the model counts. -/
theorem div_mod_beq_one (x : Nat) : (fun i => x / 2 ^ i % 2 == 1) = x.testBit := by
  funext i
  rw [Nat.testBit_eq_decide_div_mod_eq]
  rfl

theorem clzNat_le (n x : Nat) : clzNat n x ≤ n := by
  unfold clzNat
  split <;> omega

/-- `clz` counts the zero bits from the top down to the highest set one. -/
theorem clzNat_bits (x : Word) (n : Nat) :
    let v := clzNat n (x.toNat % 2 ^ n)
    (∀ k, k < v → x.getLsbD (n - 1 - k) = false) ∧ (v < n → x.getLsbD (n - 1 - v) = true) := by
  have hlt : x.toNat % 2 ^ n < 2 ^ n := Nat.mod_lt _ (Nat.two_pow_pos n)
  have hbit : ∀ k, k < n → (x.toNat % 2 ^ n).testBit k = x.getLsbD k := fun _ => testBit_toNat_mod x
  generalize x.toNat % 2 ^ n = y at hlt hbit
  intro v
  by_cases h0 : y = 0
  · have hv : v = n := if_pos h0
    exact ⟨fun k hk => by rw [← hbit _ (by omega), h0, Nat.zero_testBit], fun h => by omega⟩
  · have hlog : Nat.log2 y < n := (Nat.log2_lt h0).2 hlt
    have hv : v = n - 1 - Nat.log2 y := if_neg h0
    refine ⟨fun k hk => ?_, fun _ => ?_⟩
    · rw [← hbit _ (by omega)]
      exact Nat.testBit_lt_two_pow ((Nat.log2_lt h0).1 (by omega))
    · rw [show n - 1 - v = Nat.log2 y by omega, ← hbit _ hlog]
      exact Nat.testBit_log2 h0

theorem ctzNat_le (n x : Nat) : ctzNat n x ≤ n := by
  unfold ctzNat upto
  cases hf : (List.range n).find? (fun i => x / 2 ^ i % 2 == 1) with
  | none => exact le_refl n
  | some i => exact (List.mem_range.1 (List.mem_of_find?_eq_some hf)).le

/-- `ctz` counts the zero bits below the lowest set one. -/
theorem ctzNat_bits (x : Word) (n : Nat) :
    let v := ctzNat n (x.toNat % 2 ^ n)
    (∀ k, k < v → x.getLsbD k = false) ∧ (v < n → x.getLsbD v = true) := by
  have hbit : ∀ k, k < n → (x.toNat % 2 ^ n).testBit k = x.getLsbD k := fun _ => testBit_toNat_mod x
  unfold ctzNat upto
  rw [div_mod_beq_one]
  cases hf : (List.range n).find? (x.toNat % 2 ^ n).testBit with
  | none =>
    rw [List.find?_range_eq_none] at hf
    exact ⟨fun k hk => by rw [← hbit k hk, ← Bool.not_eq_true']; exact hf k hk, fun h => absurd h (lt_irrefl n)⟩
  | some i =>
    obtain ⟨hset, hmem, hlow⟩ := List.find?_range_eq_some.1 hf
    have hi : i < n := List.mem_range.1 hmem
    exact ⟨fun k hk => by rw [← hbit k (hk.trans hi), ← Bool.not_eq_true']; exact hlow k hk, fun _ => (hbit i hi).symm.trans hset⟩

theorem popNat_le (n x : Nat) : popNat n x ≤ n :=
  (List.length_filter_le ..).trans_eq List.length_range

theorem popNat_eq (x : Word) (n : Nat) :
    popNat n (x.toNat % 2 ^ n) = ((List.range n).filter (fun k => x.getLsbD k)).length := by
  unfold popNat upto
  rw [div_mod_beq_one, List.filter_congr (fun k hk => testBit_toNat_mod x (List.mem_range.1 hk))]

/-- A count of at most the operand width as a word. -/
theorem State.countOp_toNat (s : State) (o : Operands) {f : Nat → Nat → Nat} (hf : ∀ n x, f n x ≤ n) :
    let w : Nat := if o.fn.getLsbD 6 then 32 else 64
    (s.countOp o f).toNat = f w ((s.reg o.ra).toNat % 2 ^ w) := by
  have hw : (if o.fn.getLsbD 6 then 32 else 64 : Nat) ≤ 64 := by split <;> omega
  rw [State.countOp, Operands.intWidth_eq, word_toNat]
  exact Nat.mod_eq_of_lt ((hf ..).trans_lt (hw.trans_lt (by omega)))

/-! ### Multiply and add (R144) -/

theorem madd_eq (o : Operands) (x y z : Word) :
    intResult (if o.fn.getLsbD 6 then 32 else 64) ((x.toNat * y.toNat + z.toNat) % 2 ^ (if o.fn.getLsbD 6 then 32 else 64))
      = intForm o (fun a b => a + b) (x * y) z := by
  rw [intResult_eq, intForm]
  cases o.fn.getLsbD 6 with
  | false =>
    apply BitVec.eq_of_toNat_eq
    simp
  | true =>
    simp only [if_true]
    congr 1
    apply BitVec.eq_of_toNat_eq
    simp only [BitVec.toNat_ofNat, BitVec.toNat_add, BitVec.toNat_setWidth, BitVec.toNat_mul]
    omega

end Sys2Proof.Machine

namespace Sys2Proof

open Sys2Proof.Machine Sys2Proof.Safety

/-- Settles O3. Every one of these instructions ends with `finish`, so what is left is the value: the bits of a field and of its mask, the
bit where a count stops, and `Cond` at the operand width. -/
theorem comparesAndBitFields : Obligations.ComparesAndBitFields := by
  refine ⟨fun s o => ⟨fun _ => ?_, ?_, ?_, ?_⟩, fun s o => ?_⟩
  · exact answers_of_finish rfl (by rw [intCond_eq_condition, State.intB_eq])
  · exact answers_of_finish rfl rfl
  · exact answers_of_finish rfl rfl
  · exact answers_of_finish rfl (by rw [mul_word_two_pow, fnAt_zero]; rfl)
  · intro x y pos len w puts
    refine ⟨fun h1 h64 => ⟨_, answers_of_finish rfl rfl, fun k hk => ?_⟩,
      fun _ _ => ⟨_, answers_of_finish rfl rfl, fun k hk => ?_⟩,
      ⟨_, answers_of_finish rfl rfl, ?_⟩, ⟨_, answers_of_finish rfl rfl, ?_⟩, ⟨_, answers_of_finish rfl rfl, ?_⟩,
      ⟨_, answers_of_finish rfl rfl, ?_⟩⟩
    · rw [Operands.fn0_eq, immAt_pos, immAt_len]
      exact bext_getLsbD x _ h1 h64 hk
    · rw [immAt_pos, immAt_len]
      exact bins_getLsbD x y hk
    · simp only [s.countOp_toNat o clzNat_le]
      exact ⟨clzNat_le .., clzNat_bits x w⟩
    · simp only [s.countOp_toNat o ctzNat_le]
      exact ⟨ctzNat_le .., ctzNat_bits x w⟩
    · exact (s.countOp_toNat o popNat_le).trans (popNat_eq x w)
    · rw [Operands.intWidth_eq]
      exact madd_eq o x y (s.reg o.rc)

end Sys2Proof
end

section
/-! PROOF. FP32 codes and their exact values (R48, R49, R52, R53): which code is which value, and that a rounded result is a code. -/

namespace Sys2Proof.Machine

open Sys2Proof.Safety

/-! ### Rounded results are codes -/

/-- A format with infinities and NaN, whose codes without their sign stay below the sign bit. -/
structure Fmt.Bounded (f : Fmt) : Prop where
  ieee : f.special = .ieee
  width_pos : 0 < f.width
  maxCode_lt : f.maxCode < 2 ^ (f.width - 1)
  nanCode_lt : (2 ^ (f.width - 1 - f.mbits) - 1) * 2 ^ f.mbits + 2 ^ (f.mbits - 1) < 2 ^ (f.width - 1)

theorem Fmt.fp32_bounded : Fmt.fp32.Bounded := ⟨rfl, by decide, by decide, by decide⟩
theorem Fmt.bf16_bounded : Fmt.bf16.Bounded := ⟨rfl, by decide, by decide, by decide⟩

section
variable {f : Fmt}

theorem Fmt.Bounded.signBit_add_lt (h : f.Bounded) (neg : Bool) {x : Nat} (hx : x < 2 ^ (f.width - 1)) :
    f.signBit neg + x < 2 ^ f.width := by
  have hdouble : 2 ^ f.width = 2 * 2 ^ (f.width - 1) := by rw [← Nat.pow_succ', Nat.succ_eq_add_one, Nat.sub_add_cancel h.width_pos]
  cases neg <;> simp only [Fmt.signBit, Bool.toNat_false, Bool.toNat_true] <;> omega

theorem Fmt.Bounded.signBit_lt (h : f.Bounded) (neg : Bool) : f.signBit neg < 2 ^ f.width :=
  h.signBit_add_lt neg (Nat.two_pow_pos _)

theorem Fmt.Bounded.infCode_lt (h : f.Bounded) (neg : Bool) : f.infCode neg < 2 ^ f.width :=
  h.signBit_add_lt neg (lt_of_le_of_lt (Nat.le_add_right ..) h.nanCode_lt)

theorem Fmt.Bounded.nanOut_lt (h : f.Bounded) : f.nanOut < 2 ^ f.width := by
  have hpos := h.signBit_add_lt false h.nanCode_lt
  simp only [Fmt.nanOut, h.ieee]
  omega

theorem Fmt.Bounded.round_lt (h : f.Bounded) (neg : Bool) (n : Nat) (e : Int) (sticky : Bool) (rm : Nat) (ovf : Bool) :
    f.round neg n e sticky rm ovf < 2 ^ f.width := by
  have hmax := h.maxCode_lt
  unfold Fmt.round
  simp only
  split
  · simp only [Fmt.overflow, h.ieee]
    split
    · exact h.infCode_lt neg
    · exact h.signBit_add_lt neg hmax
  · exact h.signBit_add_lt neg (by omega)

theorem Fmt.Bounded.rnd_lt (h : f.Bounded) (rm : Nat) (ovf : Bool) (v : Val) : rnd f rm ovf v < 2 ^ f.width := by
  cases v with
  | nan => exact h.nanOut_lt
  | inf neg => simp only [rnd, Fmt.infOut, h.ieee]; exact h.infCode_lt neg
  | zero neg => exact h.signBit_lt neg
  | fin neg m e => exact h.round_lt ..

theorem Fmt.Bounded.divRnd_lt (h : f.Bounded) (rm : Nat) (ovf : Bool) (x y : Val) : divRnd f rm ovf x y < 2 ^ f.width := by
  unfold divRnd
  split
  case h_1 | h_2 | h_3 | h_4 | h_5 | h_6 => exact h.nanOut_lt
  case h_7 | h_8 | h_9 => exact h.infCode_lt _
  case h_10 | h_11 | h_12 => exact h.signBit_lt _
  case h_13 => exact h.round_lt ..

theorem Fmt.Bounded.sqrtRnd_lt (h : f.Bounded) (rm : Nat) (ovf : Bool) (x : Val) : sqrtRnd f rm ovf x < 2 ^ f.width := by
  cases x with
  | nan => exact h.nanOut_lt
  | inf s => cases s <;> [exact h.infCode_lt false; exact h.nanOut_lt]
  | zero s => exact h.signBit_lt s
  | fin s m e => cases s <;> [exact h.round_lt ..; exact h.nanOut_lt]

end

/-! ### Codes -/

/-- The code without its sign. -/
def fpMag (a : BitVec 32) : Nat := a.toNat % 2 ^ 31

theorem fpExponent_toNat (a : BitVec 32) : (a.extractLsb' 23 8).toNat = fpMag a / 2 ^ 23 := by
  rw [BitVec.extractLsb'_toNat, Nat.shiftRight_eq_div_pow, fpMag]
  omega

theorem fpFraction_toNat (a : BitVec 32) : (a.extractLsb' 0 23).toNat = fpMag a % 2 ^ 23 := by
  rw [BitVec.extractLsb'_toNat, Nat.shiftRight_zero, fpMag]
  omega

theorem fpNan_iff (a : BitVec 32) : fpNan a = true ↔ 0x7F800000 < fpMag a := by
  have hlt : fpMag a < 2 ^ 31 := Nat.mod_lt _ (by decide)
  rw [fpNan, Bool.and_eq_true, beq_iff_eq, bne_iff_ne, Ne, ← BitVec.toNat_inj, ← BitVec.toNat_inj, fpExponent_toNat, fpFraction_toNat,
    BitVec.toNat_ofNat, BitVec.toNat_ofNat]
  omega

theorem fpInf_iff (a : BitVec 32) : fpInf a = true ↔ fpMag a = 0x7F800000 := by
  have hlt : fpMag a < 2 ^ 31 := Nat.mod_lt _ (by decide)
  rw [fpInf, Bool.and_eq_true, beq_iff_eq, beq_iff_eq, ← BitVec.toNat_inj, ← BitVec.toNat_inj, fpExponent_toNat, fpFraction_toNat,
    BitVec.toNat_ofNat, BitVec.toNat_ofNat]
  omega

theorem fpZero_iff (a : BitVec 32) : fpZero a = true ↔ fpMag a = 0 := by
  rw [fpZero, beq_iff_eq, ← BitVec.toNat_inj, BitVec.extractLsb'_toNat]
  rfl

theorem fpSign_eq (a : BitVec 32) : (a.toNat / 2 ^ 31 % 2 == 1) = a.getLsbD 31 := by
  rw [← BitVec.testBit_toNat, Nat.testBit_eq_decide_div_mod_eq]
  rfl

/-- The significand of a finite code, in units of its last place. -/
def fpSig (mag : Nat) : Nat := if mag / 2 ^ 23 = 0 then mag % 2 ^ 23 else 2 ^ 23 + mag % 2 ^ 23

/-- The exponent of that unit, 150 too large: exponents 0 and 1 have the same. -/
def fpScale (mag : Nat) : Nat := max (mag / 2 ^ 23) 1

/-- The exact value of a code (R49). -/
theorem decode_fp32 (a : BitVec 32) :
    Fmt.fp32.decode a.toNat =
      if fpNan a then .nan else if fpInf a then .inf (a.getLsbD 31) else if fpZero a then .zero (a.getLsbD 31)
      else .fin (a.getLsbD 31) (fpSig (fpMag a)) (fpScale (fpMag a) - 150) := by
  have hlt : fpMag a < 2 ^ 31 := Nat.mod_lt _ (by decide)
  have hd : Fmt.fp32.decode a.toNat =
      if fpMag a / 2 ^ 23 = 255 then (if fpMag a % 2 ^ 23 = 0 then .inf (a.getLsbD 31) else .nan)
      else if fpMag a / 2 ^ 23 = 0 then Val.mk (a.getLsbD 31) (fpMag a % 2 ^ 23) (1 - 127 - 23)
      else .fin (a.getLsbD 31) (2 ^ 23 + fpMag a % 2 ^ 23) ((fpMag a / 2 ^ 23 : Nat) - 127 - 23) := by
    rw [← fpSign_eq]
    rfl
  rw [hd]
  simp only [fpNan_iff, fpInf_iff, fpZero_iff, Val.mk, fpSig, fpScale]
  generalize fpMag a = m at hlt
  by_cases htop : m / 2 ^ 23 = 255
  · rw [if_pos htop]
    by_cases hfrac : m % 2 ^ 23 = 0
    · rw [if_pos hfrac, if_neg (by omega), if_pos (by omega)]
    · rw [if_neg hfrac, if_pos (by omega)]
  · rw [if_neg htop, if_neg (show ¬ 0x7F800000 < m by omega), if_neg (show ¬ m = 0x7F800000 by omega)]
    by_cases hsub : m / 2 ^ 23 = 0
    · rw [if_pos hsub, if_pos hsub, hsub]
      by_cases hfrac : m % 2 ^ 23 = 0
      · rw [if_pos hfrac, if_pos (by omega)]
      · rw [if_neg hfrac, if_neg (by omega)]
        rfl
    · rw [if_neg hsub, if_neg hsub, if_neg (by omega)]
      congr 1
      omega

theorem decode_of_fpNan {a : BitVec 32} (h : fpNan a = true) : Fmt.fp32.decode a.toNat = .nan := by
  rw [decode_fp32, if_pos h]

theorem decode_of_fpInf {a : BitVec 32} (h : fpInf a = true) : Fmt.fp32.decode a.toNat = .inf (a.getLsbD 31) := by
  have hmag := (fpInf_iff a).1 h
  rw [decode_fp32, if_neg (by rw [fpNan_iff]; omega), if_pos h]

theorem decode_of_fpZero {a : BitVec 32} (h : fpZero a = true) : Fmt.fp32.decode a.toNat = .zero (a.getLsbD 31) := by
  have hmag := (fpZero_iff a).1 h
  rw [decode_fp32, if_neg (by rw [fpNan_iff]; omega), if_neg (by rw [fpInf_iff]; omega), if_pos h]

/-- A code that is no NaN is an infinity, a zero or a finite value, by its magnitude. -/
theorem decode_cases {a : BitVec 32} (h : ¬ fpNan a = true) :
    (fpMag a = 0x7F800000 ∧ Fmt.fp32.decode a.toNat = .inf (a.getLsbD 31))
      ∨ (fpMag a = 0 ∧ Fmt.fp32.decode a.toNat = .zero (a.getLsbD 31))
      ∨ (0 < fpMag a ∧ fpMag a < 0x7F800000
        ∧ Fmt.fp32.decode a.toNat = .fin (a.getLsbD 31) (fpSig (fpMag a)) (fpScale (fpMag a) - 150)) := by
  by_cases hinf : fpInf a = true
  · exact .inl ⟨(fpInf_iff a).1 hinf, decode_of_fpInf hinf⟩
  · by_cases hzero : fpZero a = true
    · exact .inr (.inl ⟨(fpZero_iff a).1 hzero, decode_of_fpZero hzero⟩)
    · refine .inr (.inr ⟨?_, ?_, by rw [decode_fp32, if_neg h, if_neg hinf, if_neg hzero]⟩)
      · exact Nat.pos_of_ne_zero (fun hz => hzero ((fpZero_iff a).2 hz))
      · rw [fpNan_iff] at h
        rw [fpInf_iff] at hinf
        omega

theorem decode_isNan (a : BitVec 32) : (Fmt.fp32.decode a.toNat).isNan = fpNan a := by
  by_cases h : fpNan a = true
  · rw [decode_of_fpNan h, h, Val.isNan]
  · rw [Bool.not_eq_true] at h
    rw [h]
    obtain ⟨-, hd⟩ | ⟨-, hd⟩ | ⟨-, -, hd⟩ := decode_cases (a := a) (by simp [h]) <;> rw [hd, Val.isNan]

theorem fpSigned_toNat (neg : Bool) (m : BitVec 31) : (fpSigned neg m).toNat = neg.toNat * 2 ^ 31 + m.toNat := by
  rw [fpSigned, BitVec.toNat_append, ← Nat.shiftLeft_add_eq_or_of_lt m.isLt, Nat.shiftLeft_eq, BitVec.toNat_ofBool]

/-- The FP32 code of register k's low half. -/
theorem State.fval_eq (s : State) (k : Nat) : s.fval k = Fmt.fp32.decode ((s.reg k).setWidth 32).toNat := by
  rw [State.fval, BitVec.toNat_setWidth]

theorem fp32Word_eq (rm : Nat) (v : Val) : fp32Word rm v = (BitVec.ofNat 32 (rnd .fp32 rm true v)).setWidth 64 :=
  word_eq_setWidth (Fmt.fp32_bounded.rnd_lt rm true v)

end Sys2Proof.Machine
end

section
/-! PROOF. Scalar FP32 arithmetic and its special operands (R146). -/

namespace Sys2Proof.Machine

open Sys2Proof.Safety

/-! ### Special operands of the exact operations -/

theorem Val.add_nan {x y : Val} (rm : Nat) (h : x = .nan ∨ y = .nan) : Val.add rm x y = .nan := by
  obtain rfl | rfl := h
  · rfl
  · cases x <;> rfl

theorem Val.mul_nan {x y : Val} (h : x = .nan ∨ y = .nan) : x.mul y = .nan := by
  obtain rfl | rfl := h
  · rfl
  · cases x <;> rfl

theorem Val.neg_nan {x : Val} (h : x = .nan) : x.neg = .nan := by rw [h]; rfl

theorem Val.add_inf_ne (rm : Nat) {s t : Bool} (h : s ≠ t) : Val.add rm (.inf s) (.inf t) = .nan := if_neg h

theorem divRnd_nan {f : Fmt} (rm : Nat) (ovf : Bool) {x y : Val} (h : x = .nan ∨ y = .nan) : divRnd f rm ovf x y = f.nanOut := by
  obtain rfl | rfl := h
  · rfl
  · cases x <;> rfl

theorem sqrtRnd_nan (f : Fmt) (rm : Nat) (ovf : Bool) : sqrtRnd f rm ovf .nan = f.nanOut := rfl

/-! ### Special operands by their codes -/

/-- A product of a zero and an infinity. -/
theorem decode_mul_zero_inf {a b : BitVec 32} (h : (fpZero a ∧ fpInf b) ∨ (fpInf a ∧ fpZero b)) :
    (Fmt.fp32.decode a.toNat).mul (Fmt.fp32.decode b.toNat) = .nan := by
  obtain ⟨ha, hb⟩ | ⟨ha, hb⟩ := h
  · rw [decode_of_fpZero ha, decode_of_fpInf hb]; rfl
  · rw [decode_of_fpInf ha, decode_of_fpZero hb]; rfl

/-- Equal infinities and two zeros have no quotient. -/
theorem divRnd_undefined {a b : BitVec 32} (rm : Nat) (h : (fpZero a ∧ fpZero b) ∨ (fpInf a ∧ fpInf b)) :
    divRnd .fp32 rm true (Fmt.fp32.decode a.toNat) (Fmt.fp32.decode b.toNat) = Fmt.fp32.nanOut := by
  obtain ⟨ha, hb⟩ | ⟨ha, hb⟩ := h
  · rw [decode_of_fpZero ha, decode_of_fpZero hb]; rfl
  · rw [decode_of_fpInf ha, decode_of_fpInf hb]; rfl

/-- Division by zero of anything but a zero or a NaN gives an infinity. -/
theorem divRnd_by_zero {a b : BitVec 32} (rm : Nat) (ha : ¬ fpNan a) (hz : ¬ fpZero a) (hb : fpZero b) :
    divRnd .fp32 rm true (Fmt.fp32.decode a.toNat) (Fmt.fp32.decode b.toNat) = Fmt.fp32.infCode (a.getLsbD 31 != b.getLsbD 31) := by
  rw [decode_of_fpZero hb]
  obtain ⟨-, hd⟩ | ⟨hmag, -⟩ | ⟨-, -, hd⟩ := decode_cases ha
  · rw [hd]; rfl
  · exact absurd ((fpZero_iff a).2 hmag) hz
  · rw [hd]; rfl

/-- Division of anything but an infinity or a NaN by an infinity gives a zero. -/
theorem divRnd_by_inf {a b : BitVec 32} (rm : Nat) (ha : ¬ fpNan a) (hi : ¬ fpInf a) (hb : fpInf b) :
    divRnd .fp32 rm true (Fmt.fp32.decode a.toNat) (Fmt.fp32.decode b.toNat) = Fmt.fp32.signBit (a.getLsbD 31 != b.getLsbD 31) := by
  rw [decode_of_fpInf hb]
  obtain ⟨hmag, -⟩ | ⟨-, hd⟩ | ⟨-, -, hd⟩ := decode_cases ha
  · exact absurd ((fpInf_iff a).2 hmag) hi
  · rw [hd]; rfl
  · rw [hd]; rfl

/-- A negative operand but −0 has no square root. -/
theorem sqrtRnd_negative {a : BitVec 32} (rm : Nat) (ha : ¬ fpNan a) (hz : ¬ fpZero a) (hs : a.getLsbD 31 = true) :
    sqrtRnd .fp32 rm true (Fmt.fp32.decode a.toNat) = Fmt.fp32.nanOut := by
  obtain ⟨-, hd⟩ | ⟨hmag, -⟩ | ⟨-, -, hd⟩ := decode_cases ha
  · rw [hd, hs]; rfl
  · exact absurd ((fpZero_iff a).2 hmag) hz
  · rw [hd, hs]; rfl

/-! ### The codes of special results -/

theorem sqrtRnd_negZero (rm : Nat) :
    BitVec.ofNat 32 (sqrtRnd .fp32 rm true (Fmt.fp32.decode (0x80000000#32).toNat)) = 0x80000000#32 := rfl

theorem sqrtRnd_posInf (rm : Nat) :
    BitVec.ofNat 32 (sqrtRnd .fp32 rm true (Fmt.fp32.decode (0x7F800000#32).toNat)) = 0x7F800000#32 := rfl

theorem nanOut_code : BitVec.ofNat 32 Fmt.fp32.nanOut = fpCanonical := rfl

theorem infCode_code (neg : Bool) : BitVec.ofNat 32 (Fmt.fp32.infCode neg) = fpSigned neg 0x7F800000#31 := by
  cases neg <;> rfl

theorem signBit_code (neg : Bool) : BitVec.ofNat 32 (Fmt.fp32.signBit neg) = fpSigned neg 0#31 := by
  cases neg <;> rfl

end Sys2Proof.Machine

namespace Sys2Proof

open Sys2Proof.Machine Sys2Proof.Safety

/-- Settles O7. The four short forms end with `finish` and the two long ones with `pend`; each row of the table of R146 is then the value
that the exact operation gives for the operands' codes. -/
theorem floatArithmetic : Obligations.FloatArithmetic := by
  intro s o rm a b c val rounded opp short long
  have hadd : short (.fadd o) (rounded (Val.add rm (val a) (val b))) :=
    answers_of_finish rfl (by rw [fp32Word_eq, Operands.rm_eq, State.fval_eq, State.fval_eq])
  have hsub : short (.fsub o) (rounded (Val.add rm (val a) (val b).neg)) :=
    answers_of_finish rfl (by rw [fp32Word_eq, Operands.rm_eq, State.fval_eq, State.fval_eq])
  have hmul : short (.fmul o) (rounded ((val a).mul (val b))) :=
    answers_of_finish rfl (by rw [fp32Word_eq, Operands.rm_eq, State.fval_eq, State.fval_eq])
  have hfma : short (.ffma o) (rounded (Val.add rm ((val a).mul (val b)) (val c))) :=
    answers_of_finish rfl (by rw [fp32Word_eq, Operands.rm_eq, State.fval_eq, State.fval_eq, State.fval_eq])
  have hdiv : long (.fdiv o) (BitVec.ofNat 32 (divRnd .fp32 rm true (val a) (val b))) :=
    answers_of_pend rfl (by
      rw [word_eq_setWidth (n := 32) (Fmt.fp32_bounded.divRnd_lt ..), Operands.rm_eq, State.fval_eq, State.fval_eq])
  have hsqrt : long (.fsqrt o) (BitVec.ofNat 32 (sqrtRnd .fp32 rm true (val a))) :=
    answers_of_pend rfl (by rw [word_eq_setWidth (n := 32) (Fmt.fp32_bounded.sqrtRnd_lt ..), Operands.rm_eq, State.fval_eq])
  have hcanon : rounded .nan = fpCanonical := nanOut_code
  have hnan : ∀ {x y : BitVec 32}, fpNan x ∨ fpNan y → val x = .nan ∨ val y = .nan := Or.imp decode_of_fpNan decode_of_fpNan
  have hinf : ∀ {x : BitVec 32}, fpInf x → val x = .inf (x.getLsbD 31) := decode_of_fpInf
  clear_value short long rounded
  refine ⟨hadd, hsub, hmul, hfma, hdiv, hsqrt, fun h => ⟨?_, ?_, ?_, ?_⟩, fun h => ?_, fun h => ?_, fun ha hb hs => ?_,
    fun ha hb hs => ?_, fun h => ⟨?_, ?_⟩, fun ha hz hb => ?_, fun h => ?_, fun ha hi hb => ?_, fun h => ?_,
    fun h => ?_, fun ha hz hs => ?_⟩
  · rwa [Val.add_nan rm (hnan h), hcanon] at hadd
  · rwa [Val.add_nan rm ((hnan h).imp_right Val.neg_nan), hcanon] at hsub
  · rwa [Val.mul_nan (hnan h), hcanon] at hmul
  · rwa [divRnd_nan rm true (hnan h), nanOut_code] at hdiv
  · rwa [Val.add_nan rm (h.elim (fun ha => .inl (Val.mul_nan (.inl (decode_of_fpNan ha))))
      (fun h => (hnan h).imp_left (fun hb => Val.mul_nan (.inr hb)))), hcanon] at hfma
  · rwa [show val a = .nan from decode_of_fpNan h, sqrtRnd_nan, nanOut_code] at hsqrt
  · rwa [hinf ha, hinf hb, Val.add_inf_ne rm (bne_iff_ne.1 hs), hcanon] at hadd
  · rwa [hinf ha, hinf hb, Val.neg,
      Val.add_inf_ne rm (by rw [bne_eq_false_iff_eq.1 hs]; cases b.getLsbD 31 <;> decide), hcanon] at hsub
  · rwa [decode_mul_zero_inf h, hcanon] at hmul
  · rwa [decode_mul_zero_inf h, Val.add_nan rm (.inl rfl), hcanon] at hfma
  · rwa [divRnd_by_zero rm ha hz hb, infCode_code] at hdiv
  · rwa [divRnd_undefined rm h, nanOut_code] at hdiv
  · rwa [divRnd_by_inf rm ha hi hb, signBit_code] at hdiv
  · rwa [h, sqrtRnd_negZero] at hsqrt
  · rwa [h, sqrtRnd_posInf] at hsqrt
  · rwa [sqrtRnd_negative rm ha hz hs, nanOut_code] at hsqrt

end Sys2Proof
end

section
/-! PROOF. FP32 compares, signs, classes and conversions (R147 to R151): codes ordered as their values. -/

namespace Sys2Proof.Machine

open Sys2Proof.Safety

/-! ### Codes are ordered as their values -/

/-- A magnitude with a sign, as an integer. -/
def signedMag (neg : Bool) (m : Nat) : Int := if neg then -Int.ofNat m else Int.ofNat m

theorem fpKey_eq (a : BitVec 32) : fpKey a = signedMag (a.getLsbD 31) (fpMag a) := rfl

theorem scaled_eq (neg : Bool) (m : Nat) (e lo : Int) : scaled neg m e lo = signedMag neg (m * 2 ^ (e - lo).toNat) := rfl

/-- Signed magnitudes compare alike where the magnitudes do. -/
theorem signedMag_lt_iff {m n M N : Nat} (s t : Bool) (hm : 0 < m ∧ 0 < M) (hlt : M < N ↔ m < n) (hgt : N < M ↔ n < m) :
    signedMag s M < signedMag t N ↔ signedMag s m < signedMag t n := by
  cases s <;> cases t <;> simp only [signedMag, Bool.false_eq_true, if_true, if_false, Int.ofNat_eq_natCast] <;> omega

/-- A greater magnitude has a scale that is no smaller, and more units at the smaller scale. -/
theorem fpSig_lt_of_lt {m n : Nat} (h : m < n) :
    fpScale m ≤ fpScale n ∧ fpSig m < fpSig n * 2 ^ (fpScale n - fpScale m) := by
  have hscale : fpScale m ≤ fpScale n := by
    unfold fpScale
    omega
  refine ⟨hscale, ?_⟩
  by_cases heq : fpScale n = fpScale m
  · rw [heq, Nat.sub_self, Nat.pow_zero, Nat.mul_one]
    unfold fpSig
    unfold fpScale at heq
    split <;> split <;> omega
  · have hm : fpSig m < 2 ^ 23 * 2 := by
      unfold fpSig
      split <;> omega
    have hn : 2 ^ 23 ≤ fpSig n := by
      unfold fpSig
      unfold fpScale at heq hscale
      split <;> omega
    have hpow : 2 ≤ 2 ^ (fpScale n - fpScale m) := Nat.le_self_pow (by omega) 2
    exact hm.trans_le (Nat.mul_le_mul hn hpow)

/-- Units at the smaller scale compare as the magnitudes. -/
theorem fpUnits_lt_iff (m n : Nat) :
    fpSig m * 2 ^ (fpScale m - fpScale n) < fpSig n * 2 ^ (fpScale n - fpScale m) ↔ m < n := by
  obtain hlt | rfl | hgt := lt_trichotomy m n
  · obtain ⟨hscale, hsig⟩ := fpSig_lt_of_lt hlt
    rw [Nat.sub_eq_zero_of_le hscale, Nat.pow_zero, Nat.mul_one]
    exact iff_of_true hsig hlt
  · simp
  · obtain ⟨hscale, hsig⟩ := fpSig_lt_of_lt hgt
    rw [Nat.sub_eq_zero_of_le hscale, Nat.pow_zero, Nat.mul_one]
    exact iff_of_false hsig.not_gt hgt.not_gt

theorem fpSig_pos {m : Nat} (h : 0 < m) : 0 < fpSig m := by
  unfold fpSig
  split <;> omega

/-- Finite values of codes. -/
theorem lt_fin_iff (s t : Bool) {m : Nat} (n : Nat) (hm : 0 < m) :
    (Val.fin s (fpSig m) (fpScale m - 150)).lt (.fin t (fpSig n) (fpScale n - 150)) = true ↔ signedMag s m < signedMag t n := by
  have hp : ((fpScale m : Int) - 150 - min (fpScale m - 150 : Int) (fpScale n - 150)).toNat = fpScale m - fpScale n := by omega
  have hq : ((fpScale n : Int) - 150 - min (fpScale m - 150 : Int) (fpScale n - 150)).toNat = fpScale n - fpScale m := by omega
  rw [Val.lt, decide_eq_true_iff, scaled_eq, scaled_eq, hp, hq]
  exact signedMag_lt_iff s t ⟨hm, Nat.mul_pos (fpSig_pos hm) (Nat.two_pow_pos _)⟩ (fpUnits_lt_iff m n) (fpUnits_lt_iff n m)

/-- The values of two codes, neither a NaN, are ordered as the codes' keys. -/
theorem decode_lt_iff {a b : BitVec 32} (ha : ¬ fpNan a) (hb : ¬ fpNan b) :
    (Fmt.fp32.decode a.toNat).lt (Fmt.fp32.decode b.toNat) = true ↔ fpKey a < fpKey b := by
  rw [fpKey_eq, fpKey_eq]
  generalize hs : a.getLsbD 31 = s
  generalize ht : b.getLsbD 31 = t
  obtain ⟨hm, hx⟩ | ⟨hm, hx⟩ | ⟨hm, hm', hx⟩ := decode_cases ha <;>
    obtain ⟨hn, hy⟩ | ⟨hn, hy⟩ | ⟨hn, hn', hy⟩ := decode_cases hb <;>
    rw [hx, hy, hs, ht]
  case inr.inr.inr.inr => exact lt_fin_iff s t _ hm
  all_goals
    cases s <;> cases t <;>
      simp only [Val.lt, signedMag, Bool.not_true, Bool.not_false, Bool.and_true, Bool.and_false, Bool.false_eq_true, if_true, if_false,
        Int.ofNat_eq_natCast, true_iff, false_iff] <;> omega

theorem decode_lt (a b : BitVec 32) :
    (Fmt.fp32.decode a.toNat).lt (Fmt.fp32.decode b.toNat) = (!fpNan a && !fpNan b && decide (fpKey a < fpKey b)) := by
  by_cases ha : fpNan a = true
  · rw [decode_of_fpNan ha, ha]
    rfl
  · by_cases hb : fpNan b = true
    · rw [decode_of_fpNan hb, hb, Bool.not_true, Bool.and_false, Bool.false_and]
      cases Fmt.fp32.decode a.toNat <;> rfl
    · rw [Bool.eq_iff_iff, decode_lt_iff ha hb]
      simp [ha, hb]

theorem decode_isZero (a : BitVec 32) : (Fmt.fp32.decode a.toNat).isZero = fpZero a := by
  rw [Bool.eq_iff_iff, fpZero_iff]
  by_cases ha : fpNan a = true
  · have hmag := (fpNan_iff a).1 ha
    rw [decode_of_fpNan ha]
    exact iff_of_false (by decide) (by omega)
  · obtain ⟨hm, hx⟩ | ⟨hm, hx⟩ | ⟨hm, -, hx⟩ := decode_cases ha <;> rw [hx, Val.isZero]
    · exact iff_of_false (by decide) (by omega)
    · exact iff_of_true rfl hm
    · exact iff_of_false (by decide) (by omega)

theorem decode_isNeg {a : BitVec 32} (ha : ¬ fpNan a) : (Fmt.fp32.decode a.toNat).isNeg = a.getLsbD 31 := by
  obtain ⟨-, hx⟩ | ⟨-, hx⟩ | ⟨-, -, hx⟩ := decode_cases ha <;> rw [hx, Val.isNeg]

theorem decode_below {a b : BitVec 32} (ha : ¬ fpNan a) (hb : ¬ fpNan b) :
    (Fmt.fp32.decode a.toNat).below (Fmt.fp32.decode b.toNat) = fpBelow a b := by
  have hlt : (Fmt.fp32.decode a.toNat).lt (Fmt.fp32.decode b.toNat) = decide (fpKey a < fpKey b) := by
    rw [Bool.eq_iff_iff, decode_lt_iff ha hb, decide_eq_true_iff]
  rw [Val.below, fpBelow, hlt, decode_isZero, decode_isZero, decode_isNeg ha, decode_isNeg hb]

/-! ### `fmin`, `fmax` and `fcmp.cc` (R147, R148) -/

theorem State.low32_eq (s : State) (k : Nat) : s.low32 k = ((s.reg k).setWidth 32).toNat := by
  rw [State.low32, BitVec.toNat_setWidth]

/-- A code as a word. -/
theorem word_code (a : BitVec 32) : word a.toNat = a.setWidth 64 := BitVec.ofNat_toNat ..

/-- The operand's code that `fmin` or `fmax` chooses. -/
theorem chooseFp32_eq (larger : Bool) (a b : BitVec 32) :
    chooseFp32 larger a.toNat b.toNat = BitVec.toNat
      (if fpNan a && fpNan b then fpCanonical else if fpNan a then b else if fpNan b then a
        else if !(if larger then fpBelow a b else fpBelow b a) then a else b) := by
  simp only [chooseFp32, decode_isNan]
  by_cases ha : fpNan a = true
  · cases hb : fpNan b <;> simp [ha]
  · by_cases hb : fpNan b = true
    · simp [ha, hb]
    · rw [decode_below ha hb, decode_below hb ha]
      cases larger
      · cases fpBelow b a <;> simp [ha, hb]
      · cases fpBelow a b <;> simp [ha, hb]

/-- The relation of `fcmp.cc` on the values is the relation on the codes. Every relation is a Boolean combination of which operand is a NaN
and which key is the smaller, so what is left for each code is a truth table. -/
theorem floatCond_eq {c : Nat} (hc : c < 8) (a b : BitVec 32) :
    floatCond c (Fmt.fp32.decode a.toNat) (Fmt.fp32.decode b.toNat) = fpRelation c a b := by
  have hge : decide (fpKey b ≤ fpKey a) = !decide (fpKey a < fpKey b) := by rw [← decide_not, decide_eq_decide, not_lt]
  have hle : decide (fpKey a ≤ fpKey b) = !decide (fpKey b < fpKey a) := by rw [← decide_not, decide_eq_decide, not_lt]
  have heq : decide (fpKey a = fpKey b) = (!decide (fpKey a < fpKey b) && !decide (fpKey b < fpKey a)) := by
    rw [← hge, ← hle, ← Bool.decide_and, decide_eq_decide]
    omega
  have hne : decide (fpKey a ≠ fpKey b) = !decide (fpKey a = fpKey b) := decide_not
  unfold floatCond valCond Val.eq fpRelation
  simp only [decode_lt, decode_isNan, hne, heq, hge, hle]
  generalize fpNan a = na
  generalize fpNan b = nb
  generalize decide (fpKey a < fpKey b) = p
  generalize decide (fpKey b < fpKey a) = q
  interval_cases c <;> revert na nb p q <;> decide

/-! ### `fsgn` and `fclass` (R150, R151) -/

theorem withSign_eq (a : BitVec 32) (neg : Bool) :
    withSign a.toNat neg = BitVec.setWidth 64 (if fpNan a then fpCanonical else fpSigned neg (a.extractLsb' 0 31)) := by
  rw [withSign, decode_isNan]
  cases hn : fpNan a with
  | true => rfl
  | false =>
    rw [if_neg Bool.false_ne_true, if_neg Bool.false_ne_true, ← word_code, fpSigned_toNat, BitVec.extractLsb'_toNat, Nat.shiftRight_zero]

/-- The class bit of a code: its exponent field is 0 where its magnitude is below 2^23. -/
theorem classBit_eq (a : BitVec 32) : classBit a.toNat = fpClass a := by
  have hsub : (a.extractLsb' 23 8 == 0#8) = decide (a.toNat % 2 ^ 31 < 2 ^ 23) := by
    rw [Bool.eq_iff_iff, beq_iff_eq, decide_eq_true_iff, ← BitVec.toNat_inj, fpExponent_toNat, BitVec.toNat_ofNat, fpMag]
    omega
  simp only [classBit, fpClass, fpSign_eq, decode_fp32, hsub]
  cases fpNan a
  · cases fpInf a
    · cases fpZero a
      · simp
      · rfl
    · rfl
  · rfl

theorem word_two_pow (k : Nat) : word (2 ^ k) = 1#64 <<< k := by
  rw [← mul_word_two_pow, BitVec.one_mul]

/-! ### `fcvt` (R149) -/

theorem wrapInt_lt (n : Nat) (v : Int) : wrapInt n v < 2 ^ n := by
  have hpos : (0 : Int) < Int.ofNat (2 ^ n) := Int.natCast_pos.2 (Nat.two_pow_pos n)
  have hlt := Int.emod_lt_of_pos v hpos
  exact (Int.toNat_lt (Int.emod_nonneg v hpos.ne')).2 hlt

theorem intRange_lt (n : Nat) (sgn ovf : Bool) (v : Int) : intRange n sgn ovf v < 2 ^ n := by
  unfold intRange
  simp only
  split <;> exact wrapInt_lt ..

theorem rndInt_lt (n : Nat) (sgn : Bool) (rm : Nat) (ovf : Bool) (x : Val) : rndInt n sgn rm ovf x < 2 ^ n := by
  cases x with
  | nan => exact Nat.two_pow_pos n
  | inf neg =>
    simp only [rndInt]
    split
    · exact Nat.two_pow_pos n
    · exact intRange_lt ..
  | zero neg => exact Nat.two_pow_pos n
  | fin neg m e => exact intRange_lt ..

/-- A magnitude of n units, each 2^16 times the last place of its FP32 code, needs no rounding; k is one less than the exponent field of a
normal code, and 0 for a subnormal one. -/
theorem round_fp32_exact (neg : Bool) {n k : Nat} {e : Int} (rm : Nat) (ovf : Bool) (he : e = k - 133)
    (hex : max ((Nat.log2 n : Nat) + e) (-126) = k - 126) (hmax : k * 2 ^ 23 + n * 2 ^ 16 ≤ 0x7F7FFFFF) :
    Fmt.fp32.round neg n e false rm ovf = Fmt.fp32.signBit neg + (k * 2 ^ 23 + n * 2 ^ 16) := by
  have hunits : roundUnits neg n e false (k - 126 - 23) rm = n * 2 ^ 16 := by
    rw [roundUnits, if_pos (by omega), show (e - (k - 126 - 23)).toNat = 16 by omega]
  have hround : Fmt.fp32.round neg n e false rm ovf =
      let ex := max ((Nat.log2 n : Nat) + e) (-126)
      let code := (ex - -126).toNat * 2 ^ 23 + roundUnits neg n e false (ex - 23) rm
      if 0x7F7FFFFF < code then Fmt.fp32.overflow neg rm ovf else Fmt.fp32.signBit neg + code := rfl
  have hk : ((k : Int) - 126 - -126).toNat = k := by omega
  rw [hround]
  simp only [hex, hunits, hk]
  rw [if_neg (by omega)]

/-- The exact value of a BF16 code, by its sign, exponent and fraction (R49). -/
theorem decode_bf16 (c : Nat) :
    Fmt.bf16.decode c =
      let neg := c / 2 ^ 15 % 2 == 1
      let e : Nat := c % 2 ^ 15 / 2 ^ 7
      let m : Nat := c % 2 ^ 15 % 2 ^ 7
      if e = 255 then (if m = 0 then .inf neg else .nan)
      else if e = 0 then Val.mk neg m (1 - 127 - 7) else .fin neg (2 ^ 7 + m) (e - 127 - 7) := rfl

/-- A BF16 code as FP32: the same value, whose code is 2^16 times as large; a NaN gives the canonical one. -/
theorem rnd_decode_bf16 (b : BitVec 16) :
    rnd .fp32 0 true (Fmt.bf16.decode b.toNat) =
      if b.toNat % 2 ^ 15 / 2 ^ 7 = 255 ∧ b.toNat % 2 ^ 7 ≠ 0 then Fmt.fp32.nanOut else b.toNat * 2 ^ 16 := by
  have hlt := b.isLt
  have hsign : Fmt.fp32.signBit (b.toNat / 2 ^ 15 % 2 == 1) = b.toNat / 2 ^ 15 * 2 ^ 31 := by
    obtain h | h : b.toNat / 2 ^ 15 = 0 ∨ b.toNat / 2 ^ 15 = 1 := by omega
    all_goals rw [h]; rfl
  have hfrac : b.toNat % 2 ^ 15 % 2 ^ 7 = b.toNat % 2 ^ 7 := by omega
  rw [decode_bf16, hfrac]
  generalize (b.toNat / 2 ^ 15 % 2 == 1) = neg at hsign
  simp only
  by_cases htop : b.toNat % 2 ^ 15 / 2 ^ 7 = 255
  · rw [if_pos htop]
    by_cases hm : b.toNat % 2 ^ 7 = 0
    · rw [if_pos hm, if_neg (by omega), show rnd .fp32 0 true (.inf neg) = Fmt.fp32.signBit neg + 255 * 2 ^ 23 from rfl, hsign]
      omega
    · rw [if_neg hm, if_pos ⟨htop, hm⟩]
      rfl
  · have hnum : ¬ (b.toNat % 2 ^ 15 / 2 ^ 7 = 255 ∧ b.toNat % 2 ^ 7 ≠ 0) := fun h => htop h.1
    rw [if_neg htop, if_neg hnum]
    by_cases hsub : b.toNat % 2 ^ 15 / 2 ^ 7 = 0
    · rw [if_pos hsub, Val.mk]
      by_cases hm : b.toNat % 2 ^ 7 = 0
      · rw [if_pos hm, show rnd .fp32 0 true (.zero neg) = Fmt.fp32.signBit neg from rfl, hsign]
        omega
      · have hlog : Nat.log2 (b.toNat % 2 ^ 7) < 7 := (Nat.log2_lt hm).2 (Nat.mod_lt _ (by decide))
        rw [if_neg hm, rnd, round_fp32_exact (k := 0) neg 0 true (by omega) (by omega) (by omega), hsign]
        omega
    · have hlog : Nat.log2 (2 ^ 7 + b.toNat % 2 ^ 7) = 7 := (Nat.log2_eq_iff (by omega)).2 (by omega)
      rw [if_neg hsub, rnd,
        round_fp32_exact (k := b.toNat % 2 ^ 15 / 2 ^ 7 - 1) neg 0 true (by omega) (by rw [hlog]; omega) (by omega), hsign]
      omega

/-- R149, kind 9. -/
theorem word_rnd_decode_bf16 (w : Word) :
    word (rnd .fp32 0 true (Fmt.bf16.decode (w.toNat % 2 ^ 16))) =
      if w.extractLsb' 7 8 == 255#8 && w.extractLsb' 0 7 != 0#7 then fpCanonical.setWidth 64
      else ((w.setWidth 16 ++ 0#16 : BitVec 32)).setWidth 64 := by
  have hnan : (w.extractLsb' 7 8 == 255#8 && w.extractLsb' 0 7 != 0#7) = true ↔
      (w.setWidth 16).toNat % 2 ^ 15 / 2 ^ 7 = 255 ∧ (w.setWidth 16).toNat % 2 ^ 7 ≠ 0 := by
    rw [Bool.and_eq_true, beq_iff_eq, bne_iff_ne, Ne, ← BitVec.toNat_inj, ← BitVec.toNat_inj, BitVec.extractLsb'_toNat,
      BitVec.extractLsb'_toNat, Nat.shiftRight_eq_div_pow, Nat.shiftRight_zero, BitVec.toNat_ofNat, BitVec.toNat_ofNat,
      BitVec.toNat_setWidth]
    omega
  simp only [hnan]
  rw [← BitVec.toNat_setWidth, rnd_decode_bf16]
  split
  · rfl
  · rw [← word_code, BitVec.toNat_append, Nat.shiftLeft_eq]
    simp

/-- A conversion's result as a word, by its kind. -/
theorem answers_fcvt {s : State} {o : Operands} {k : Nat} {v : Word} (hk : o.fn.toNat % 16 = k)
    (hv : convert k (o.fn.toNat / 32) (s.reg o.ra) = v) : Answers (.fcvt o) s (fun t => WritesRegister s t o o.rd v) :=
  answers_of_finish rfl (by rw [fnAt_zero, Operands.rm_eq, ← hv, ← hk]; rfl)

end Sys2Proof.Machine

namespace Sys2Proof

open Sys2Proof.Machine Sys2Proof.Safety

/-- Settles O8. The choices, relations, signs and classes are those of the codes, since codes are ordered as their values (`decode_lt_iff`);
each kind of `fcvt` is its rounding, whose result fits the width that it is written at. -/
theorem floatCompareAndConvert : Obligations.FloatCompareAndConvert := by
  refine ⟨fun s o => ?_, fun s o => ?_⟩
  · intro a b puts choose sign
    have hsign : ∀ x : Word, x.getLsbD 31 = (x.setWidth 32).getLsbD 31 := fun x => by rw [BitVec.getLsbD_setWidth]; rfl
    refine ⟨answers_of_finish rfl ?_, answers_of_finish rfl ?_, answers_of_finish rfl ?_, answers_of_finish rfl ?_,
      answers_of_finish rfl ?_, answers_of_finish rfl ?_, answers_of_finish rfl ?_⟩
    · rw [State.low32_eq, State.low32_eq, chooseFp32_eq, word_code]
      rfl
    · rw [State.low32_eq, State.low32_eq, chooseFp32_eq, word_code]
      rfl
    · rw [State.fval_eq, State.fval_eq, Operands.cc_eq, floatCond_eq (Nat.mod_lt _ (by decide))]
    · rw [State.low32_eq, withSign_eq, bitAt_eq, hsign]
    · rw [State.low32_eq, withSign_eq, bitAt_eq, hsign]
    · rw [State.low32_eq, withSign_eq, bitAt_eq, bitAt_eq, hsign, hsign]
    · rw [State.low32_eq, classBit_eq, word_two_pow]
  · intro kind rm w a x fp puts
    have ha : w.toNat % 2 ^ 32 = a.toNat := (BitVec.toNat_setWidth ..).symm
    have hcode : ∀ m v, word (rnd .fp32 m true v) = (BitVec.ofNat 32 (rnd .fp32 m true v)).setWidth 64 := fp32Word_eq
    refine ⟨fun hk => answers_fcvt hk ?_, fun hk => answers_fcvt hk ?_, fun hk => answers_fcvt hk ?_, fun hk => answers_fcvt hk ?_,
      fun hk => answers_fcvt hk ?_, fun hk => answers_fcvt hk ?_, fun hk => answers_fcvt hk ?_, fun hk => answers_fcvt hk ?_,
      fun hk => answers_fcvt hk ?_, fun hk => answers_fcvt hk ?_⟩
    all_goals simp only [convert, show s.reg o.ra = w from rfl, ha]
    · exact sextNat_eq (by decide) _
    · exact word_eq_setWidth (rndInt_lt ..)
    · rfl
    · rfl
    · rw [signedNat_eq, BitVec.ofNat_toNat]
      exact hcode 0 _
    · exact hcode 0 _
    · rw [signedNat_eq, BitVec.ofNat_toNat]
      exact hcode rm _
    · exact hcode rm _
    · exact word_eq_setWidth (Fmt.bf16_bounded.rnd_lt ..)
    · exact word_rnd_decode_bf16 w

end Sys2Proof
end
